-- ==== Sys2Proof/Word.lean ====
section
/-!
DEFINITION. The word types of the Cundaza S4 (R5): bytes, 32-bit register values, 64-bit words and lane masks.
Byte order and every other helper that a test could show wrong stand under Machine/.
-/
namespace Sys2Proof

/-- One byte of memory. -/
abbrev Byte := BitVec 8
/-- One 32-bit register value. -/
abbrev W32 := BitVec 32
/-- A 64-bit word: an instruction word, a clause header, a generic address. -/
abbrev Word := BitVec 64
/-- A set of lanes of a squad: bit l is lane l (R17). -/
abbrev Lanes := BitVec 32
/-- The five sticky floating-point flags of R126: [0] inexact, [1] underflow, [2] overflow,
[3] divide-by-zero, [4] invalid. -/
abbrev Flags := BitVec 5

end Sys2Proof
end

