-- ==== Sys2Proof/Config.lean ====
section
/-!
DEFINITION. What the specification leaves open, as constants without a body: nothing in Lean can evaluate them or prove a
value of them. State.free is the counter that they are applied to where each use may give another value.
-/
namespace Sys2Proof

/-- A value that the specification leaves unspecified, one for each value of the counter State.free: which of two racing writes
stands, the bytes of an undefined field, the victim of a cache replacement (notes/assumptions/1.md). -/
opaque Config.freeWord : Nat → Word

/-- The set of the 16-way read-only cache (R2) in which the line at a home address stands; the specification gives no index function
(notes/assumptions/13.md). -/
opaque Config.lineSet : Nat → Nat

/-- What the special-function unit returns where R173 to R175 give an error bound and no value: grade, function code,
operands. The model takes it only within the bound, and otherwise the nearest value within it (notes/assumptions/2.md). -/
opaque Config.sfuValue : Bool → Nat → W32 → W32 → W32

/-- What the exponent unit X of R374 returns within its error bound (notes/assumptions/2.md). -/
opaque Config.expValue : W32 → W32

/-- The bytes of an entry of a section of the SUMMARY record: R425 gives what an entry holds and how long it is, and not where in it
each value stands. Applied to the number of the section and to the values (notes/assumptions/44.md). -/
opaque Config.summaryEntry : Nat → List Nat → List Byte

/-- Whether the host completes an AtomicOp on an address of its memory as an Unsupported Request (R194): it depends on the root port
(notes/assumptions/58.md). -/
opaque Config.atomicUnsupported : Nat → Bool

/-- The MAC address of a network port, fixed in the identity data of the module (R428). -/
opaque Config.portMac : Nat → BitVec 48

/-- Whether the bytes of a firmware image carry a good signature (R433, R434; notes/assumptions/47.md). -/
opaque Config.imageGood : List Byte → Bool

end Sys2Proof
end

