-- ==== Sys2Proof/Syntax.lean ====
section
/-!
DEFINITION. The syntax of the machine's steps: the engine classes, the source and destination fields (R99 to R105),
the six instruction formats, and Instr, with one constructor for each row of spec/opcode_table.json: the instructions of
the Limmet set (R109) first, then the commands of the host and the events of the part (95_what_each_step_holds.md).
-/
namespace Sys2Proof

/-- The engine classes of a clause header (R93). -/
inductive Eng where
  | lane | sfu | mem | mig | sync | copy | mtx | row | sig | task | exp | ctl
  deriving DecidableEq, Repr

/-- The destination kinds of R99 and R101. -/
inductive DK where
  | vec | uni | pred | none
  deriving DecidableEq, Repr

/-- The six per-squad counter classes (R16), with the codes of R271 in order. -/
inductive CounterClass where
  | cp | mx | rw | sg | rm | xp
  deriving DecidableEq, Repr

/-- A source field (R104): a vector, uniform or latch register, or a 9-bit two's complement immediate. For an operand that is
a predicate, rejoin mask, tile descriptor or accumulator, vec numbers that class instead. -/
inductive Src where
  | vec (n : BitVec 9)
  | uni (n : BitVec 9)
  | lat (n : BitVec 3)
  | imm (v : BitVec 9)
  deriving DecidableEq, Repr

/-- The fields that every instruction word has (R99), the opcode apart. -/
structure Common where
  /-- guard predicate; 31 means always -/
  gp : BitVec 5
  /-- the guard is negated -/
  gn : Bool
  dk : DK
  dn : BitVec 9
  /-- register write-back suppressed -/
  nw : Bool
  /-- the result is also written to latch ln -/
  le : Bool
  ln : BitVec 3
  deriving DecidableEq, Repr

/-- Format FM (R105): two sources and MOD. -/
structure FM where
  c : Common
  sa : Src
  sb : Src
  mod : BitVec 12
  deriving DecidableEq, Repr

/-- Format F3 (R105): three sources. -/
structure F3 where
  c : Common
  sa : Src
  sb : Src
  sc : Src
  deriving DecidableEq, Repr

/-- Format FI (R105): one source and a signed 23-bit immediate. -/
structure FI where
  c : Common
  sa : Src
  imm : BitVec 23
  deriving DecidableEq, Repr

/-- Format FK (R105): a 32-bit immediate. -/
structure FK where
  c : Common
  imm : W32
  deriving DecidableEq, Repr

/-- Format FA (R105): a base pair, MOD and a signed 12-bit byte offset. -/
structure FA where
  c : Common
  base : Src
  mod : BitVec 11
  off : BitVec 12
  deriving DecidableEq, Repr

/-- Format FC (R105): a signed 26-bit offset in 8-byte units and AUX. -/
structure FC where
  c : Common
  off : BitVec 26
  aux : BitVec 8
  deriving DecidableEq, Repr

/-- The bytes of one migration bundle as another chip sends it (R237): a 16-byte header and 1 to 32 leaves. -/
structure Bundle where
  bytes : List Byte
  deriving DecidableEq, Repr

/-- The steps of the machine, one constructor for each row of spec/opcode_table.json. -/
inductive Instr where
  /-- R132: Adds two 32-bit operands per lane, signed or unsigned, with optional saturation. -/
  | iadd (w : FM)
  /-- R132: Subtracts two 32-bit operands per lane, with optional saturation. -/
  | isub (w : FM)
  /-- R132: Multiplies two 32-bit operands per lane and keeps the low 32 bits or a saturated result. -/
  | imul (w : FM)
  /-- R132: Writes the high 32 bits of the exact 64-bit product, signed or unsigned. -/
  | imulh (w : FM)
  /-- R133: Writes (SA x SB + SC) mod 2^32 per lane. -/
  | imad (w : F3)
  /-- R134: Adds or subtracts 64-bit register pairs, with optional saturation. -/
  | iadd64 (w : FM)
  /-- R135: Forms a 64-bit address from a base pair plus a shifted, extended 32-bit index. -/
  | lea (w : FM)
  /-- R132: Writes the signed or unsigned minimum of two operands. -/
  | imin (w : FM)
  /-- R132: Writes the signed or unsigned maximum of two operands. -/
  | imax (w : FM)
  /-- R132: Writes the absolute value of a signed operand, optionally saturated. -/
  | iabs (w : FM)
  /-- R136: Bitwise AND of two 32-bit or 64-bit operands. -/
  | and (w : FM)
  /-- R136: Bitwise OR of two 32-bit or 64-bit operands. -/
  | or (w : FM)
  /-- R136: Bitwise XOR of two 32-bit or 64-bit operands. -/
  | xor (w : FM)
  /-- R136: Bitwise a AND NOT b of two 32-bit or 64-bit operands. -/
  | andn (w : FM)
  /-- R137: Shifts left with zero fill, giving 0 for amounts at or above the width. -/
  | shl (w : FM)
  /-- R137: Shifts right with zero fill. -/
  | shr (w : FM)
  /-- R137: Shifts right with sign fill. -/
  | sar (w : FM)
  /-- R137: Rotates left by the amount modulo the width. -/
  | rotl (w : FM)
  /-- R138: Funnel-shifts the 64-bit concatenation of two registers right and keeps 32 bits. -/
  | fshr (w : F3)
  /-- R139: Extracts a bit field, optionally sign-extended. -/
  | bfx (w : FM)
  /-- R139: Inserts a bit field into a register value. -/
  | bfi (w : F3)
  /-- R140: Counts the one bits of the operand. -/
  | popc (w : FM)
  /-- R140: Counts the leading zero bits of the operand. -/
  | clz (w : FM)
  /-- R140: Reverses the bit order of the operand. -/
  | brev (w : FM)
  /-- R141: Selects four bytes from the eight bytes of two registers. -/
  | prmt (w : FM)
  /-- R142: Compares integers and optionally combines the outcome with a predicate. -/
  | icmp (w : FM)
  /-- R143: Selects one of two sources per lane by a predicate. -/
  | sel (w : F3)
  /-- R144: Copies a 32-bit or 64-bit source to the destination. -/
  | mov (w : FM)
  /-- R144: Writes a 32-bit immediate to the destination. -/
  | movi (w : FK)
  /-- R145: Adds two FP32 operands with selectable rounding, negation and saturation. -/
  | fadd (w : FM)
  /-- R145: Multiplies two FP32 operands with selectable rounding, negation and saturation. -/
  | fmul (w : FM)
  /-- R146: Fused FP32 multiply-add rounded to nearest even. -/
  | ffmaRn (w : F3)
  /-- R146: Fused FP32 multiply-add rounded toward zero. -/
  | ffmaRz (w : F3)
  /-- R146: Fused FP32 multiply-add rounded down. -/
  | ffmaRd (w : F3)
  /-- R146: Fused FP32 multiply-add rounded up. -/
  | ffmaRu (w : F3)
  /-- R147: Writes the IEEE minimumNumber of two FP32 operands. -/
  | fmin (w : FM)
  /-- R147: Writes the IEEE maximumNumber of two FP32 operands. -/
  | fmax (w : FM)
  /-- R142: Compares FP32 values under a condition code, optionally combined with a predicate. -/
  | fcmp (w : FM)
  /-- R148: Classifies an FP32 value into ten classes and masks the class bit. -/
  | fclass (w : FM)
  /-- R149: Multiplies an FP32 value by a power of two with rounding. -/
  | fscale (w : FM)
  /-- R150: Adds packed FP16 or BF16 element pairs. -/
  | hadd2 (w : FM)
  /-- R150: Multiplies packed FP16 or BF16 element pairs. -/
  | hmul2 (w : FM)
  /-- R151: Fused multiply-add of packed FP16 elements. -/
  | hfma2F16 (w : F3)
  /-- R151: Fused multiply-add of packed BF16 elements. -/
  | hfma2Bf16 (w : F3)
  /-- R150: Packed 16-bit minimumNumber. -/
  | hmin2 (w : FM)
  /-- R150: Packed 16-bit maximumNumber. -/
  | hmax2 (w : FM)
  /-- R153: Converts between integer and floating types with rounding and saturation. -/
  | cvt (w : FM)
  /-- R154: Converts FP32 to a narrow float with stochastic rounding. -/
  | cvtsr (w : FM)
  /-- R155: Rounds two FP32 values and packs them as two 16-bit elements. -/
  | pack2 (w : FM)
  /-- R156: Computes a predicate as a lookup-table function of two predicates. -/
  | plop (w : FM)
  /-- R157: Moves predicates to a register or sets predicates from a register under a mask. -/
  | pmov (w : FM)
  /-- R159: Forms any, all, ballot or equality of a predicate over participating lanes. -/
  | vote (w : FM)
  /-- R160: Reads a source of another participating lane by index, offset or butterfly. -/
  | shfl (w : FM)
  /-- R161: Reduces or scans a value over participating lanes in ascending lane order. -/
  | rduc (w : FM)
  /-- R162: Writes the mask of participants holding an equal value. -/
  | matchL (w : FM)
  /-- R163: Reads a special register. -/
  | sread (w : FM)
  /-- R163: Writes a read-write special register such as %fflags or a breakpoint comparator. -/
  | swrite (w : FM)
  /-- R165: Hashes a 64-bit value with a seed through MIX64. -/
  | hash64 (w : FM)
  /-- R166: Advances a CRC-32C state over 1, 2, 4 or 8 data bytes. -/
  | hcrc (w : FM)
  /-- R167: Compares two 16-byte register quads for equality, order or first difference. -/
  | bcmp (w : FM)
  /-- R168: Searches a 16-byte quad for a byte value. -/
  | bfind (w : FM)
  /-- R173: Fast-grade 2^x. -/
  | exp2 (w : FM)
  /-- R173: Accurate-grade 2^x. -/
  | exp2Acc (w : FM)
  /-- R173: Fast-grade e^x. -/
  | exp (w : FM)
  /-- R173: Accurate-grade e^x. -/
  | expAcc (w : FM)
  /-- R173: Fast-grade log2 x. -/
  | log2 (w : FM)
  /-- R173: Accurate-grade log2 x. -/
  | log2Acc (w : FM)
  /-- R173: Fast-grade natural logarithm. -/
  | ln (w : FM)
  /-- R173: Accurate-grade natural logarithm. -/
  | lnAcc (w : FM)
  /-- R173: Fast-grade reciprocal. -/
  | rcp (w : FM)
  /-- R173: Accurate-grade correctly rounded reciprocal. -/
  | rcpAcc (w : FM)
  /-- R173: Fast-grade reciprocal square root. -/
  | rsq (w : FM)
  /-- R173: Accurate-grade reciprocal square root. -/
  | rsqAcc (w : FM)
  /-- R173: Fast-grade square root. -/
  | sqrt (w : FM)
  /-- R173: Accurate-grade correctly rounded square root. -/
  | sqrtAcc (w : FM)
  /-- R174: Fast-grade sine with exact argument reduction up to 2^20. -/
  | sin (w : FM)
  /-- R174: Accurate-grade sine. -/
  | sinAcc (w : FM)
  /-- R174: Fast-grade cosine. -/
  | cos (w : FM)
  /-- R174: Accurate-grade cosine. -/
  | cosAcc (w : FM)
  /-- R173: Fast-grade hyperbolic tangent. -/
  | tanh (w : FM)
  /-- R173: Accurate-grade hyperbolic tangent. -/
  | tanhAcc (w : FM)
  /-- R173: Fast-grade logistic sigmoid. -/
  | sigm (w : FM)
  /-- R173: Accurate-grade logistic sigmoid. -/
  | sigmAcc (w : FM)
  /-- R173: Fast-grade GELU. -/
  | gelu (w : FM)
  /-- R173: Accurate-grade GELU. -/
  | geluAcc (w : FM)
  /-- R173: Fast-grade SiLU. -/
  | silu (w : FM)
  /-- R173: Accurate-grade SiLU. -/
  | siluAcc (w : FM)
  /-- R173: Fast-grade error function. -/
  | erf (w : FM)
  /-- R173: Accurate-grade error function. -/
  | erfAcc (w : FM)
  /-- R173: Fast-grade FP32 division. -/
  | fdiv (w : FM)
  /-- R173: Accurate-grade correctly rounded FP32 division. -/
  | fdivAcc (w : FM)
  /-- R186: Loads 1 to 16 bytes per lane from the steered target. -/
  | ld (w : FA)
  /-- R186: Stores 1 to 16 bytes per lane to the steered target, posted. -/
  | st (w : FA)
  /-- R186: Acquire load at a scope, served from home. -/
  | lda (w : FA)
  /-- R186: Release store at a scope, issued once its release is satisfied. -/
  | stl (w : FA)
  /-- R191: Atomic read-modify-write at home returning the old value. -/
  | atom (w : FM)
  /-- R192: Posted atomic update that returns nothing. -/
  | red (w : FM)
  /-- R193: Compare-and-swap of a 4- or 8-byte location with success and failure orderings. -/
  | cas (w : FM)
  /-- R195: Orders the thread's accesses by kind at a scope and propagates its cumulative set. -/
  | fence (w : FM)
  /-- R198: Asks that a read-only line be brought into the read-only cache. -/
  | pref (w : FA)
  /-- R199: Converts or classifies addresses between apertures without memory access. -/
  | cvta (w : FM)
  /-- R256: Creates roaming child threads within the launch's reserve. -/
  | spawn (w : FM)
  /-- R252: Moves each lane to the home core of its address. -/
  | migr (w : FA)
  /-- R253: Writes a description of the home of an address. -/
  | home (w : FM)
  /-- R254: Performs an atomic at the home of its address without migrating. -/
  | ratom (w : FM)
  /-- R255: Sets or, with .unpin, clears the pin flag of roaming lanes. -/
  | pin (w : FM)
  /-- R257: Reads queue, ring, slot or bin occupancy of a core. -/
  | aqstat (w : FM)
  /-- R272: Initialises a sync word with a target and mode. -/
  | swinit (w : FM)
  /-- R272: Re-arms a sync word's target and evaluates it. -/
  | swarm (w : FM)
  /-- R272: Releases at die scope and adds a count to a sync word. -/
  | swadd (w : FI)
  /-- R266: Waits until a sync word's generation differs from a given value. -/
  | swwait (w : FM)
  /-- R264: Arrives at a named team barrier and waits for its round. -/
  | bar (w : FM)
  /-- R273: Arrives at a named barrier without waiting. -/
  | bararv (w : FM)
  /-- R268: Waits for a stage-ring slot's phase and returns its address. -/
  | rget (w : FM)
  /-- R272: Releases and flips a stage-ring slot's phase bit. -/
  | rput (w : FM)
  /-- R270: Waits until a counter class has at most n outstanding operations. -/
  | waite (w : FM)
  /-- R274: Reads a per-squad counter. -/
  | cntrd (w : FM)
  /-- R286: Queues a load of storage rows into a canonical tile grid, optionally transposed. -/
  | tload (w : FM)
  /-- R286: Queues a store of a canonical grid to storage rows. -/
  | tstore (w : FM)
  /-- R288: Queues a gather of indexed storage rows into a canonical grid. -/
  | tgather (w : FM)
  /-- R288: Queues a scatter of canonical rows to indexed storage rows. -/
  | tscatter (w : FM)
  /-- R291: Attaches, or with .cancel stops, a base-die stream on a stage ring. -/
  | tsub (w : FM)
  /-- R290: Builds a row-address list and gather descriptor from a page table. -/
  | twalk (w : FM)
  /-- R289: Fills a canonical grid or storage rows with a pattern. -/
  | tfill (w : FM)
  /-- R289: Copies canonical tiles between vaults, possibly to another die. -/
  | tmove (w : FM)
  /-- R308: Dense tile product accumulated into an accumulator. -/
  | mma (w : FM)
  /-- R309: Tile product with gathered A rows and scattered result rows. -/
  | mmag (w : FM)
  /-- R310: 2:4 sparse A tile product with metadata. -/
  | mmas (w : FM)
  /-- R312: Multiplies representatives and expands results to member rows. -/
  | mmad (w : FM)
  /-- R313: Zeroes an accumulator. -/
  | acz (w : FM)
  /-- R313: Loads an accumulator from a canonical grid. -/
  | acld (w : FM)
  /-- R313: Stores an accumulator to a canonical grid with conversion. -/
  | acst (w : FM)
  /-- R314: Reads an accumulator column or row into vector registers. -/
  | acrd (w : FM)
  /-- R315: Writes or, with .rd, reads a tile descriptor. -/
  | opmap (w : FM)
  /-- R324: Computes per-row max, sum, square sum or exp-sum of an accumulator. -/
  | rstat (w : FM)
  /-- R329: Selects the k highest-ranked candidates deterministically. -/
  | topk (w : FM)
  /-- R330: Merges two candidate lists and keeps the top k. -/
  | topkm (w : FM)
  /-- R331: Computes upward-rounded page score bounds for a query. -/
  | pbound (w : FM)
  /-- R340: Computes signed-random-projection signatures of rows. -/
  | sign (w : FM)
  /-- R341: Buckets rows by signature, elects representatives and writes the membership map. -/
  | srep (w : FM)
  /-- R343: Sums gradient rows per bucket through a membership map. -/
  | sgsum (w : FM)
  /-- R344: Builds bucket-restricted key lists for queries. -/
  | sbkt (w : FM)
  /-- R361: Submits a device launch through the core's pending-launch queue. -/
  | launch (w : FM)
  /-- R362: Waits on a completion word's generation. -/
  | join (w : FM)
  /-- R364: Creates one task per non-empty 64-token tile of each expert. -/
  | tspawn (w : FM)
  /-- R365: Reads the remaining budget or sets the launch's deadline. -/
  | slice (w : FM)
  /-- R366: Writes a 64-bit value as a system-scope release store. -/
  | post (w : FM)
  /-- R362: Waits on a completion word and asks for the squad's swap-out. -/
  | swapout (w : FM)
  /-- R377: Queues a routing pass or, with .def, a shape-entry definition. -/
  | route (w : FM)
  /-- R388: Opens a combine context from a context block. -/
  | cbopen (w : FM)
  /-- R389: Posts one expert result row for a token and rank. -/
  | cbput (w : FM)
  /-- R397: Closes a combine context, releasing every unreleased token. -/
  | cbclose (w : FM)
  /-- R402: Reads a status value of a combine context. -/
  | cbstat (w : FM)
  /-- R217: Has no effect. -/
  | nop (w : FM)
  /-- R215: Branches to a relative clause address per lane. -/
  | bra (w : FC)
  /-- R215: Branches to a computed base plus index target. -/
  | brx (w : FM)
  /-- R215: Branches and writes the link address to a pair. -/
  | call (w : FC)
  /-- R215: Branches to the address held in a pair. -/
  | ret (w : FM)
  /-- R216: Ends each lane whose guard holds. -/
  | exitL (w : FM)
  /-- R217: Makes the gang leave the active set at the clause end. -/
  | yield (w : FM)
  /-- R116: Delivers user trap 0x08 with an immediate. -/
  | trap (w : FI)
  /-- R116: Delivers breakpoint trap 0x09 with an immediate. -/
  | bkpt (w : FI)
  /-- R116: Leaves the handler, resuming at or after the trapping word. -/
  | tret (w : FC)
  /-- R220: Sets a rejoin mask's expected lanes and clears its rounds. -/
  | rjset (w : FM)
  /-- R220: Arrives at a rejoin mask without waiting. -/
  | rjarv (w : FM)
  /-- R220: Arrives at a rejoin mask and waits for its round. -/
  | rjwait (w : FM)
  /-- R218: Decrements a count register and branches back while it exceeds one. -/
  | loop (w : FC)
  /-- R218: Clears a loop count and branches out. -/
  | lbrk (w : FC)
  /-- R415: Host writes a queue tail, releasing its entries for reading. -/
  | doorbellWrite (fn : Nat) (q : Nat) (tail : BitVec 32)
  /-- R410: Writing ENABLE starts the admin queue and event ring afresh or stops queue reading. -/
  | enableWrite (fn : Nat) (v : Bool)
  /-- R410: Writing 1 to QERR clears it. -/
  | qerrClear (fn : Nat)
  /-- R422: Host advances EVHEAD, freeing event-ring room for held events. -/
  | evheadWrite (fn : Nat) (v : BitVec 32)
  /-- R410: Write to a BAR0 register with no behaviour of its own. -/
  | registerWrite (fn : Nat) (off : Nat) (v : BitVec 64)
  /-- R422: Writes an event record to the event ring once room exists, then signals MSI-X. -/
  | eventWrite (fn : Nat)
  /-- R418: A graph node whose predecessors have resolved runs or is skipped. -/
  | graphNodeReady (cmd : Nat) (node : Nat)
  /-- R416: A WAIT re-evaluates its condition on a write or the 1 us interval. -/
  | waitReevaluate (cmd : Nat)
  /-- R433: PLLs lock and die clocks and %clock start. -/
  | pllLock (die : Nat)
  /-- R433: UCIe links train and dies 1 to 3 load the image. -/
  | ucieTraining (up : BitVec 4)
  /-- R433: Ultra Ethernet ports train, failures reported as events. -/
  | portTraining (up : BitVec 8)
  /-- R428: A network port goes down in service; traffic moves and an event is written. -/
  | networkPortDown (port : Nat)
  /-- R429: A UCIe link loses a lane; launches with traffic on it end with LINK_LOST. -/
  | ucieLinkDown (link : Nat)
  /-- R432: A temperature crossing changes the withheld issue cycles of a die. -/
  | thermalThrottle (die : Nat) (dieTemp : Nat) (hbmTemp : Nat)
  /-- R432: Shutdown temperature ends every launch and removes die power. -/
  | thermalShutdown (die : Nat) (dieTemp : Nat) (hbmTemp : Nat)
  /-- R62: A TLB miss walk completes, installing an entry or faulting. -/
  | pageWalk (walk : Nat)
  /-- R68: A slice controller accepts the head request at a slot. -/
  | sliceAccept (core : Nat)
  /-- R68: An accepted load returns its data 296 cy later. -/
  | sliceLoadReturn (req : Nat)
  /-- R68: An accepted atomic returns its old value 310 cy later. -/
  | atomicReturn (req : Nat)
  /-- R74: A posted write reaches its home and becomes visible to all. -/
  | writeAtHome (ent : Nat)
  /-- R70: A home acknowledges a posted remote operation and rm falls. -/
  | remoteAck (ent : Nat)
  /-- R70: A remote word read or remote atomic returns to the blocked gang. -/
  | remoteLoadReturn (req : Nat)
  /-- R194: A host-memory read, write or AtomicOp completes over PCI Express. -/
  | hostAccessComplete (req : Nat)
  /-- R16: A completed engine operation retires in class order and lowers its counter. -/
  | operationRetire (squad : Nat) (cls : CounterClass)
  /-- R222: Released rejoin lanes form gangs ready 4 cy after completion. -/
  | rejoinRelease (squad : Nat) (mask : Nat)
  /-- R261: The vault's sync engine performs an update or flip on a sync word. -/
  | syncWordUpdate (upd : Nat)
  /-- R264: Arrivals reach the barrier's core and are counted, completing rounds. -/
  | barrierArrival (arr : Nat)
  /-- R36: A partition swaps to its shadow bank for an urgent launch. -/
  | shadowSwap (core : Nat) (part : Nat)
  /-- R36: The partition swaps back 40 cy after its last urgent gang leaves. -/
  | shadowSwapBack (core : Nat) (part : Nat)
  /-- R37: After counters drain, squads and team frames are written and allocations freed. -/
  | teamSave (team : Nat)
  /-- R29: A refused save is tried again after a frame frees or RESUME. -/
  | saveRetry (team : Nat) (squad : Nat)
  /-- R38: A saved team is checked and restored when its squads can be resident. -/
  | teamRestore (team : Nat)
  /-- R39: A squad whose lanes are all parked, waiting or exited is saved. -/
  | faultSave (squad : Nat)
  /-- R201: An eligible fault-saved squad is restored and parked lanes re-execute. -/
  | faultRestore (squad : Nat)
  /-- R363: A squad waiting in JOIN over 4,096 cy or in SWAPOUT is saved. -/
  | swapOut (squad : Nat)
  /-- R363: A swapped squad is restored after its waited word's GEN changes. -/
  | swapIn (squad : Nat)
  /-- R216: A squad whose lanes have exited drains and frees its allocations. -/
  | squadRetire (squad : Nat)
  /-- R47: After 1,000,000 cy with every gang waiting, a no-progress event is raised. -/
  | noProgress (core : Nat) (part : Nat)
  /-- R353: Intake blocked on a full table for 1,000,000 cy raises no-progress. -/
  | taskEngineNoProgress (die : Nat)
  /-- R361: A device launch record read completes and its entry becomes ready. -/
  | launchRecordRead (entry : Nat)
  /-- R353: The task engine checks and accepts the earliest ready pending launch. -/
  | launchAccept (die : Nat)
  /-- R354: When room frees, the first launch in order places its next team. -/
  | teamPlace (group : Nat)
  /-- R249: A roaming launch is admitted when the pool has room, and creation leaves are sent. -/
  | roamingAdmission (handle : Nat)
  /-- R357: A launch completes: completion word update, record and table entry freed. -/
  | launchComplete (handle : Nat)
  /-- R359: A squad's budget counter reaching zero ends the launch. -/
  | budgetExhausted (squad : Nat)
  /-- R437: A held engine update is retried and performed when it succeeds. -/
  | heldUpdateRetry (upd : Nat)
  /-- R239: A migrating lane is drained, packed as a leaf and enters the departure buffer. -/
  | leafDepart (squad : Nat) (lane : Nat)
  /-- R240: The departure buffer sends one leaf into the network. -/
  | leafSend (core : Nat)
  /-- R237: A bundle is sent at 32 leaves or 64 cy after its first leaf. -/
  | bundleSend (die : Nat) (chip : Nat)
  /-- R237: A bundle arrives and its leaves are delivered or it is discarded. -/
  | bundleArrival (core : Nat) (b : Bundle)
  /-- R237: An undeliverable packet raises LINK_LOST for its launches. -/
  | transportRetryLimit (bundle : Nat)
  /-- R243: A leaf reaching its core is stamped and placed in queue or rings. -/
  | leafArrival (leaf : Nat)
  /-- R244: A held leaf is read back into the inbound queue in stamp order. -/
  | ringReadback (core : Nat)
  /-- R244: A granted credit sends a transit leaf to its destination. -/
  | transitCredit (core : Nat)
  /-- R246: The dispatcher places the head leaf into a bin of a partition. -/
  | arrivalDispatch (core : Nat)
  /-- R247: A bin is released as a gang when full, on BINWAIT or when forced. -/
  | binRelease (bin : Nat)
  /-- R242: The die refreshes its ring-occupancy table every 16 or 64 cy. -/
  | poolTableRefresh (die : Nat) (wide : Bool)
  /-- R285: The copy engine starts a queued operation and performs its setup. -/
  | copyOperationStart (core : Nat)
  /-- R293: Written destination rows post arrivals to the sync word. -/
  | copyRowWritten (op : Nat)
  /-- R292: A base-die stream moves one item when its slot phase allows. -/
  | streamItem (stream : Nat)
  /-- R299: A matrix engine starts a queued operation and checks its descriptors. -/
  | matrixOperationStart (core : Nat) (engine : Nat)
  /-- R322: The row engine starts a queued operation. -/
  | rowOperationStart (core : Nat)
  /-- R337: The signature stage starts a queued operation. -/
  | signatureOperationStart (core : Nat)
  /-- R378: The routing engine starts a pass or definition and checks it. -/
  | routeOperationStart (die : Nat)
  /-- R388: The combine buffer performs a CBOPEN's checks, snapshot and open. -/
  | contextOpen (die : Nat)
  /-- R389: An arriving CBPUT row is taken to a slot, ring, hold or discard. -/
  | rowAdmission (die : Nat)
  /-- R389: A row finishes writing into its slot and its rank bit is set. -/
  | rowComplete (die : Nat) (row : Nat)
  /-- R394: A token not complete by its timeout is released under its policy. -/
  | tokenTimeout (die : Nat) (ctx : Nat) (token : Nat)
  /-- R395: A complete token's row is combined, written and reported. -/
  | tokenRelease (die : Nat) (ctx : Nat) (token : Nat)
  /-- R391: Overflow-ring entries are readmitted first in, first out. -/
  | ringReadmission (die : Nat) (ctx : Nat)
  /-- R392: A CBPUT held BLOCK cy is discarded and its launch ended. -/
  | combineOverflow (die : Nat)
  /-- R397: The buffer closes a context after releasing its tokens. -/
  | contextClose (die : Nat)
  /-- R109: A gang issues an instruction word whose opcode is unassigned in its class and takes ILLEGAL_ENCODING with %xfmt 7. -/
  | unassignedOpcode (eng : BitVec 4) (tail : Bool) (word : Word)
  /-- R427: Loss of input power on a power connector unpowers the module, since either connector alone does not power it. -/
  | powerLoss (connector : Nat)
  /-- R416: Host command that copies, checks and submits a launch record. -/
  | cmdLaunch
  /-- R418: Host command that checks and runs a graph of nodes. -/
  | graph
  /-- R416: Host command that copies bytes between host and device memory. -/
  | cmdCopy
  /-- R416: Host command that stores a value or adds to a sync word as a release. -/
  | signal
  /-- R416: Host command that waits for a word condition. -/
  | cmdWait
  /-- R419: Host command that removes translations and cached lines of a range. -/
  | invalidate
  /-- R420: Host command that reports a range mended and restarts held items. -/
  | resume
  /-- R421: Host command that saves every resident team of a launch. -/
  | preempt
  /-- R416: Host command that returns held teams to placement. -/
  | release
  /-- R425: Host command that writes a snapshot record of the function's state. -/
  | summary
  /-- R416: Admin command that creates a submission queue. -/
  | create
  /-- R416: Admin command that deletes a submission queue. -/
  | delete
  /-- R417: Admin command that sets an address-space context. -/
  | setasc
  /-- R411: Admin command of function 0 that configures a virtual device. -/
  | config
  /-- R422: Admin command that sets the no-progress action. -/
  | policy
  /-- R434: Writing LOAD reads, checks and flashes a new image, then resets. -/
  | recoveryLoad
  /-- R433: Power-on or PERST# starts bring-up and package time. -/
  | partReset
  /-- R433: Regulators reach regulation and power-good is asserted. -/
  | powerGood
  /-- R434: Die 0 reads and checks the firmware image, or enters recovery. -/
  | firmwareCheck
  /-- R433: HBM trains, memories are zeroed and the admin queue becomes ready. -/
  | hbmTraining
  /-- R433: PCI Express link trains and functions appear disabled. -/
  | pcieLinkUp
  /-- R31: A ready pending gang enters a freed active entry 12 cy later. -/
  | gangEnterActive
  /-- R209: A gang at a clause head fuses, checks the header, tests WAITZ and the collective hold. -/
  | clauseStart
  /-- R97: A missed clause fetch returns, or faults and parks or traps the gang. -/
  | clauseFetch
  /-- R211: At a clause end the gang keeps or leaves its active entry. -/
  | clauseBoundary
  /-- R32: A gang ready for 256 cy without issuing rises one class. -/
  | classAgeing
  /-- R211: A gang in its entry for 4,096 cy leaves it when a pending gang waits. -/
  | entryTimeLimit
  /-- R179: A stalled SFU instruction is accepted when the unit frees. -/
  | sfuAccept
  /-- R203: A stalled MEM instruction is accepted and split into requests. -/
  | memoryPortAccept
  /-- R117: A stalled gang scans ahead and issues run-ahead loads. -/
  | runAhead
  /-- R197: A waiting fence completes once its set has reached home. -/
  | fenceComplete
  /-- R270: A WAITE or WAITZ releases once its counter falls to the threshold. -/
  | counterWaitRelease
  /-- R266: A notice of a GEN change makes a waiting gang ready. -/
  | syncWaiterRelease
  /-- R268: A slot phase change makes a waiting RGET gang ready. -/
  | ringWaiterRelease
  /-- R362: A completion word's GEN change releases a JOIN waiter. -/
  | joinRelease
  /-- R265: A completion notice makes a waiting BAR gang ready. -/
  | barrierRelease
  /-- R402: The combine buffer's answer to a CBSTAT reaches the waiting gang, which writes its register and becomes ready. -/
  | cbstatResult
  /-- R392: The buffer's answer that a row went to a slot or the ring, or was discarded, reaches the core and releases the gang waiting at its CBPUT. -/
  | cbputAnswer
  deriving DecidableEq, Repr

end Sys2Proof
end

