-- ==== Sys2Proof/WellFormed.lean ====
section
/-!
DEFINITION. Well-formed instructions: the checks whose failure raises ILLEGAL_ENCODING (class 2 of R107), for each
instruction as its chapter states them. The checks of class 3 and later need the machine's state and stand under Machine/.
-/
namespace Sys2Proof

/-- A field that an instruction does not use is zero (R104). -/
def Src.isZero (x : Src) : Bool := x == .vec 0

/-- GP is p0 to p23, or 31 with GN = 0 (R99). -/
def Common.guardOk (c : Common) : Bool :=
  decide (c.gp.toNat < 24) || (c.gp == 31 && !c.gn)

/-- The destination fields of an instruction with a result (R101): DK = 11 has DN = 0 and NW = 0, and LN is zero without LE. -/
def Common.destOk (c : Common) : Bool :=
  (c.dk != .none || (c.dn == 0 && !c.nw)) && (c.le || c.ln == 0)

/-- The destination fields of an instruction without a result (R101). -/
def Common.noDest (c : Common) : Bool :=
  c.dk == .none && c.dn == 0 && !c.nw && !c.le && c.ln == 0

/-- DK and DN name a register that is read, or one that takes no latch form: NW, LE and LN are zero (R183, R214, R307, R323). -/
def Common.storeOk (c : Common) : Bool :=
  (c.dk != .none || c.dn == 0) && !c.nw && !c.le && c.ln == 0

/-- MOD is below n: the bits above are zero, or the codes from n up are reserved (R106). -/
def modBelow (m : BitVec 12) (n : Nat) : Bool := decide (m.toNat < n)

/-- U = 1 needs SAT = 1 (R132, R134). -/
def satIfU (m : BitVec 12) : Bool := !m.getLsbD 0 || m.getLsbD 1

/-- A rounding field holds 000 to 011 (R125). -/
def rndOk (r : BitVec 3) : Bool := decide (r.toNat < 4)

/-- CMB is not 11, and Q and QN are zero without a combine (R142). -/
def cmpModOk (m : BitVec 12) : Bool :=
  (m.extractLsb' 4 2 != 3) && (m.extractLsb' 4 2 != 0 || m.extractLsb' 6 6 == 0)

/-- A CVT type code below 8 is an integer (R152). -/
def cvtIsInt (t : BitVec 4) : Bool := decide (t.toNat < 8)

/-- The legal MOD values of CVT (R152, R153). -/
def cvtModOk (m : BitVec 12) : Bool :=
  let st := m.extractLsb' 0 4
  let dt := m.extractLsb' 4 4
  let rnd := m.extractLsb' 8 3
  decide (st.toNat < 13) && decide (dt.toNat < 13) && rndOk rnd &&
    (!(cvtIsInt st && cvtIsInt dt) || rnd == 0) && (!(!cvtIsInt st && cvtIsInt dt) || !m.getLsbD 11)

/-- The size field of a load or store (R182). -/
def szOf (m : BitVec 11) : Nat := (m.extractLsb' 0 3).toNat
/-- The hint field of a load (R182). -/
def hintOf (m : BitVec 11) : Nat := (m.extractLsb' 3 2).toNat

/-- MOD of LD (R182). -/
def ldModOk (m : BitVec 11) : Bool := m.extractLsb' 5 6 == 0 && hintOf m != 3 && szOf m != 7
/-- MOD of ST (R182). -/
def stModOk (m : BitVec 11) : Bool :=
  m.extractLsb' 3 8 == 0 && szOf m != 1 && szOf m != 3 && szOf m != 7
/-- MOD of LDA (R182). -/
def ldaModOk (m : BitVec 11) : Bool :=
  m.extractLsb' 8 3 == 0 && hintOf m == 0 && decide (szOf m < 6)
/-- MOD of STL (R182). -/
def stlModOk (m : BitVec 11) : Bool :=
  m.extractLsb' 8 3 == 0 && hintOf m == 0 && decide (szOf m < 6) && szOf m != 1 && szOf m != 3

/-- The legal pairings of AOP (0 to 7) and TY (0 to 4) (R190). -/
def atomPairOk (aop ty : Nat) : Bool :=
  match aop with
  | 0 => ty != 4 && decide (ty < 5)
  | 1 | 2 => ty != 2 && decide (ty < 5)
  | 3 | 4 | 5 | 6 => ty == 1 || ty == 4
  | 7 => ty == 1
  | _ => false

/-- MOD of ATOM, RED and RATOM (R190). -/
def atomModOk (m : BitVec 12) : Bool :=
  atomPairOk (m.extractLsb' 0 4).toNat (m.extractLsb' 4 3).toNat &&
    (m.extractLsb' 10 2 != 0 || m.extractLsb' 7 3 == 0)

/-- MOD of RSTAT (R323): FAST only with .exp, INT only with .max and .sum. -/
def rstatModOk (m : BitVec 12) : Bool :=
  m.extractLsb' 9 3 == 0 && (!m.getLsbD 7 || m.extractLsb' 5 2 == 3) && (!m.getLsbD 8 || !m.getLsbD 6)

/-- The special-register numbers that a chapter assigns (R163, R164, R180, R228, R258, R275, R297, R320, R335, R348, R369,
R382, R407). -/
def sregAssigned (n : Nat) : Bool :=
  decide (n ≤ 0x006) || n == 0x008 || n == 0x00A || n == 0x010 || n == 0x020 || n == 0x021 ||
  decide (0x040 ≤ n ∧ n ≤ 0x04C) || decide (0x080 ≤ n ∧ n ≤ 0x087) || n == 0x100 ||
  decide (0x110 ≤ n ∧ n ≤ 0x129) || decide (0x140 ≤ n ∧ n ≤ 0x148) || decide (0x160 ≤ n ∧ n ≤ 0x165) ||
  decide (0x180 ≤ n ∧ n ≤ 0x184) || decide (0x1A0 ≤ n ∧ n ≤ 0x1A3) || decide (0x1C0 ≤ n ∧ n ≤ 0x1C3) ||
  decide (0x1E0 ≤ n ∧ n ≤ 0x1E3) || decide (0x1F0 ≤ n ∧ n ≤ 0x1F6) || decide (0x1F8 ≤ n ∧ n ≤ 0x1FF)

/-- The encoding checks of an instruction (R99 to R107 and its chapter). A command or an event has no encoding. -/
def Instr.wf (i : Instr) : Bool :=
  match i with
  | .iadd w => w.c.guardOk && w.c.destOk && modBelow w.mod 4 && satIfU w.mod
  | .isub w => w.c.guardOk && w.c.destOk && modBelow w.mod 4 && satIfU w.mod
  | .imul w => w.c.guardOk && w.c.destOk && modBelow w.mod 4 && satIfU w.mod
  | .imulh w => w.c.guardOk && w.c.destOk && modBelow w.mod 2
  | .imad w => w.c.guardOk && w.c.destOk
  | .iadd64 w => w.c.guardOk && w.c.destOk && modBelow w.mod 8 && satIfU w.mod
  | .lea w => w.c.guardOk && w.c.destOk && modBelow w.mod 16
  | .imin w => w.c.guardOk && w.c.destOk && modBelow w.mod 2
  | .imax w => w.c.guardOk && w.c.destOk && modBelow w.mod 2
  | .iabs w => w.c.guardOk && w.c.destOk && w.sb.isZero && modBelow w.mod 4 && !w.mod.getLsbD 0
  | .and w => w.c.guardOk && w.c.destOk && modBelow w.mod 2
  | .or w => w.c.guardOk && w.c.destOk && modBelow w.mod 2
  | .xor w => w.c.guardOk && w.c.destOk && modBelow w.mod 2
  | .andn w => w.c.guardOk && w.c.destOk && modBelow w.mod 2
  | .shl w => w.c.guardOk && w.c.destOk && modBelow w.mod 2
  | .shr w => w.c.guardOk && w.c.destOk && modBelow w.mod 2
  | .sar w => w.c.guardOk && w.c.destOk && modBelow w.mod 2
  | .rotl w => w.c.guardOk && w.c.destOk && modBelow w.mod 2
  | .fshr w => w.c.guardOk && w.c.destOk
  | .bfx w => w.c.guardOk && w.c.destOk && modBelow w.mod 2
  | .bfi w => w.c.guardOk && w.c.destOk
  | .popc w => w.c.guardOk && w.c.destOk && w.sb.isZero && modBelow w.mod 1
  | .clz w => w.c.guardOk && w.c.destOk && w.sb.isZero && modBelow w.mod 1
  | .brev w => w.c.guardOk && w.c.destOk && w.sb.isZero && modBelow w.mod 1
  | .prmt w => w.c.guardOk && w.c.destOk
  | .icmp w => w.c.guardOk && w.c.destOk && cmpModOk w.mod && decide ((w.mod.extractLsb' 0 3).toNat < 6)
  | .sel w => w.c.guardOk && w.c.destOk
  | .mov w => w.c.guardOk && w.c.destOk && w.sb.isZero && modBelow w.mod 2
  | .movi w => w.c.guardOk && w.c.destOk
  | .fadd w => w.c.guardOk && w.c.destOk && modBelow w.mod 64 && rndOk (w.mod.extractLsb' 0 3)
  | .fmul w => w.c.guardOk && w.c.destOk && modBelow w.mod 64 && rndOk (w.mod.extractLsb' 0 3)
  | .ffmaRn w => w.c.guardOk && w.c.destOk
  | .ffmaRz w => w.c.guardOk && w.c.destOk
  | .ffmaRd w => w.c.guardOk && w.c.destOk
  | .ffmaRu w => w.c.guardOk && w.c.destOk
  | .fmin w => w.c.guardOk && w.c.destOk && modBelow w.mod 1
  | .fmax w => w.c.guardOk && w.c.destOk && modBelow w.mod 1
  | .fcmp w => w.c.guardOk && w.c.destOk && cmpModOk w.mod && !w.mod.getLsbD 3
  | .fclass w => w.c.guardOk && w.c.destOk && modBelow w.mod 1
  | .fscale w => w.c.guardOk && w.c.destOk && modBelow w.mod 8 && rndOk (w.mod.extractLsb' 0 3)
  | .hadd2 w => w.c.guardOk && w.c.destOk && modBelow w.mod 16 && rndOk (w.mod.extractLsb' 0 3)
  | .hmul2 w => w.c.guardOk && w.c.destOk && modBelow w.mod 16 && rndOk (w.mod.extractLsb' 0 3)
  | .hfma2F16 w => w.c.guardOk && w.c.destOk
  | .hfma2Bf16 w => w.c.guardOk && w.c.destOk
  | .hmin2 w => w.c.guardOk && w.c.destOk && modBelow w.mod 16 && (w.mod.extractLsb' 0 3 == 0)
  | .hmax2 w => w.c.guardOk && w.c.destOk && modBelow w.mod 16 && (w.mod.extractLsb' 0 3 == 0)
  | .cvt w => w.c.guardOk && w.c.destOk && w.sb.isZero && cvtModOk w.mod
  | .cvtsr w => w.c.guardOk && w.c.destOk && modBelow w.mod 4
  | .pack2 w => w.c.guardOk && w.c.destOk && modBelow w.mod 16 && rndOk (w.mod.extractLsb' 0 3)
  | .plop w => w.c.guardOk && w.c.destOk && modBelow w.mod 16
  | .pmov w => w.c.guardOk && w.c.destOk && modBelow w.mod 2 && (if w.mod.getLsbD 0 then w.c.noDest else w.sa.isZero)
  | .vote w => w.c.guardOk && w.c.destOk && w.sb.isZero && modBelow w.mod 4
  | .shfl w => w.c.guardOk && w.c.destOk && modBelow w.mod 32 && decide ((w.mod.extractLsb' 2 3).toNat < 5)
  | .rduc w => w.c.guardOk && w.c.destOk && w.sb.isZero && modBelow w.mod 64 && decide ((w.mod.extractLsb' 0 4).toNat < 11) && (w.mod.extractLsb' 4 2 != 3)
  | .matchL w => w.c.guardOk && w.c.destOk && w.sb.isZero && modBelow w.mod 2
  | .sread w => w.c.guardOk && w.c.destOk && w.sa.isZero && w.sb.isZero && sregAssigned w.mod.toNat
  | .swrite w => w.c.guardOk && w.c.noDest && w.sb.isZero && sregAssigned w.mod.toNat
  | .hash64 w => w.c.guardOk && w.c.destOk && modBelow w.mod 1
  | .hcrc w => w.c.guardOk && w.c.destOk && modBelow w.mod 4
  | .bcmp w => w.c.guardOk && w.c.destOk && modBelow w.mod 3
  | .bfind w => w.c.guardOk && w.c.destOk && modBelow w.mod 3
  | .exp2 w => w.c.guardOk && w.c.destOk && modBelow w.mod 1 && w.sb.isZero
  | .exp2Acc w => w.c.guardOk && w.c.destOk && modBelow w.mod 1 && w.sb.isZero
  | .exp w => w.c.guardOk && w.c.destOk && modBelow w.mod 1 && w.sb.isZero
  | .expAcc w => w.c.guardOk && w.c.destOk && modBelow w.mod 1 && w.sb.isZero
  | .log2 w => w.c.guardOk && w.c.destOk && modBelow w.mod 1 && w.sb.isZero
  | .log2Acc w => w.c.guardOk && w.c.destOk && modBelow w.mod 1 && w.sb.isZero
  | .ln w => w.c.guardOk && w.c.destOk && modBelow w.mod 1 && w.sb.isZero
  | .lnAcc w => w.c.guardOk && w.c.destOk && modBelow w.mod 1 && w.sb.isZero
  | .rcp w => w.c.guardOk && w.c.destOk && modBelow w.mod 1 && w.sb.isZero
  | .rcpAcc w => w.c.guardOk && w.c.destOk && modBelow w.mod 1 && w.sb.isZero
  | .rsq w => w.c.guardOk && w.c.destOk && modBelow w.mod 1 && w.sb.isZero
  | .rsqAcc w => w.c.guardOk && w.c.destOk && modBelow w.mod 1 && w.sb.isZero
  | .sqrt w => w.c.guardOk && w.c.destOk && modBelow w.mod 1 && w.sb.isZero
  | .sqrtAcc w => w.c.guardOk && w.c.destOk && modBelow w.mod 1 && w.sb.isZero
  | .sin w => w.c.guardOk && w.c.destOk && modBelow w.mod 1 && w.sb.isZero
  | .sinAcc w => w.c.guardOk && w.c.destOk && modBelow w.mod 1 && w.sb.isZero
  | .cos w => w.c.guardOk && w.c.destOk && modBelow w.mod 1 && w.sb.isZero
  | .cosAcc w => w.c.guardOk && w.c.destOk && modBelow w.mod 1 && w.sb.isZero
  | .tanh w => w.c.guardOk && w.c.destOk && modBelow w.mod 1 && w.sb.isZero
  | .tanhAcc w => w.c.guardOk && w.c.destOk && modBelow w.mod 1 && w.sb.isZero
  | .sigm w => w.c.guardOk && w.c.destOk && modBelow w.mod 1 && w.sb.isZero
  | .sigmAcc w => w.c.guardOk && w.c.destOk && modBelow w.mod 1 && w.sb.isZero
  | .gelu w => w.c.guardOk && w.c.destOk && modBelow w.mod 1 && w.sb.isZero
  | .geluAcc w => w.c.guardOk && w.c.destOk && modBelow w.mod 1 && w.sb.isZero
  | .silu w => w.c.guardOk && w.c.destOk && modBelow w.mod 1 && w.sb.isZero
  | .siluAcc w => w.c.guardOk && w.c.destOk && modBelow w.mod 1 && w.sb.isZero
  | .erf w => w.c.guardOk && w.c.destOk && modBelow w.mod 1 && w.sb.isZero
  | .erfAcc w => w.c.guardOk && w.c.destOk && modBelow w.mod 1 && w.sb.isZero
  | .fdiv w => w.c.guardOk && w.c.destOk && modBelow w.mod 1
  | .fdivAcc w => w.c.guardOk && w.c.destOk && modBelow w.mod 1
  | .ld w => w.c.guardOk && w.c.destOk && ldModOk w.mod && !(w.c.le && szOf w.mod == 6)
  | .st w => w.c.guardOk && w.c.storeOk && stModOk w.mod
  | .lda w => w.c.guardOk && w.c.destOk && ldaModOk w.mod
  | .stl w => w.c.guardOk && w.c.storeOk && stlModOk w.mod
  | .atom w => w.c.guardOk && w.c.destOk && atomModOk w.mod
  | .red w => w.c.guardOk && w.c.noDest && atomModOk w.mod && !w.mod.getLsbD 10
  | .cas w => w.c.guardOk && w.c.destOk && modBelow w.mod 128 && ((w.mod.extractLsb' 0 3 != 0) || (w.mod.extractLsb' 3 3 == 0))
  | .fence w => w.c.guardOk && w.c.noDest && w.sa.isZero && w.sb.isZero && modBelow w.mod 32
  | .pref w => w.c.guardOk && w.c.noDest && (w.mod == 0)
  | .cvta w => w.c.guardOk && w.c.destOk && w.sb.isZero && modBelow w.mod 4
  | .spawn w => w.c.guardOk && w.c.destOk && modBelow w.mod 1
  | .migr w => w.c.guardOk && w.c.noDest && (w.mod == 0)
  | .home w => w.c.guardOk && w.c.destOk && w.sb.isZero && modBelow w.mod 1
  | .ratom w => w.c.guardOk && w.c.destOk && atomModOk w.mod
  | .pin w => w.c.guardOk && w.c.noDest && w.sa.isZero && w.sb.isZero && modBelow w.mod 2
  | .aqstat w => w.c.guardOk && w.c.destOk && w.sb.isZero && modBelow w.mod 4
  | .swinit w => w.c.guardOk && w.c.noDest && modBelow w.mod 4
  | .swarm w => w.c.guardOk && w.c.noDest && modBelow w.mod 2
  | .swadd w => w.c.guardOk && w.c.noDest && decide (0 < w.imm.toInt)
  | .swwait w => w.c.guardOk && w.c.destOk && modBelow w.mod 1
  | .bar w => w.c.guardOk && w.c.noDest && modBelow w.mod 1
  | .bararv w => w.c.guardOk && w.c.noDest && modBelow w.mod 1
  | .rget w => w.c.guardOk && w.c.destOk && modBelow w.mod 1
  | .rput w => w.c.guardOk && w.c.noDest && modBelow w.mod 1
  | .waite w => w.c.guardOk && w.c.noDest && w.sb.isZero && modBelow w.mod 6
  | .cntrd w => w.c.guardOk && w.c.destOk && w.sa.isZero && w.sb.isZero && modBelow w.mod 6
  | .tload w => w.c.guardOk && w.c.noDest && modBelow w.mod 3
  | .tstore w => w.c.guardOk && w.c.noDest && modBelow w.mod 1
  | .tgather w => w.c.guardOk && w.c.noDest && modBelow w.mod 1
  | .tscatter w => w.c.guardOk && w.c.noDest && modBelow w.mod 1
  | .tsub w => w.c.guardOk && w.c.noDest && w.sb.isZero && modBelow w.mod 2
  | .twalk w => w.c.guardOk && w.c.noDest && modBelow w.mod 1
  | .tfill w => w.c.guardOk && w.c.noDest && modBelow w.mod 2
  | .tmove w => w.c.guardOk && w.c.noDest && modBelow w.mod 2
  | .mma w => (w.c.gp == 31 && !w.c.gn) && w.c.noDest && (w.mod &&& 0x9E0#12 == 0)
  | .mmag w => (w.c.gp == 31 && !w.c.gn) && w.c.noDest
  | .mmas w => (w.c.gp == 31 && !w.c.gn) && w.c.noDest
  | .mmad w => (w.c.gp == 31 && !w.c.gn) && w.c.noDest
  | .acz w => (w.c.gp == 31 && !w.c.gn) && w.c.noDest && w.sa.isZero && w.sb.isZero && modBelow w.mod 32
  | .acld w => (w.c.gp == 31 && !w.c.gn) && w.c.noDest && w.sb.isZero && (w.mod &&& 0xDE0#12 == 0)
  | .acst w => (w.c.gp == 31 && !w.c.gn) && w.c.noDest && w.sb.isZero && (w.mod &&& 0xDE0#12 == 0)
  | .acrd w => (w.c.gp == 31 && !w.c.gn) && w.c.destOk && w.sb.isZero && modBelow w.mod 64
  | .opmap w => (w.c.gp == 31 && !w.c.gn) && modBelow w.mod 2 && (if w.mod.getLsbD 0 then w.c.storeOk && w.sb.isZero else w.c.noDest)
  | .rstat w => (w.c.gp == 31 && !w.c.gn) && w.c.storeOk && w.sb.isZero && rstatModOk w.mod && (w.mod.extractLsb' 5 2 == 3 || w.sa.isZero)
  | .topk w => (w.c.gp == 31 && !w.c.gn) && w.c.noDest && w.sb.isZero && modBelow w.mod 2
  | .topkm w => (w.c.gp == 31 && !w.c.gn) && w.c.noDest && w.sb.isZero && modBelow w.mod 2
  | .pbound w => (w.c.gp == 31 && !w.c.gn) && w.c.noDest && w.sb.isZero && modBelow w.mod 1
  | .sign w => (w.c.gp == 31 && !w.c.gn) && w.c.noDest && w.sb.isZero && modBelow w.mod 1
  | .srep w => (w.c.gp == 31 && !w.c.gn) && w.c.noDest && w.sb.isZero && modBelow w.mod 3
  | .sgsum w => (w.c.gp == 31 && !w.c.gn) && w.c.noDest && w.sb.isZero && modBelow w.mod 2
  | .sbkt w => (w.c.gp == 31 && !w.c.gn) && w.c.noDest && w.sb.isZero && modBelow w.mod 1
  | .launch w => w.c.guardOk && w.c.destOk && w.sb.isZero && modBelow w.mod 1
  | .join w => w.c.guardOk && w.c.destOk && modBelow w.mod 1
  | .tspawn w => w.c.guardOk && w.c.noDest && w.sb.isZero && modBelow w.mod 2
  | .slice w => w.c.guardOk && w.c.destOk && w.sb.isZero && modBelow w.mod 2 && (if w.mod.getLsbD 0 then w.c.noDest else w.sa.isZero)
  | .post w => w.c.guardOk && w.c.noDest && modBelow w.mod 1
  | .swapout w => w.c.guardOk && w.c.noDest && modBelow w.mod 1
  | .route w => w.c.guardOk && w.c.noDest && modBelow w.mod 2 && (w.mod.getLsbD 0 || w.sb.isZero)
  | .cbopen w => w.c.guardOk && w.c.noDest && modBelow w.mod 1
  | .cbput w => w.c.guardOk && w.c.noDest && modBelow w.mod 16
  | .cbclose w => w.c.guardOk && w.c.noDest && w.sb.isZero && modBelow w.mod 1
  | .cbstat w => w.c.guardOk && w.c.destOk && w.sb.isZero && modBelow w.mod 6
  | .nop w => w.c.guardOk && w.c.noDest && w.sa.isZero && w.sb.isZero && modBelow w.mod 1
  | .bra w => w.c.guardOk && w.c.noDest && (w.aux == 0)
  | .brx w => w.c.guardOk && w.c.noDest && modBelow w.mod 1
  | .call w => w.c.guardOk && w.c.storeOk && (w.aux == 0)
  | .ret w => w.c.guardOk && w.c.noDest && w.sb.isZero && modBelow w.mod 1
  | .exitL w => w.c.guardOk && w.c.noDest && w.sa.isZero && w.sb.isZero && modBelow w.mod 1
  | .yield w => w.c.guardOk && w.c.noDest && w.sa.isZero && w.sb.isZero && modBelow w.mod 1
  | .trap w => w.c.guardOk && w.c.noDest && w.sa.isZero
  | .bkpt w => w.c.guardOk && w.c.noDest && w.sa.isZero
  | .tret w => w.c.guardOk && w.c.noDest && (w.off == 0) && decide (w.aux.toNat < 2)
  | .rjset w => w.c.guardOk && w.c.noDest && w.sb.isZero && modBelow w.mod 1
  | .rjarv w => w.c.guardOk && w.c.noDest && w.sb.isZero && modBelow w.mod 1
  | .rjwait w => w.c.guardOk && w.c.noDest && w.sb.isZero && modBelow w.mod 1
  | .loop w => w.c.guardOk && w.c.noDest
  | .lbrk w => w.c.guardOk && w.c.noDest
  | .doorbellWrite _ _ _ => true
  | .enableWrite _ _ => true
  | .qerrClear _ => true
  | .evheadWrite _ _ => true
  | .registerWrite _ _ _ => true
  | .eventWrite _ => true
  | .graphNodeReady _ _ => true
  | .waitReevaluate _ => true
  | .pllLock _ => true
  | .ucieTraining _ => true
  | .portTraining _ => true
  | .networkPortDown _ => true
  | .ucieLinkDown _ => true
  | .thermalThrottle _ _ _ => true
  | .thermalShutdown _ _ _ => true
  | .pageWalk _ => true
  | .sliceAccept _ => true
  | .sliceLoadReturn _ => true
  | .atomicReturn _ => true
  | .writeAtHome _ => true
  | .remoteAck _ => true
  | .remoteLoadReturn _ => true
  | .hostAccessComplete _ => true
  | .operationRetire _ _ => true
  | .rejoinRelease _ _ => true
  | .syncWordUpdate _ => true
  | .barrierArrival _ => true
  | .shadowSwap _ _ => true
  | .shadowSwapBack _ _ => true
  | .teamSave _ => true
  | .saveRetry _ _ => true
  | .teamRestore _ => true
  | .faultSave _ => true
  | .faultRestore _ => true
  | .swapOut _ => true
  | .swapIn _ => true
  | .squadRetire _ => true
  | .noProgress _ _ => true
  | .taskEngineNoProgress _ => true
  | .launchRecordRead _ => true
  | .launchAccept _ => true
  | .teamPlace _ => true
  | .roamingAdmission _ => true
  | .launchComplete _ => true
  | .budgetExhausted _ => true
  | .heldUpdateRetry _ => true
  | .leafDepart _ _ => true
  | .leafSend _ => true
  | .bundleSend _ _ => true
  | .bundleArrival _ _ => true
  | .transportRetryLimit _ => true
  | .leafArrival _ => true
  | .ringReadback _ => true
  | .transitCredit _ => true
  | .arrivalDispatch _ => true
  | .binRelease _ => true
  | .poolTableRefresh _ _ => true
  | .copyOperationStart _ => true
  | .copyRowWritten _ => true
  | .streamItem _ => true
  | .matrixOperationStart _ _ => true
  | .rowOperationStart _ => true
  | .signatureOperationStart _ => true
  | .routeOperationStart _ => true
  | .contextOpen _ => true
  | .rowAdmission _ => true
  | .rowComplete _ _ => true
  | .tokenTimeout _ _ _ => true
  | .tokenRelease _ _ _ => true
  | .ringReadmission _ _ => true
  | .combineOverflow _ => true
  | .contextClose _ => true
  | .unassignedOpcode _ _ _ => true
  | .powerLoss _ => true
  | .cmdLaunch => true
  | .graph => true
  | .cmdCopy => true
  | .signal => true
  | .cmdWait => true
  | .invalidate => true
  | .resume => true
  | .preempt => true
  | .release => true
  | .summary => true
  | .create => true
  | .delete => true
  | .setasc => true
  | .config => true
  | .policy => true
  | .recoveryLoad => true
  | .partReset => true
  | .powerGood => true
  | .firmwareCheck => true
  | .hbmTraining => true
  | .pcieLinkUp => true
  | .gangEnterActive => true
  | .clauseStart => true
  | .clauseFetch => true
  | .clauseBoundary => true
  | .classAgeing => true
  | .entryTimeLimit => true
  | .sfuAccept => true
  | .memoryPortAccept => true
  | .runAhead => true
  | .fenceComplete => true
  | .counterWaitRelease => true
  | .syncWaiterRelease => true
  | .ringWaiterRelease => true
  | .joinRelease => true
  | .barrierRelease => true
  | .cbstatResult => true
  | .cbputAnswer => true

/-- The instructions of the Limmet set, which programs encode; every other step is a command or an event of the part. -/
def Instr.isIsa (i : Instr) : Bool :=
  match i with
  | .iadd _ => true
  | .isub _ => true
  | .imul _ => true
  | .imulh _ => true
  | .imad _ => true
  | .iadd64 _ => true
  | .lea _ => true
  | .imin _ => true
  | .imax _ => true
  | .iabs _ => true
  | .and _ => true
  | .or _ => true
  | .xor _ => true
  | .andn _ => true
  | .shl _ => true
  | .shr _ => true
  | .sar _ => true
  | .rotl _ => true
  | .fshr _ => true
  | .bfx _ => true
  | .bfi _ => true
  | .popc _ => true
  | .clz _ => true
  | .brev _ => true
  | .prmt _ => true
  | .icmp _ => true
  | .sel _ => true
  | .mov _ => true
  | .movi _ => true
  | .fadd _ => true
  | .fmul _ => true
  | .ffmaRn _ => true
  | .ffmaRz _ => true
  | .ffmaRd _ => true
  | .ffmaRu _ => true
  | .fmin _ => true
  | .fmax _ => true
  | .fcmp _ => true
  | .fclass _ => true
  | .fscale _ => true
  | .hadd2 _ => true
  | .hmul2 _ => true
  | .hfma2F16 _ => true
  | .hfma2Bf16 _ => true
  | .hmin2 _ => true
  | .hmax2 _ => true
  | .cvt _ => true
  | .cvtsr _ => true
  | .pack2 _ => true
  | .plop _ => true
  | .pmov _ => true
  | .vote _ => true
  | .shfl _ => true
  | .rduc _ => true
  | .matchL _ => true
  | .sread _ => true
  | .swrite _ => true
  | .hash64 _ => true
  | .hcrc _ => true
  | .bcmp _ => true
  | .bfind _ => true
  | .exp2 _ => true
  | .exp2Acc _ => true
  | .exp _ => true
  | .expAcc _ => true
  | .log2 _ => true
  | .log2Acc _ => true
  | .ln _ => true
  | .lnAcc _ => true
  | .rcp _ => true
  | .rcpAcc _ => true
  | .rsq _ => true
  | .rsqAcc _ => true
  | .sqrt _ => true
  | .sqrtAcc _ => true
  | .sin _ => true
  | .sinAcc _ => true
  | .cos _ => true
  | .cosAcc _ => true
  | .tanh _ => true
  | .tanhAcc _ => true
  | .sigm _ => true
  | .sigmAcc _ => true
  | .gelu _ => true
  | .geluAcc _ => true
  | .silu _ => true
  | .siluAcc _ => true
  | .erf _ => true
  | .erfAcc _ => true
  | .fdiv _ => true
  | .fdivAcc _ => true
  | .ld _ => true
  | .st _ => true
  | .lda _ => true
  | .stl _ => true
  | .atom _ => true
  | .red _ => true
  | .cas _ => true
  | .fence _ => true
  | .pref _ => true
  | .cvta _ => true
  | .spawn _ => true
  | .migr _ => true
  | .home _ => true
  | .ratom _ => true
  | .pin _ => true
  | .aqstat _ => true
  | .swinit _ => true
  | .swarm _ => true
  | .swadd _ => true
  | .swwait _ => true
  | .bar _ => true
  | .bararv _ => true
  | .rget _ => true
  | .rput _ => true
  | .waite _ => true
  | .cntrd _ => true
  | .tload _ => true
  | .tstore _ => true
  | .tgather _ => true
  | .tscatter _ => true
  | .tsub _ => true
  | .twalk _ => true
  | .tfill _ => true
  | .tmove _ => true
  | .mma _ => true
  | .mmag _ => true
  | .mmas _ => true
  | .mmad _ => true
  | .acz _ => true
  | .acld _ => true
  | .acst _ => true
  | .acrd _ => true
  | .opmap _ => true
  | .rstat _ => true
  | .topk _ => true
  | .topkm _ => true
  | .pbound _ => true
  | .sign _ => true
  | .srep _ => true
  | .sgsum _ => true
  | .sbkt _ => true
  | .launch _ => true
  | .join _ => true
  | .tspawn _ => true
  | .slice _ => true
  | .post _ => true
  | .swapout _ => true
  | .route _ => true
  | .cbopen _ => true
  | .cbput _ => true
  | .cbclose _ => true
  | .cbstat _ => true
  | .nop _ => true
  | .bra _ => true
  | .brx _ => true
  | .call _ => true
  | .ret _ => true
  | .exitL _ => true
  | .yield _ => true
  | .trap _ => true
  | .bkpt _ => true
  | .tret _ => true
  | .rjset _ => true
  | .rjarv _ => true
  | .rjwait _ => true
  | .loop _ => true
  | .lbrk _ => true
  | .doorbellWrite _ _ _ => false
  | .enableWrite _ _ => false
  | .qerrClear _ => false
  | .evheadWrite _ _ => false
  | .registerWrite _ _ _ => false
  | .eventWrite _ => false
  | .graphNodeReady _ _ => false
  | .waitReevaluate _ => false
  | .pllLock _ => false
  | .ucieTraining _ => false
  | .portTraining _ => false
  | .networkPortDown _ => false
  | .ucieLinkDown _ => false
  | .thermalThrottle _ _ _ => false
  | .thermalShutdown _ _ _ => false
  | .pageWalk _ => false
  | .sliceAccept _ => false
  | .sliceLoadReturn _ => false
  | .atomicReturn _ => false
  | .writeAtHome _ => false
  | .remoteAck _ => false
  | .remoteLoadReturn _ => false
  | .hostAccessComplete _ => false
  | .operationRetire _ _ => false
  | .rejoinRelease _ _ => false
  | .syncWordUpdate _ => false
  | .barrierArrival _ => false
  | .shadowSwap _ _ => false
  | .shadowSwapBack _ _ => false
  | .teamSave _ => false
  | .saveRetry _ _ => false
  | .teamRestore _ => false
  | .faultSave _ => false
  | .faultRestore _ => false
  | .swapOut _ => false
  | .swapIn _ => false
  | .squadRetire _ => false
  | .noProgress _ _ => false
  | .taskEngineNoProgress _ => false
  | .launchRecordRead _ => false
  | .launchAccept _ => false
  | .teamPlace _ => false
  | .roamingAdmission _ => false
  | .launchComplete _ => false
  | .budgetExhausted _ => false
  | .heldUpdateRetry _ => false
  | .leafDepart _ _ => false
  | .leafSend _ => false
  | .bundleSend _ _ => false
  | .bundleArrival _ _ => false
  | .transportRetryLimit _ => false
  | .leafArrival _ => false
  | .ringReadback _ => false
  | .transitCredit _ => false
  | .arrivalDispatch _ => false
  | .binRelease _ => false
  | .poolTableRefresh _ _ => false
  | .copyOperationStart _ => false
  | .copyRowWritten _ => false
  | .streamItem _ => false
  | .matrixOperationStart _ _ => false
  | .rowOperationStart _ => false
  | .signatureOperationStart _ => false
  | .routeOperationStart _ => false
  | .contextOpen _ => false
  | .rowAdmission _ => false
  | .rowComplete _ _ => false
  | .tokenTimeout _ _ _ => false
  | .tokenRelease _ _ _ => false
  | .ringReadmission _ _ => false
  | .combineOverflow _ => false
  | .contextClose _ => false
  | .unassignedOpcode _ _ _ => false
  | .powerLoss _ => false
  | .cmdLaunch => false
  | .graph => false
  | .cmdCopy => false
  | .signal => false
  | .cmdWait => false
  | .invalidate => false
  | .resume => false
  | .preempt => false
  | .release => false
  | .summary => false
  | .create => false
  | .delete => false
  | .setasc => false
  | .config => false
  | .policy => false
  | .recoveryLoad => false
  | .partReset => false
  | .powerGood => false
  | .firmwareCheck => false
  | .hbmTraining => false
  | .pcieLinkUp => false
  | .gangEnterActive => false
  | .clauseStart => false
  | .clauseFetch => false
  | .clauseBoundary => false
  | .classAgeing => false
  | .entryTimeLimit => false
  | .sfuAccept => false
  | .memoryPortAccept => false
  | .runAhead => false
  | .fenceComplete => false
  | .counterWaitRelease => false
  | .syncWaiterRelease => false
  | .ringWaiterRelease => false
  | .joinRelease => false
  | .barrierRelease => false
  | .cbstatResult => false
  | .cbputAnswer => false

/-- A command or an event of the part: the steps that the agenda may hold (every row but the instruction words). -/
def Instr.isEvent (i : Instr) : Bool :=
  match i with
  | .iadd _ => false
  | .isub _ => false
  | .imul _ => false
  | .imulh _ => false
  | .imad _ => false
  | .iadd64 _ => false
  | .lea _ => false
  | .imin _ => false
  | .imax _ => false
  | .iabs _ => false
  | .and _ => false
  | .or _ => false
  | .xor _ => false
  | .andn _ => false
  | .shl _ => false
  | .shr _ => false
  | .sar _ => false
  | .rotl _ => false
  | .fshr _ => false
  | .bfx _ => false
  | .bfi _ => false
  | .popc _ => false
  | .clz _ => false
  | .brev _ => false
  | .prmt _ => false
  | .icmp _ => false
  | .sel _ => false
  | .mov _ => false
  | .movi _ => false
  | .fadd _ => false
  | .fmul _ => false
  | .ffmaRn _ => false
  | .ffmaRz _ => false
  | .ffmaRd _ => false
  | .ffmaRu _ => false
  | .fmin _ => false
  | .fmax _ => false
  | .fcmp _ => false
  | .fclass _ => false
  | .fscale _ => false
  | .hadd2 _ => false
  | .hmul2 _ => false
  | .hfma2F16 _ => false
  | .hfma2Bf16 _ => false
  | .hmin2 _ => false
  | .hmax2 _ => false
  | .cvt _ => false
  | .cvtsr _ => false
  | .pack2 _ => false
  | .plop _ => false
  | .pmov _ => false
  | .vote _ => false
  | .shfl _ => false
  | .rduc _ => false
  | .matchL _ => false
  | .sread _ => false
  | .swrite _ => false
  | .hash64 _ => false
  | .hcrc _ => false
  | .bcmp _ => false
  | .bfind _ => false
  | .exp2 _ => false
  | .exp2Acc _ => false
  | .exp _ => false
  | .expAcc _ => false
  | .log2 _ => false
  | .log2Acc _ => false
  | .ln _ => false
  | .lnAcc _ => false
  | .rcp _ => false
  | .rcpAcc _ => false
  | .rsq _ => false
  | .rsqAcc _ => false
  | .sqrt _ => false
  | .sqrtAcc _ => false
  | .sin _ => false
  | .sinAcc _ => false
  | .cos _ => false
  | .cosAcc _ => false
  | .tanh _ => false
  | .tanhAcc _ => false
  | .sigm _ => false
  | .sigmAcc _ => false
  | .gelu _ => false
  | .geluAcc _ => false
  | .silu _ => false
  | .siluAcc _ => false
  | .erf _ => false
  | .erfAcc _ => false
  | .fdiv _ => false
  | .fdivAcc _ => false
  | .ld _ => false
  | .st _ => false
  | .lda _ => false
  | .stl _ => false
  | .atom _ => false
  | .red _ => false
  | .cas _ => false
  | .fence _ => false
  | .pref _ => false
  | .cvta _ => false
  | .spawn _ => false
  | .migr _ => false
  | .home _ => false
  | .ratom _ => false
  | .pin _ => false
  | .aqstat _ => false
  | .swinit _ => false
  | .swarm _ => false
  | .swadd _ => false
  | .swwait _ => false
  | .bar _ => false
  | .bararv _ => false
  | .rget _ => false
  | .rput _ => false
  | .waite _ => false
  | .cntrd _ => false
  | .tload _ => false
  | .tstore _ => false
  | .tgather _ => false
  | .tscatter _ => false
  | .tsub _ => false
  | .twalk _ => false
  | .tfill _ => false
  | .tmove _ => false
  | .mma _ => false
  | .mmag _ => false
  | .mmas _ => false
  | .mmad _ => false
  | .acz _ => false
  | .acld _ => false
  | .acst _ => false
  | .acrd _ => false
  | .opmap _ => false
  | .rstat _ => false
  | .topk _ => false
  | .topkm _ => false
  | .pbound _ => false
  | .sign _ => false
  | .srep _ => false
  | .sgsum _ => false
  | .sbkt _ => false
  | .launch _ => false
  | .join _ => false
  | .tspawn _ => false
  | .slice _ => false
  | .post _ => false
  | .swapout _ => false
  | .route _ => false
  | .cbopen _ => false
  | .cbput _ => false
  | .cbclose _ => false
  | .cbstat _ => false
  | .nop _ => false
  | .bra _ => false
  | .brx _ => false
  | .call _ => false
  | .ret _ => false
  | .exitL _ => false
  | .yield _ => false
  | .trap _ => false
  | .bkpt _ => false
  | .tret _ => false
  | .rjset _ => false
  | .rjarv _ => false
  | .rjwait _ => false
  | .loop _ => false
  | .lbrk _ => false
  | .doorbellWrite _ _ _ => true
  | .enableWrite _ _ => true
  | .qerrClear _ => true
  | .evheadWrite _ _ => true
  | .registerWrite _ _ _ => true
  | .eventWrite _ => true
  | .graphNodeReady _ _ => true
  | .waitReevaluate _ => true
  | .pllLock _ => true
  | .ucieTraining _ => true
  | .portTraining _ => true
  | .networkPortDown _ => true
  | .ucieLinkDown _ => true
  | .thermalThrottle _ _ _ => true
  | .thermalShutdown _ _ _ => true
  | .pageWalk _ => true
  | .sliceAccept _ => true
  | .sliceLoadReturn _ => true
  | .atomicReturn _ => true
  | .writeAtHome _ => true
  | .remoteAck _ => true
  | .remoteLoadReturn _ => true
  | .hostAccessComplete _ => true
  | .operationRetire _ _ => true
  | .rejoinRelease _ _ => true
  | .syncWordUpdate _ => true
  | .barrierArrival _ => true
  | .shadowSwap _ _ => true
  | .shadowSwapBack _ _ => true
  | .teamSave _ => true
  | .saveRetry _ _ => true
  | .teamRestore _ => true
  | .faultSave _ => true
  | .faultRestore _ => true
  | .swapOut _ => true
  | .swapIn _ => true
  | .squadRetire _ => true
  | .noProgress _ _ => true
  | .taskEngineNoProgress _ => true
  | .launchRecordRead _ => true
  | .launchAccept _ => true
  | .teamPlace _ => true
  | .roamingAdmission _ => true
  | .launchComplete _ => true
  | .budgetExhausted _ => true
  | .heldUpdateRetry _ => true
  | .leafDepart _ _ => true
  | .leafSend _ => true
  | .bundleSend _ _ => true
  | .bundleArrival _ _ => true
  | .transportRetryLimit _ => true
  | .leafArrival _ => true
  | .ringReadback _ => true
  | .transitCredit _ => true
  | .arrivalDispatch _ => true
  | .binRelease _ => true
  | .poolTableRefresh _ _ => true
  | .copyOperationStart _ => true
  | .copyRowWritten _ => true
  | .streamItem _ => true
  | .matrixOperationStart _ _ => true
  | .rowOperationStart _ => true
  | .signatureOperationStart _ => true
  | .routeOperationStart _ => true
  | .contextOpen _ => true
  | .rowAdmission _ => true
  | .rowComplete _ _ => true
  | .tokenTimeout _ _ _ => true
  | .tokenRelease _ _ _ => true
  | .ringReadmission _ _ => true
  | .combineOverflow _ => true
  | .contextClose _ => true
  | .unassignedOpcode _ _ _ => false
  | .powerLoss _ => true
  | .cmdLaunch => true
  | .graph => true
  | .cmdCopy => true
  | .signal => true
  | .cmdWait => true
  | .invalidate => true
  | .resume => true
  | .preempt => true
  | .release => true
  | .summary => true
  | .create => true
  | .delete => true
  | .setasc => true
  | .config => true
  | .policy => true
  | .recoveryLoad => true
  | .partReset => true
  | .powerGood => true
  | .firmwareCheck => true
  | .hbmTraining => true
  | .pcieLinkUp => true
  | .gangEnterActive => true
  | .clauseStart => true
  | .clauseFetch => true
  | .clauseBoundary => true
  | .classAgeing => true
  | .entryTimeLimit => true
  | .sfuAccept => true
  | .memoryPortAccept => true
  | .runAhead => true
  | .fenceComplete => true
  | .counterWaitRelease => true
  | .syncWaiterRelease => true
  | .ringWaiterRelease => true
  | .joinRelease => true
  | .barrierRelease => true
  | .cbstatResult => true
  | .cbputAnswer => true

end Sys2Proof
end

