-- ==== Sys2Proof/Decode.lean ====
section
/-!
DEFINITION. The decoder and the encoder of Limmet instruction words (R93, R99, R104, R105, R109), both written from the
encoding tables. The decoder is total; it rejects by name what raises ILLEGAL_ENCODING, and gives an unassigned opcode as
the step UNASSIGNED_OPCODE.
-/
namespace Sys2Proof

/-- Why a word is rejected with ILLEGAL_ENCODING (R107 class 2). -/
inductive DecodeError where
  /-- a latch source with nonzero bits [8:3] (R104) -/
  | latchBits
  /-- F3 bit [0] or FK bits [1:0] nonzero (R105) -/
  | formatBits
  /-- a field that the instruction's chapter reserves or requires to be zero (R99 to R106) -/
  | reserved
  deriving DecidableEq, Repr

/-- The engine class of ENG (R93); 12 to 15 name none. -/
def Eng.ofBits (b : BitVec 4) : Option Eng :=
  match b.toNat with
  | 0 => some .lane | 1 => some .sfu | 2 => some .mem | 3 => some .mig | 4 => some .sync | 5 => some .copy
  | 6 => some .mtx | 7 => some .row | 8 => some .sig | 9 => some .task | 10 => some .exp | 11 => some .ctl
  | _ => none

/-- The code of an engine class (R93). -/
def Eng.code (e : Eng) : Nat :=
  match e with
  | .lane => 0 | .sfu => 1 | .mem => 2 | .mig => 3 | .sync => 4 | .copy => 5
  | .mtx => 6 | .row => 7 | .sig => 8 | .task => 9 | .exp => 10 | .ctl => 11

def DK.ofBits (b : BitVec 2) : DK :=
  if b == 0 then .vec else if b == 1 then .uni else if b == 2 then .pred else .none

def DK.bits (d : DK) : BitVec 2 :=
  match d with
  | .vec => 0 | .uni => 1 | .pred => 2 | .none => 3

def bit1 (b : Bool) : BitVec 1 := if b then 1 else 0

/-- A source field (R104); a latch field with nonzero [8:3] is rejected. -/
def Src.ofBits (b : BitVec 11) : Except DecodeError Src :=
  let k := b.extractLsb' 9 2
  let n := b.extractLsb' 0 9
  if k == 0 then .ok (.vec n) else if k == 1 then .ok (.uni n)
  else if k == 2 then (if n.extractLsb' 3 6 == 0 then .ok (.lat (n.extractLsb' 0 3)) else .error .latchBits)
  else .ok (.imm n)

def Src.bits (x : Src) : BitVec 11 :=
  match x with
  | .vec n => 0#2 ++ n
  | .uni n => 1#2 ++ n
  | .lat n => 2#2 ++ (0#6 ++ n)
  | .imm v => 3#2 ++ v

/-- The low 33 bits hold three sources and a zero bit is [0] (F3). -/
def opBits (w : Word) : BitVec 8 := w.extractLsb' 56 8

/-- The common fields of a word (R99). -/
def Common.ofWord (w : Word) : Common where
  gp := w.extractLsb' 51 5
  gn := w.getLsbD 50
  dk := DK.ofBits (w.extractLsb' 48 2)
  dn := w.extractLsb' 39 9
  nw := w.getLsbD 38
  le := w.getLsbD 37
  ln := w.extractLsb' 34 3

/-- A word from its opcode, common fields and bits [33:0] (R99). -/
def packWord (op : BitVec 8) (c : Common) (lo : BitVec 34) : Word :=
  op ++ (c.gp ++ (bit1 c.gn ++ (c.dk.bits ++ (c.dn ++ (bit1 c.nw ++ (bit1 c.le ++ (c.ln ++ lo)))))))

def FM.ofWord (w : Word) : Except DecodeError FM :=
  match Src.ofBits (w.extractLsb' 23 11), Src.ofBits (w.extractLsb' 12 11) with
  | .ok a, .ok b => .ok ⟨Common.ofWord w, a, b, w.extractLsb' 0 12⟩
  | .error e, _ => .error e
  | _, .error e => .error e

def FM.toWord (op : BitVec 8) (f : FM) : Word := packWord op f.c (f.sa.bits ++ (f.sb.bits ++ f.mod))

def F3.ofWord (w : Word) : Except DecodeError F3 :=
  match Src.ofBits (w.extractLsb' 23 11), Src.ofBits (w.extractLsb' 12 11), Src.ofBits (w.extractLsb' 1 11) with
  | .ok a, .ok b, .ok c => if w.getLsbD 0 then .error .formatBits else .ok ⟨Common.ofWord w, a, b, c⟩
  | .error e, _, _ => .error e
  | _, .error e, _ => .error e
  | _, _, .error e => .error e

def F3.toWord (op : BitVec 8) (f : F3) : Word :=
  packWord op f.c (f.sa.bits ++ (f.sb.bits ++ (f.sc.bits ++ 0#1)))

def FI.ofWord (w : Word) : Except DecodeError FI :=
  match Src.ofBits (w.extractLsb' 23 11) with
  | .ok a => .ok ⟨Common.ofWord w, a, w.extractLsb' 0 23⟩
  | .error e => .error e

def FI.toWord (op : BitVec 8) (f : FI) : Word := packWord op f.c (f.sa.bits ++ f.imm)

def FK.ofWord (w : Word) : Except DecodeError FK :=
  if w.extractLsb' 0 2 == 0 then .ok ⟨Common.ofWord w, w.extractLsb' 2 32⟩ else .error .formatBits

def FK.toWord (op : BitVec 8) (f : FK) : Word := packWord op f.c (f.imm ++ 0#2)

def FA.ofWord (w : Word) : Except DecodeError FA :=
  match Src.ofBits (w.extractLsb' 23 11) with
  | .ok a => .ok ⟨Common.ofWord w, a, w.extractLsb' 12 11, w.extractLsb' 0 12⟩
  | .error e => .error e

def FA.toWord (op : BitVec 8) (f : FA) : Word := packWord op f.c (f.base.bits ++ (f.mod ++ f.off))

def FC.ofWord (w : Word) : Except DecodeError FC :=
  .ok ⟨Common.ofWord w, w.extractLsb' 8 26, w.extractLsb' 0 8⟩

def FC.toWord (op : BitVec 8) (f : FC) : Word := packWord op f.c (f.off ++ f.aux)

/-- What an assigned opcode selects: a format and the instruction made of its fields. -/
inductive Shape where
  | fm (mk : FM → Instr) | f3 (mk : F3 → Instr) | fi (mk : FI → Instr)
  | fk (mk : FK → Instr) | fa (mk : FA → Instr) | fc (mk : FC → Instr)

/-- The assigned opcodes of class lane (R109). -/
def laneShape (op : Nat) : Option Shape :=
  match op with
  | 0 => some (.fm .iadd)
  | 1 => some (.fm .isub)
  | 2 => some (.fm .imul)
  | 3 => some (.fm .imulh)
  | 4 => some (.f3 .imad)
  | 5 => some (.fm .iadd64)
  | 6 => some (.fm .lea)
  | 7 => some (.fm .imin)
  | 8 => some (.fm .imax)
  | 9 => some (.fm .iabs)
  | 10 => some (.fm .and)
  | 11 => some (.fm .or)
  | 12 => some (.fm .xor)
  | 13 => some (.fm .andn)
  | 14 => some (.fm .shl)
  | 15 => some (.fm .shr)
  | 16 => some (.fm .sar)
  | 17 => some (.fm .rotl)
  | 18 => some (.f3 .fshr)
  | 19 => some (.fm .bfx)
  | 20 => some (.f3 .bfi)
  | 21 => some (.fm .popc)
  | 22 => some (.fm .clz)
  | 23 => some (.fm .brev)
  | 24 => some (.fm .prmt)
  | 25 => some (.fm .icmp)
  | 26 => some (.f3 .sel)
  | 27 => some (.fm .mov)
  | 28 => some (.fk .movi)
  | 32 => some (.fm .fadd)
  | 33 => some (.fm .fmul)
  | 34 => some (.f3 .ffmaRn)
  | 35 => some (.f3 .ffmaRz)
  | 36 => some (.f3 .ffmaRd)
  | 37 => some (.f3 .ffmaRu)
  | 38 => some (.fm .fmin)
  | 39 => some (.fm .fmax)
  | 40 => some (.fm .fcmp)
  | 41 => some (.fm .fclass)
  | 42 => some (.fm .fscale)
  | 48 => some (.fm .hadd2)
  | 49 => some (.fm .hmul2)
  | 50 => some (.f3 .hfma2F16)
  | 51 => some (.f3 .hfma2Bf16)
  | 52 => some (.fm .hmin2)
  | 53 => some (.fm .hmax2)
  | 56 => some (.fm .cvt)
  | 57 => some (.fm .cvtsr)
  | 58 => some (.fm .pack2)
  | 64 => some (.fm .plop)
  | 65 => some (.fm .pmov)
  | 72 => some (.fm .vote)
  | 73 => some (.fm .shfl)
  | 74 => some (.fm .rduc)
  | 75 => some (.fm .matchL)
  | 80 => some (.fm .sread)
  | 81 => some (.fm .swrite)
  | 88 => some (.fm .hash64)
  | 89 => some (.fm .hcrc)
  | 90 => some (.fm .bcmp)
  | 91 => some (.fm .bfind)
  | _ => none

/-- The assigned opcodes of class sfu (R109, R110). -/
def sfuShape (op : Nat) : Option Shape :=
  match op with
  | 0 => some (.fm .exp2)
  | 128 => some (.fm .exp2Acc)
  | 1 => some (.fm .exp)
  | 129 => some (.fm .expAcc)
  | 2 => some (.fm .log2)
  | 130 => some (.fm .log2Acc)
  | 3 => some (.fm .ln)
  | 131 => some (.fm .lnAcc)
  | 4 => some (.fm .rcp)
  | 132 => some (.fm .rcpAcc)
  | 5 => some (.fm .rsq)
  | 133 => some (.fm .rsqAcc)
  | 6 => some (.fm .sqrt)
  | 134 => some (.fm .sqrtAcc)
  | 7 => some (.fm .sin)
  | 135 => some (.fm .sinAcc)
  | 8 => some (.fm .cos)
  | 136 => some (.fm .cosAcc)
  | 9 => some (.fm .tanh)
  | 137 => some (.fm .tanhAcc)
  | 10 => some (.fm .sigm)
  | 138 => some (.fm .sigmAcc)
  | 11 => some (.fm .gelu)
  | 139 => some (.fm .geluAcc)
  | 12 => some (.fm .silu)
  | 140 => some (.fm .siluAcc)
  | 13 => some (.fm .erf)
  | 141 => some (.fm .erfAcc)
  | 14 => some (.fm .fdiv)
  | 142 => some (.fm .fdivAcc)
  | _ => none

/-- The assigned opcodes of class mem (R109). -/
def memShape (op : Nat) : Option Shape :=
  match op with
  | 0 => some (.fa .ld)
  | 1 => some (.fa .st)
  | 2 => some (.fa .lda)
  | 3 => some (.fa .stl)
  | 4 => some (.fm .atom)
  | 5 => some (.fm .red)
  | 6 => some (.fm .cas)
  | 7 => some (.fm .fence)
  | 8 => some (.fa .pref)
  | 9 => some (.fm .cvta)
  | _ => none

/-- The assigned opcodes of class mig (R109). -/
def migShape (op : Nat) : Option Shape :=
  match op with
  | 0 => some (.fm .spawn)
  | 1 => some (.fa .migr)
  | 2 => some (.fm .home)
  | 3 => some (.fm .ratom)
  | 4 => some (.fm .pin)
  | 5 => some (.fm .aqstat)
  | _ => none

/-- The assigned opcodes of class sync (R109). -/
def syncShape (op : Nat) : Option Shape :=
  match op with
  | 0 => some (.fm .swinit)
  | 1 => some (.fm .swarm)
  | 2 => some (.fi .swadd)
  | 3 => some (.fm .swwait)
  | 4 => some (.fm .bar)
  | 5 => some (.fm .bararv)
  | 6 => some (.fm .rget)
  | 7 => some (.fm .rput)
  | 8 => some (.fm .waite)
  | 9 => some (.fm .cntrd)
  | _ => none

/-- The assigned opcodes of class copy (R109). -/
def copyShape (op : Nat) : Option Shape :=
  match op with
  | 0 => some (.fm .tload)
  | 1 => some (.fm .tstore)
  | 2 => some (.fm .tgather)
  | 3 => some (.fm .tscatter)
  | 4 => some (.fm .tsub)
  | 5 => some (.fm .twalk)
  | 6 => some (.fm .tfill)
  | 7 => some (.fm .tmove)
  | _ => none

/-- The assigned opcodes of class mtx (R109). -/
def mtxShape (op : Nat) : Option Shape :=
  match op with
  | 0 => some (.fm .mma)
  | 1 => some (.fm .mmag)
  | 2 => some (.fm .mmas)
  | 3 => some (.fm .mmad)
  | 4 => some (.fm .acz)
  | 5 => some (.fm .acld)
  | 6 => some (.fm .acst)
  | 7 => some (.fm .acrd)
  | 8 => some (.fm .opmap)
  | _ => none

/-- The assigned opcodes of class row (R109). -/
def rowShape (op : Nat) : Option Shape :=
  match op with
  | 0 => some (.fm .rstat)
  | 1 => some (.fm .topk)
  | 2 => some (.fm .topkm)
  | 3 => some (.fm .pbound)
  | _ => none

/-- The assigned opcodes of class sig (R109). -/
def sigShape (op : Nat) : Option Shape :=
  match op with
  | 0 => some (.fm .sign)
  | 1 => some (.fm .srep)
  | 2 => some (.fm .sgsum)
  | 3 => some (.fm .sbkt)
  | _ => none

/-- The assigned opcodes of class task (R109). -/
def taskShape (op : Nat) : Option Shape :=
  match op with
  | 0 => some (.fm .launch)
  | 1 => some (.fm .join)
  | 2 => some (.fm .tspawn)
  | 3 => some (.fm .slice)
  | 4 => some (.fm .post)
  | 5 => some (.fm .swapout)
  | _ => none

/-- The assigned opcodes of class exp (R109). -/
def expShape (op : Nat) : Option Shape :=
  match op with
  | 0 => some (.fm .route)
  | 1 => some (.fm .cbopen)
  | 2 => some (.fm .cbput)
  | 3 => some (.fm .cbclose)
  | 4 => some (.fm .cbstat)
  | _ => none

/-- The assigned opcodes of class ctl (R109). -/
def ctlShape (op : Nat) : Option Shape :=
  match op with
  | 0 => some (.fm .nop)
  | 1 => some (.fc .bra)
  | 2 => some (.fm .brx)
  | 3 => some (.fc .call)
  | 4 => some (.fm .ret)
  | 5 => some (.fm .exitL)
  | 6 => some (.fm .yield)
  | 7 => some (.fi .trap)
  | 8 => some (.fi .bkpt)
  | 9 => some (.fc .tret)
  | 10 => some (.fm .rjset)
  | 11 => some (.fm .rjarv)
  | 12 => some (.fm .rjwait)
  | 13 => some (.fc .loop)
  | 14 => some (.fc .lbrk)
  | _ => none

/-- The opcode map (R109). -/
def shapeOf (e : Eng) (op : BitVec 8) : Option Shape :=
  match e with
  | .lane => laneShape op.toNat
  | .sfu => sfuShape op.toNat
  | .mem => memShape op.toNat
  | .mig => migShape op.toNat
  | .sync => syncShape op.toNat
  | .copy => copyShape op.toNat
  | .mtx => mtxShape op.toNat
  | .row => rowShape op.toNat
  | .sig => sigShape op.toNat
  | .task => taskShape op.toNat
  | .exp => expShape op.toNat
  | .ctl => ctlShape op.toNat

/-- The fields of a word in a shape, before the checks of the instruction's own chapter. -/
def Shape.read (h : Shape) (w : Word) : Except DecodeError Instr :=
  match h with
  | .fm mk => (FM.ofWord w).map mk
  | .f3 mk => (F3.ofWord w).map mk
  | .fi mk => (FI.ofWord w).map mk
  | .fk mk => (FK.ofWord w).map mk
  | .fa mk => (FA.ofWord w).map mk
  | .fc mk => (FC.ofWord w).map mk

/-- The instruction of a word in the opcode space of class e; tail says that the word is the TAIL instruction of its clause,
whose class is CTL (R94). An unassigned opcode is the step UNASSIGNED_OPCODE, which takes ILLEGAL_ENCODING (R109). -/
def decodeWord (e : Eng) (tail : Bool) (w : Word) : Except DecodeError Instr :=
  match shapeOf e (opBits w) with
  | none => .ok (.unassignedOpcode (BitVec.ofNat 4 e.code) tail w)
  | some h =>
    match h.read w with
    | .ok i => if i.wf then .ok i else .error .reserved
    | .error r => .error r

/-- The class and opcode of an instruction (R109); a command or an event has none. -/
def Instr.opcode (i : Instr) : Option (Eng × BitVec 8) :=
  match i with
  | .iadd _ => some (.lane, 0#8)
  | .isub _ => some (.lane, 1#8)
  | .imul _ => some (.lane, 2#8)
  | .imulh _ => some (.lane, 3#8)
  | .imad _ => some (.lane, 4#8)
  | .iadd64 _ => some (.lane, 5#8)
  | .lea _ => some (.lane, 6#8)
  | .imin _ => some (.lane, 7#8)
  | .imax _ => some (.lane, 8#8)
  | .iabs _ => some (.lane, 9#8)
  | .and _ => some (.lane, 10#8)
  | .or _ => some (.lane, 11#8)
  | .xor _ => some (.lane, 12#8)
  | .andn _ => some (.lane, 13#8)
  | .shl _ => some (.lane, 14#8)
  | .shr _ => some (.lane, 15#8)
  | .sar _ => some (.lane, 16#8)
  | .rotl _ => some (.lane, 17#8)
  | .fshr _ => some (.lane, 18#8)
  | .bfx _ => some (.lane, 19#8)
  | .bfi _ => some (.lane, 20#8)
  | .popc _ => some (.lane, 21#8)
  | .clz _ => some (.lane, 22#8)
  | .brev _ => some (.lane, 23#8)
  | .prmt _ => some (.lane, 24#8)
  | .icmp _ => some (.lane, 25#8)
  | .sel _ => some (.lane, 26#8)
  | .mov _ => some (.lane, 27#8)
  | .movi _ => some (.lane, 28#8)
  | .fadd _ => some (.lane, 32#8)
  | .fmul _ => some (.lane, 33#8)
  | .ffmaRn _ => some (.lane, 34#8)
  | .ffmaRz _ => some (.lane, 35#8)
  | .ffmaRd _ => some (.lane, 36#8)
  | .ffmaRu _ => some (.lane, 37#8)
  | .fmin _ => some (.lane, 38#8)
  | .fmax _ => some (.lane, 39#8)
  | .fcmp _ => some (.lane, 40#8)
  | .fclass _ => some (.lane, 41#8)
  | .fscale _ => some (.lane, 42#8)
  | .hadd2 _ => some (.lane, 48#8)
  | .hmul2 _ => some (.lane, 49#8)
  | .hfma2F16 _ => some (.lane, 50#8)
  | .hfma2Bf16 _ => some (.lane, 51#8)
  | .hmin2 _ => some (.lane, 52#8)
  | .hmax2 _ => some (.lane, 53#8)
  | .cvt _ => some (.lane, 56#8)
  | .cvtsr _ => some (.lane, 57#8)
  | .pack2 _ => some (.lane, 58#8)
  | .plop _ => some (.lane, 64#8)
  | .pmov _ => some (.lane, 65#8)
  | .vote _ => some (.lane, 72#8)
  | .shfl _ => some (.lane, 73#8)
  | .rduc _ => some (.lane, 74#8)
  | .matchL _ => some (.lane, 75#8)
  | .sread _ => some (.lane, 80#8)
  | .swrite _ => some (.lane, 81#8)
  | .hash64 _ => some (.lane, 88#8)
  | .hcrc _ => some (.lane, 89#8)
  | .bcmp _ => some (.lane, 90#8)
  | .bfind _ => some (.lane, 91#8)
  | .exp2 _ => some (.sfu, 0#8)
  | .exp2Acc _ => some (.sfu, 128#8)
  | .exp _ => some (.sfu, 1#8)
  | .expAcc _ => some (.sfu, 129#8)
  | .log2 _ => some (.sfu, 2#8)
  | .log2Acc _ => some (.sfu, 130#8)
  | .ln _ => some (.sfu, 3#8)
  | .lnAcc _ => some (.sfu, 131#8)
  | .rcp _ => some (.sfu, 4#8)
  | .rcpAcc _ => some (.sfu, 132#8)
  | .rsq _ => some (.sfu, 5#8)
  | .rsqAcc _ => some (.sfu, 133#8)
  | .sqrt _ => some (.sfu, 6#8)
  | .sqrtAcc _ => some (.sfu, 134#8)
  | .sin _ => some (.sfu, 7#8)
  | .sinAcc _ => some (.sfu, 135#8)
  | .cos _ => some (.sfu, 8#8)
  | .cosAcc _ => some (.sfu, 136#8)
  | .tanh _ => some (.sfu, 9#8)
  | .tanhAcc _ => some (.sfu, 137#8)
  | .sigm _ => some (.sfu, 10#8)
  | .sigmAcc _ => some (.sfu, 138#8)
  | .gelu _ => some (.sfu, 11#8)
  | .geluAcc _ => some (.sfu, 139#8)
  | .silu _ => some (.sfu, 12#8)
  | .siluAcc _ => some (.sfu, 140#8)
  | .erf _ => some (.sfu, 13#8)
  | .erfAcc _ => some (.sfu, 141#8)
  | .fdiv _ => some (.sfu, 14#8)
  | .fdivAcc _ => some (.sfu, 142#8)
  | .ld _ => some (.mem, 0#8)
  | .st _ => some (.mem, 1#8)
  | .lda _ => some (.mem, 2#8)
  | .stl _ => some (.mem, 3#8)
  | .atom _ => some (.mem, 4#8)
  | .red _ => some (.mem, 5#8)
  | .cas _ => some (.mem, 6#8)
  | .fence _ => some (.mem, 7#8)
  | .pref _ => some (.mem, 8#8)
  | .cvta _ => some (.mem, 9#8)
  | .spawn _ => some (.mig, 0#8)
  | .migr _ => some (.mig, 1#8)
  | .home _ => some (.mig, 2#8)
  | .ratom _ => some (.mig, 3#8)
  | .pin _ => some (.mig, 4#8)
  | .aqstat _ => some (.mig, 5#8)
  | .swinit _ => some (.sync, 0#8)
  | .swarm _ => some (.sync, 1#8)
  | .swadd _ => some (.sync, 2#8)
  | .swwait _ => some (.sync, 3#8)
  | .bar _ => some (.sync, 4#8)
  | .bararv _ => some (.sync, 5#8)
  | .rget _ => some (.sync, 6#8)
  | .rput _ => some (.sync, 7#8)
  | .waite _ => some (.sync, 8#8)
  | .cntrd _ => some (.sync, 9#8)
  | .tload _ => some (.copy, 0#8)
  | .tstore _ => some (.copy, 1#8)
  | .tgather _ => some (.copy, 2#8)
  | .tscatter _ => some (.copy, 3#8)
  | .tsub _ => some (.copy, 4#8)
  | .twalk _ => some (.copy, 5#8)
  | .tfill _ => some (.copy, 6#8)
  | .tmove _ => some (.copy, 7#8)
  | .mma _ => some (.mtx, 0#8)
  | .mmag _ => some (.mtx, 1#8)
  | .mmas _ => some (.mtx, 2#8)
  | .mmad _ => some (.mtx, 3#8)
  | .acz _ => some (.mtx, 4#8)
  | .acld _ => some (.mtx, 5#8)
  | .acst _ => some (.mtx, 6#8)
  | .acrd _ => some (.mtx, 7#8)
  | .opmap _ => some (.mtx, 8#8)
  | .rstat _ => some (.row, 0#8)
  | .topk _ => some (.row, 1#8)
  | .topkm _ => some (.row, 2#8)
  | .pbound _ => some (.row, 3#8)
  | .sign _ => some (.sig, 0#8)
  | .srep _ => some (.sig, 1#8)
  | .sgsum _ => some (.sig, 2#8)
  | .sbkt _ => some (.sig, 3#8)
  | .launch _ => some (.task, 0#8)
  | .join _ => some (.task, 1#8)
  | .tspawn _ => some (.task, 2#8)
  | .slice _ => some (.task, 3#8)
  | .post _ => some (.task, 4#8)
  | .swapout _ => some (.task, 5#8)
  | .route _ => some (.exp, 0#8)
  | .cbopen _ => some (.exp, 1#8)
  | .cbput _ => some (.exp, 2#8)
  | .cbclose _ => some (.exp, 3#8)
  | .cbstat _ => some (.exp, 4#8)
  | .nop _ => some (.ctl, 0#8)
  | .bra _ => some (.ctl, 1#8)
  | .brx _ => some (.ctl, 2#8)
  | .call _ => some (.ctl, 3#8)
  | .ret _ => some (.ctl, 4#8)
  | .exitL _ => some (.ctl, 5#8)
  | .yield _ => some (.ctl, 6#8)
  | .trap _ => some (.ctl, 7#8)
  | .bkpt _ => some (.ctl, 8#8)
  | .tret _ => some (.ctl, 9#8)
  | .rjset _ => some (.ctl, 10#8)
  | .rjarv _ => some (.ctl, 11#8)
  | .rjwait _ => some (.ctl, 12#8)
  | .loop _ => some (.ctl, 13#8)
  | .lbrk _ => some (.ctl, 14#8)
  | .doorbellWrite _ _ _ => none
  | .enableWrite _ _ => none
  | .qerrClear _ => none
  | .evheadWrite _ _ => none
  | .registerWrite _ _ _ => none
  | .eventWrite _ => none
  | .graphNodeReady _ _ => none
  | .waitReevaluate _ => none
  | .pllLock _ => none
  | .ucieTraining _ => none
  | .portTraining _ => none
  | .networkPortDown _ => none
  | .ucieLinkDown _ => none
  | .thermalThrottle _ _ _ => none
  | .thermalShutdown _ _ _ => none
  | .pageWalk _ => none
  | .sliceAccept _ => none
  | .sliceLoadReturn _ => none
  | .atomicReturn _ => none
  | .writeAtHome _ => none
  | .remoteAck _ => none
  | .remoteLoadReturn _ => none
  | .hostAccessComplete _ => none
  | .operationRetire _ _ => none
  | .rejoinRelease _ _ => none
  | .syncWordUpdate _ => none
  | .barrierArrival _ => none
  | .shadowSwap _ _ => none
  | .shadowSwapBack _ _ => none
  | .teamSave _ => none
  | .saveRetry _ _ => none
  | .teamRestore _ => none
  | .faultSave _ => none
  | .faultRestore _ => none
  | .swapOut _ => none
  | .swapIn _ => none
  | .squadRetire _ => none
  | .noProgress _ _ => none
  | .taskEngineNoProgress _ => none
  | .launchRecordRead _ => none
  | .launchAccept _ => none
  | .teamPlace _ => none
  | .roamingAdmission _ => none
  | .launchComplete _ => none
  | .budgetExhausted _ => none
  | .heldUpdateRetry _ => none
  | .leafDepart _ _ => none
  | .leafSend _ => none
  | .bundleSend _ _ => none
  | .bundleArrival _ _ => none
  | .transportRetryLimit _ => none
  | .leafArrival _ => none
  | .ringReadback _ => none
  | .transitCredit _ => none
  | .arrivalDispatch _ => none
  | .binRelease _ => none
  | .poolTableRefresh _ _ => none
  | .copyOperationStart _ => none
  | .copyRowWritten _ => none
  | .streamItem _ => none
  | .matrixOperationStart _ _ => none
  | .rowOperationStart _ => none
  | .signatureOperationStart _ => none
  | .routeOperationStart _ => none
  | .contextOpen _ => none
  | .rowAdmission _ => none
  | .rowComplete _ _ => none
  | .tokenTimeout _ _ _ => none
  | .tokenRelease _ _ _ => none
  | .ringReadmission _ _ => none
  | .combineOverflow _ => none
  | .contextClose _ => none
  | .unassignedOpcode _ _ _ => none
  | .powerLoss _ => none
  | .cmdLaunch => none
  | .graph => none
  | .cmdCopy => none
  | .signal => none
  | .cmdWait => none
  | .invalidate => none
  | .resume => none
  | .preempt => none
  | .release => none
  | .summary => none
  | .create => none
  | .delete => none
  | .setasc => none
  | .config => none
  | .policy => none
  | .recoveryLoad => none
  | .partReset => none
  | .powerGood => none
  | .firmwareCheck => none
  | .hbmTraining => none
  | .pcieLinkUp => none
  | .gangEnterActive => none
  | .clauseStart => none
  | .clauseFetch => none
  | .clauseBoundary => none
  | .classAgeing => none
  | .entryTimeLimit => none
  | .sfuAccept => none
  | .memoryPortAccept => none
  | .runAhead => none
  | .fenceComplete => none
  | .counterWaitRelease => none
  | .syncWaiterRelease => none
  | .ringWaiterRelease => none
  | .joinRelease => none
  | .barrierRelease => none
  | .cbstatResult => none
  | .cbputAnswer => none

/-- The word of an instruction (R99, R105, R109). A command or an event has no encoding and gives 0. -/
def encode (i : Instr) : Word :=
  match i with
  | .iadd w => FM.toWord 0#8 w
  | .isub w => FM.toWord 1#8 w
  | .imul w => FM.toWord 2#8 w
  | .imulh w => FM.toWord 3#8 w
  | .imad w => F3.toWord 4#8 w
  | .iadd64 w => FM.toWord 5#8 w
  | .lea w => FM.toWord 6#8 w
  | .imin w => FM.toWord 7#8 w
  | .imax w => FM.toWord 8#8 w
  | .iabs w => FM.toWord 9#8 w
  | .and w => FM.toWord 10#8 w
  | .or w => FM.toWord 11#8 w
  | .xor w => FM.toWord 12#8 w
  | .andn w => FM.toWord 13#8 w
  | .shl w => FM.toWord 14#8 w
  | .shr w => FM.toWord 15#8 w
  | .sar w => FM.toWord 16#8 w
  | .rotl w => FM.toWord 17#8 w
  | .fshr w => F3.toWord 18#8 w
  | .bfx w => FM.toWord 19#8 w
  | .bfi w => F3.toWord 20#8 w
  | .popc w => FM.toWord 21#8 w
  | .clz w => FM.toWord 22#8 w
  | .brev w => FM.toWord 23#8 w
  | .prmt w => FM.toWord 24#8 w
  | .icmp w => FM.toWord 25#8 w
  | .sel w => F3.toWord 26#8 w
  | .mov w => FM.toWord 27#8 w
  | .movi w => FK.toWord 28#8 w
  | .fadd w => FM.toWord 32#8 w
  | .fmul w => FM.toWord 33#8 w
  | .ffmaRn w => F3.toWord 34#8 w
  | .ffmaRz w => F3.toWord 35#8 w
  | .ffmaRd w => F3.toWord 36#8 w
  | .ffmaRu w => F3.toWord 37#8 w
  | .fmin w => FM.toWord 38#8 w
  | .fmax w => FM.toWord 39#8 w
  | .fcmp w => FM.toWord 40#8 w
  | .fclass w => FM.toWord 41#8 w
  | .fscale w => FM.toWord 42#8 w
  | .hadd2 w => FM.toWord 48#8 w
  | .hmul2 w => FM.toWord 49#8 w
  | .hfma2F16 w => F3.toWord 50#8 w
  | .hfma2Bf16 w => F3.toWord 51#8 w
  | .hmin2 w => FM.toWord 52#8 w
  | .hmax2 w => FM.toWord 53#8 w
  | .cvt w => FM.toWord 56#8 w
  | .cvtsr w => FM.toWord 57#8 w
  | .pack2 w => FM.toWord 58#8 w
  | .plop w => FM.toWord 64#8 w
  | .pmov w => FM.toWord 65#8 w
  | .vote w => FM.toWord 72#8 w
  | .shfl w => FM.toWord 73#8 w
  | .rduc w => FM.toWord 74#8 w
  | .matchL w => FM.toWord 75#8 w
  | .sread w => FM.toWord 80#8 w
  | .swrite w => FM.toWord 81#8 w
  | .hash64 w => FM.toWord 88#8 w
  | .hcrc w => FM.toWord 89#8 w
  | .bcmp w => FM.toWord 90#8 w
  | .bfind w => FM.toWord 91#8 w
  | .exp2 w => FM.toWord 0#8 w
  | .exp2Acc w => FM.toWord 128#8 w
  | .exp w => FM.toWord 1#8 w
  | .expAcc w => FM.toWord 129#8 w
  | .log2 w => FM.toWord 2#8 w
  | .log2Acc w => FM.toWord 130#8 w
  | .ln w => FM.toWord 3#8 w
  | .lnAcc w => FM.toWord 131#8 w
  | .rcp w => FM.toWord 4#8 w
  | .rcpAcc w => FM.toWord 132#8 w
  | .rsq w => FM.toWord 5#8 w
  | .rsqAcc w => FM.toWord 133#8 w
  | .sqrt w => FM.toWord 6#8 w
  | .sqrtAcc w => FM.toWord 134#8 w
  | .sin w => FM.toWord 7#8 w
  | .sinAcc w => FM.toWord 135#8 w
  | .cos w => FM.toWord 8#8 w
  | .cosAcc w => FM.toWord 136#8 w
  | .tanh w => FM.toWord 9#8 w
  | .tanhAcc w => FM.toWord 137#8 w
  | .sigm w => FM.toWord 10#8 w
  | .sigmAcc w => FM.toWord 138#8 w
  | .gelu w => FM.toWord 11#8 w
  | .geluAcc w => FM.toWord 139#8 w
  | .silu w => FM.toWord 12#8 w
  | .siluAcc w => FM.toWord 140#8 w
  | .erf w => FM.toWord 13#8 w
  | .erfAcc w => FM.toWord 141#8 w
  | .fdiv w => FM.toWord 14#8 w
  | .fdivAcc w => FM.toWord 142#8 w
  | .ld w => FA.toWord 0#8 w
  | .st w => FA.toWord 1#8 w
  | .lda w => FA.toWord 2#8 w
  | .stl w => FA.toWord 3#8 w
  | .atom w => FM.toWord 4#8 w
  | .red w => FM.toWord 5#8 w
  | .cas w => FM.toWord 6#8 w
  | .fence w => FM.toWord 7#8 w
  | .pref w => FA.toWord 8#8 w
  | .cvta w => FM.toWord 9#8 w
  | .spawn w => FM.toWord 0#8 w
  | .migr w => FA.toWord 1#8 w
  | .home w => FM.toWord 2#8 w
  | .ratom w => FM.toWord 3#8 w
  | .pin w => FM.toWord 4#8 w
  | .aqstat w => FM.toWord 5#8 w
  | .swinit w => FM.toWord 0#8 w
  | .swarm w => FM.toWord 1#8 w
  | .swadd w => FI.toWord 2#8 w
  | .swwait w => FM.toWord 3#8 w
  | .bar w => FM.toWord 4#8 w
  | .bararv w => FM.toWord 5#8 w
  | .rget w => FM.toWord 6#8 w
  | .rput w => FM.toWord 7#8 w
  | .waite w => FM.toWord 8#8 w
  | .cntrd w => FM.toWord 9#8 w
  | .tload w => FM.toWord 0#8 w
  | .tstore w => FM.toWord 1#8 w
  | .tgather w => FM.toWord 2#8 w
  | .tscatter w => FM.toWord 3#8 w
  | .tsub w => FM.toWord 4#8 w
  | .twalk w => FM.toWord 5#8 w
  | .tfill w => FM.toWord 6#8 w
  | .tmove w => FM.toWord 7#8 w
  | .mma w => FM.toWord 0#8 w
  | .mmag w => FM.toWord 1#8 w
  | .mmas w => FM.toWord 2#8 w
  | .mmad w => FM.toWord 3#8 w
  | .acz w => FM.toWord 4#8 w
  | .acld w => FM.toWord 5#8 w
  | .acst w => FM.toWord 6#8 w
  | .acrd w => FM.toWord 7#8 w
  | .opmap w => FM.toWord 8#8 w
  | .rstat w => FM.toWord 0#8 w
  | .topk w => FM.toWord 1#8 w
  | .topkm w => FM.toWord 2#8 w
  | .pbound w => FM.toWord 3#8 w
  | .sign w => FM.toWord 0#8 w
  | .srep w => FM.toWord 1#8 w
  | .sgsum w => FM.toWord 2#8 w
  | .sbkt w => FM.toWord 3#8 w
  | .launch w => FM.toWord 0#8 w
  | .join w => FM.toWord 1#8 w
  | .tspawn w => FM.toWord 2#8 w
  | .slice w => FM.toWord 3#8 w
  | .post w => FM.toWord 4#8 w
  | .swapout w => FM.toWord 5#8 w
  | .route w => FM.toWord 0#8 w
  | .cbopen w => FM.toWord 1#8 w
  | .cbput w => FM.toWord 2#8 w
  | .cbclose w => FM.toWord 3#8 w
  | .cbstat w => FM.toWord 4#8 w
  | .nop w => FM.toWord 0#8 w
  | .bra w => FC.toWord 1#8 w
  | .brx w => FM.toWord 2#8 w
  | .call w => FC.toWord 3#8 w
  | .ret w => FM.toWord 4#8 w
  | .exitL w => FM.toWord 5#8 w
  | .yield w => FM.toWord 6#8 w
  | .trap w => FI.toWord 7#8 w
  | .bkpt w => FI.toWord 8#8 w
  | .tret w => FC.toWord 9#8 w
  | .rjset w => FM.toWord 10#8 w
  | .rjarv w => FM.toWord 11#8 w
  | .rjwait w => FM.toWord 12#8 w
  | .loop w => FC.toWord 13#8 w
  | .lbrk w => FC.toWord 14#8 w
  | .doorbellWrite _ _ _ => 0
  | .enableWrite _ _ => 0
  | .qerrClear _ => 0
  | .evheadWrite _ _ => 0
  | .registerWrite _ _ _ => 0
  | .eventWrite _ => 0
  | .graphNodeReady _ _ => 0
  | .waitReevaluate _ => 0
  | .pllLock _ => 0
  | .ucieTraining _ => 0
  | .portTraining _ => 0
  | .networkPortDown _ => 0
  | .ucieLinkDown _ => 0
  | .thermalThrottle _ _ _ => 0
  | .thermalShutdown _ _ _ => 0
  | .pageWalk _ => 0
  | .sliceAccept _ => 0
  | .sliceLoadReturn _ => 0
  | .atomicReturn _ => 0
  | .writeAtHome _ => 0
  | .remoteAck _ => 0
  | .remoteLoadReturn _ => 0
  | .hostAccessComplete _ => 0
  | .operationRetire _ _ => 0
  | .rejoinRelease _ _ => 0
  | .syncWordUpdate _ => 0
  | .barrierArrival _ => 0
  | .shadowSwap _ _ => 0
  | .shadowSwapBack _ _ => 0
  | .teamSave _ => 0
  | .saveRetry _ _ => 0
  | .teamRestore _ => 0
  | .faultSave _ => 0
  | .faultRestore _ => 0
  | .swapOut _ => 0
  | .swapIn _ => 0
  | .squadRetire _ => 0
  | .noProgress _ _ => 0
  | .taskEngineNoProgress _ => 0
  | .launchRecordRead _ => 0
  | .launchAccept _ => 0
  | .teamPlace _ => 0
  | .roamingAdmission _ => 0
  | .launchComplete _ => 0
  | .budgetExhausted _ => 0
  | .heldUpdateRetry _ => 0
  | .leafDepart _ _ => 0
  | .leafSend _ => 0
  | .bundleSend _ _ => 0
  | .bundleArrival _ _ => 0
  | .transportRetryLimit _ => 0
  | .leafArrival _ => 0
  | .ringReadback _ => 0
  | .transitCredit _ => 0
  | .arrivalDispatch _ => 0
  | .binRelease _ => 0
  | .poolTableRefresh _ _ => 0
  | .copyOperationStart _ => 0
  | .copyRowWritten _ => 0
  | .streamItem _ => 0
  | .matrixOperationStart _ _ => 0
  | .rowOperationStart _ => 0
  | .signatureOperationStart _ => 0
  | .routeOperationStart _ => 0
  | .contextOpen _ => 0
  | .rowAdmission _ => 0
  | .rowComplete _ _ => 0
  | .tokenTimeout _ _ _ => 0
  | .tokenRelease _ _ _ => 0
  | .ringReadmission _ _ => 0
  | .combineOverflow _ => 0
  | .contextClose _ => 0
  | .unassignedOpcode _ _ w => w
  | .powerLoss _ => 0
  | .cmdLaunch => 0
  | .graph => 0
  | .cmdCopy => 0
  | .signal => 0
  | .cmdWait => 0
  | .invalidate => 0
  | .resume => 0
  | .preempt => 0
  | .release => 0
  | .summary => 0
  | .create => 0
  | .delete => 0
  | .setasc => 0
  | .config => 0
  | .policy => 0
  | .recoveryLoad => 0
  | .partReset => 0
  | .powerGood => 0
  | .firmwareCheck => 0
  | .hbmTraining => 0
  | .pcieLinkUp => 0
  | .gangEnterActive => 0
  | .clauseStart => 0
  | .clauseFetch => 0
  | .clauseBoundary => 0
  | .classAgeing => 0
  | .entryTimeLimit => 0
  | .sfuAccept => 0
  | .memoryPortAccept => 0
  | .runAhead => 0
  | .fenceComplete => 0
  | .counterWaitRelease => 0
  | .syncWaiterRelease => 0
  | .ringWaiterRelease => 0
  | .joinRelease => 0
  | .barrierRelease => 0
  | .cbstatResult => 0
  | .cbputAnswer => 0

/-- The fields of a clause header (R93). -/
structure Header where
  eng : BitVec 4
  /-- number of instruction words − 1 -/
  cnt : BitVec 4
  tail : Bool
  ra : Bool
  nosw : Bool
  /-- [5] cp, [4] mx, [3] rw, [2] sg, [1] rm, [0] xp -/
  waitz : BitVec 6
  rsvd : BitVec 47
  deriving DecidableEq, Repr

def Header.ofWord (w : Word) : Header where
  eng := w.extractLsb' 60 4
  cnt := w.extractLsb' 56 4
  tail := w.getLsbD 55
  ra := w.getLsbD 54
  nosw := w.getLsbD 53
  waitz := w.extractLsb' 47 6
  rsvd := w.extractLsb' 0 47

/-- The number of instruction words of a clause (R92). -/
def Header.len (h : Header) : Nat := h.cnt.toNat + 1

/-- A header that raises no ILLEGAL_CLAUSE (R93): a class of 0 to 11, no TAIL in a CTL clause, reserved bits zero. -/
def Header.ok (h : Header) : Bool :=
  decide (h.eng.toNat < 12) && !(h.eng == 11 && h.tail) && h.rsvd == 0

/-- The class in which the word at position k (1 to 16) of a clause is decoded (R94): CTL for the TAIL instruction. -/
def Header.classAt (h : Header) (k : Nat) : Option Eng :=
  if h.tail && k == h.len then some .ctl else Eng.ofBits h.eng

/-- Whether the word at position k is the TAIL instruction. -/
def Header.isTailAt (h : Header) (k : Nat) : Bool := h.tail && k == h.len

/-- The terminal opcodes of CTL space (R96, R109). -/
def ctlTerminal (op : Nat) : Bool :=
  op == 1 || op == 2 || op == 3 || op == 4 || op == 5 || op == 9 || op == 12 || op == 13 || op == 14

/-- The word of a header (R93). -/
def Header.toWord (h : Header) : Word := h.eng ++ h.cnt ++ BitVec.ofBool h.tail ++ BitVec.ofBool h.ra ++ BitVec.ofBool h.nosw ++ h.waitz ++ h.rsvd

/-- The words of a clause of the instructions given, its count of words taken from them (R92 to R94). None for what R93, R96 and R120
reject: no instruction or more than 16, a header that is not legal, an ill-formed instruction or one of another class, and a terminal
instruction that is not the last. -/
def encodeClause (h0 : Header) (is : List Instr) : Option (List Word) :=
  let h : Header := { h0 with cnt := BitVec.ofNat 4 (is.length - 1) }
  let fits (k : Nat) (i : Instr) : Bool :=
    match i.opcode with
    | some (e, op) => i.wf && h.classAt k == some e && !(e == .ctl && ctlTerminal op.toNat && k != is.length)
    | none => false
  let fit : Bool := (List.range is.length).all fun k => match is[k]? with | some i => fits (k + 1) i | none => false
  if is.isEmpty || Nat.blt 16 is.length || !h.ok || !fit then none else some (h.toWord :: is.map encode)

/-- The decoder on the words of a one-instruction clause, numbered as the opcode table numbers bits: bits [63:0] are the
clause header and bits [127:64] the instruction word. The class comes from the header (R94), so both words are needed. -/
def decodeTableWord (_nbits w : Nat) : Option Instr :=
  let h := Header.ofWord (BitVec.ofNat 64 w)
  let word := BitVec.ofNat 64 (w / 2 ^ 64)
  if h.ok then
    match h.classAt 1 with
    | some e =>
      match decodeWord e (h.isTailAt 1) word with
      | .ok i => some i
      | .error _ => none
    | none => none
  else none

end Sys2Proof
end

