-- ==== Sys2Proof/Machine/State.lean ====
section
/-!
DEFINITION. The state of the Cundaza S4 as plain data: memory, the threads and their squads, gangs and teams, the requests
and queues of every engine, the launch tables, the host's functions and queues, and the bring-up of the module. Every list of
records is a flat table whose records carry their own number. The names of the rules that give a field stand beside it.
-/
namespace Sys2Proof.Machine

/-! ### Outcomes -/

/-- The reasons a step can stop. -/
inductive Fault where
  /-- Raised by step alone, when the module has no power (after POWER_LOSS or THERMAL_SHUTDOWN) and the agenda names no
  PART_RESET: no step of the part exists then (R427, R432). Safe: the machine stops where the hardware does nothing. -/
  | unpowered
  deriving DecidableEq, Repr

/-- The reasons for which an instruction is given no meaning. -/
inductive Refusal where
  /-- Raised by an arm of exec for an instruction that has no meaning yet. Safe: the machine stops. -/
  | notModelled (mnemonic : String)
  deriving DecidableEq, Repr

/-! ### Memory -/

/-- Every byte the part can reach, by home address: a device physical address (R61) for the slices of every chip and for host
memory, and 2^52 + n × 8 MiB + offset for vault n = die × 96 + position (R14). Kept in the one canonical form of Memory.wf. -/
structure Memory where
  cells : List Host.Cell
  deriving DecidableEq, Repr

/-- What a byte that nothing has written reads as: zero, since bring-up writes slices and vaults to zero (R433). -/
def Memory.dflt : Byte := 0

/-- The canonical form: addresses strictly rising, no cell equal to what an unlisted address reads as. -/
def Memory.wfFrom (lo : Nat) (cs : List Host.Cell) : Bool :=
  match cs with
  | [] => true
  | (a, b) :: rest => decide (lo ≤ a) && b != Memory.dflt && Memory.wfFrom (a + 1) rest

def Memory.wf (m : Memory) : Bool := Memory.wfFrom 0 m.cells

/-! ### Faults and records -/

/-- The 32-byte fault record of R113; code 0 means that no fault is held. -/
structure FaultRec where
  code : Nat := 0
  eng : Nat := 0
  coff : Nat := 0
  lanes : Lanes := 0
  pc : Word := 0
  addr : Word := 0
  detail : Word := 0
  deriving DecidableEq, Repr

/-- The trap registers of a gang (R115). -/
structure TrapRegs where
  xcode : BitVec 8 := 0
  xpc : Word := 0
  xraw : Word := 0
  xop : BitVec 13 := 0
  xfmt : BitVec 3 := 0
  xdst : BitVec 16 := 0
  xsa : BitVec 11 := 0
  xsb : BitVec 11 := 0
  xsc : BitVec 11 := 0
  ximm : Word := 0
  xguard : BitVec 6 := 0
  xmask : Lanes := 0
  xaddr : Word := 0
  deriving DecidableEq, Repr

/-- What a gang in its handler holds (R112, R114, R116): its trap registers, the record of the trap that it serves, the header
of the clause of the trapping word, and whether that word was the clause's last. -/
structure TrapCtx where
  regs : TrapRegs := {}
  frec : FaultRec := {}
  /-- clause and position of the trapping word -/
  pc : Word := 0
  pos : Nat := 0
  hdr : Word := 0
  last : Bool := false
  /-- the clause of the trapping word held YIELD before it (R217) -/
  yielded : Bool := false
  deriving DecidableEq, Repr

/-! ### Threads, squads, gangs, teams -/

/-- What a release of narrow scope carries (R73, R79, R81): its scope as it acts, the thread that made it, and the pending writes of that
thread's cumulative set. -/
structure Release where
  scope : Nat
  squad : Nat
  lane : Nat
  team : Nat
  core : Nat
  ids : List Nat
  deriving DecidableEq, Repr

/-- A register file: the value of each listed register; an unlisted register holds 0. -/
abbrev RegFile := List (Nat × W32)

/-- Where a lane of a squad stands (R205). -/
inductive LaneSt where
  /-- no thread stands in this lane -/
  | absent
  /-- active in a gang -/
  | run
  /-- exited (R216) -/
  | exited
  /-- parked with its fault record (R39), or held with it in a spill ring (R202) -/
  | parked
  /-- waits at the RJWAIT at position pos of clause, on mask j, in the current round or the next (R220), since the cycle in which that
  RJWAIT issued (R28) -/
  | rejoin (j : Nat) (clause : Word) (pos : Nat) (next : Word) (current : Bool) (since : Nat)
  /-- a migrating lane that has not yet entered the departure buffer (R239), and since when it has found that buffer full (R240) -/
  | departing (core chip : Nat) (full : Option Nat)
  deriving DecidableEq, Repr

/-- A thread in its lane (R17, R23, R42). -/
structure Lane where
  st : LaneSt := .absent
  /-- work identifier (R20) -/
  wid : Word := 0
  /-- vector registers (R23) -/
  v : RegFile := []
  /-- predicates p0 to p23 (R23) -/
  p : BitVec 24 := 0
  /-- %fflags (R126) -/
  ff : Flags := 0
  /-- latches L0 to L7 of the lane's gang (R102), cleared at every clause start -/
  lat : List (Nat × Word) := []
  /-- pin flag and hop count of a roaming thread (R235, R255) -/
  pin : Bool := false
  hops : W32 := 0
  /-- clause address at which a parked, waiting or exited lane resumes (R26) -/
  pc : Word := 0
  /-- resume offset in its clause; 0 for the clause start (R27) -/
  coff : Nat := 0
  /-- fault record of a parked lane, and whether a RESUME has covered its address since (R201) -/
  frec : FaultRec := {}
  covered : Bool := false
  /-- trap registers of the handler that the lane was in when it parked, waited at an RJWAIT or was saved (R230) -/
  htrap : Option TrapCtx := none
  /-- one more than the highest stack offset written (R30) -/
  hwm : Nat := 0
  /-- the registers of the gang that the lane left at an RJWAIT, or parked out of, whose results had not arrived (R95), as Gang.pend -/
  pend : List (Nat × Bool × Nat × Nat) := []
  /-- the model's own: the collective clause at whose head the lane's gang is held, and the lanes that it is held for (R227) -/
  due : Word × Lanes := (0, 0)
  /-- the model's own: posted writes of other threads and of engines, and of the thread on cores that it has left, in the lane's
  cumulative set (R79) -/
  seen : List Nat := []
  /-- the model's own: the releases that the lane's loads have returned, until an acquire takes them (R81) -/
  got : List Release := []
  /-- the model's own: what the lane's release fences of narrow scope make its later stores carry (R78, R81) -/
  carry : List Release := []
  deriving DecidableEq, Repr

/-- A uniform register that a gang has written less than its register latency ago: what it held before, when the new value has stood that
long, and the other gangs of the squad, which may read either (R170). -/
structure USet where
  n : Nat
  old : W32
  till : Nat
  gangs : List Nat
  deriving DecidableEq, Repr

/-- The uniform registers of a squad between its gangs (R170): those lately written, those that the gang which issues reads at their old
value, and for what that gang writes the cycle up to which it is open and the gangs for which it is. -/
structure USettle where
  recent : List USet := []
  view : List (Nat × W32) := []
  till : Nat := 0
  gangs : List Nat := []
  deriving DecidableEq, Repr

/-- A rejoin mask (R219). -/
structure RjMask where
  e : Lanes := 0
  a : Lanes := 0
  n : Lanes := 0
  /-- the round has completed and its lanes await REJOIN_RELEASE (R222) -/
  fired : Lanes := 0
  /-- the model's own: the cumulative sets of the arrivals of rounds up to the current one, and of those of N (R223) -/
  set : List Nat := []
  setN : List Nat := []
  deriving DecidableEq, Repr

/-- A tile descriptor of 16 bytes (R301). -/
abbrev TileDesc := BitVec 128

/-- The six outstanding-operation counters of a squad (R16, R269). -/
structure Counters where
  cp : Nat := 0
  mx : Nat := 0
  rw : Nat := 0
  sg : Nat := 0
  rm : Nat := 0
  xp : Nat := 0
  deriving DecidableEq, Repr

/-- The role classes of R33. -/
inductive Role where
  | load | store | matrix | vector
  deriving DecidableEq, Repr

/-- Where a squad stands. -/
inductive Place where
  /-- resident in a partition -/
  | resident
  /-- saved to a context frame of the kind given (R27) -/
  | saved (kind : Nat) (frame : Word)
  deriving DecidableEq, Repr

/-- A squad (R17), or the threads that a caddy released together as one roaming gang (R18). -/
structure Squad where
  id : Nat
  launch : Word
  roam : Bool := false
  /-- number of the team record, and squad index within the team -/
  team : Nat := 0
  index : Nat := 0
  core : Nat := 0
  part : Nat := 0
  vcore : Nat := 0
  /-- in the shadow bank of its partition (R36) -/
  shadow : Bool := false
  role : Option Role := none
  /-- rounded register counts (R23) -/
  vregs : Nat := 0
  sregs : Nat := 0
  accs : Nat := 0
  tiles : Nat := 0
  lanes : List Lane := []
  u : RegFile := []
  /-- which of them another gang may yet read at an old value (R170) -/
  us : USettle := {}
  rj : List RjMask := []
  td : List (Nat × TileDesc) := []
  /-- accumulator elements by 4,096 × accumulator + 64 × row + column (R300) -/
  acc : RegFile := []
  /-- words of the accumulators in error, two elements each, and whether two bits are (R435) -/
  accErrs : List (Nat × Bool) := []
  cnt : Counters := {}
  /-- engine faults of retired operations, oldest first, not yet delivered (R111) -/
  held : List (CounterClass × FaultRec) := []
  /-- floating-point flags of retired mx, rw and sg operations, not yet merged (R316, R333, R346) -/
  mxFlags : Flags := 0
  rwFlags : Flags := 0
  sgFlags : Flags := 0
  /-- cycles left of the job slice (R359) -/
  budget : Nat := 0
  /-- first byte of the squad's stacks in the slice of its core (R52, R55) -/
  stk : Nat := 0
  place : Place := .resident
  /-- a save has begun and issue has stopped: the kind of R27 -/
  saving : Option Nat := none
  /-- a save found no room in the frame area, or failed there, and was reported (R29): of which kind -/
  refused : Bool := false
  refKind : Nat := 0
  refusal : FaultRec := {}
  /-- a saved squad may be restored (R201, R363) -/
  eligible : Bool := false
  /-- a refused save may be tried again (R29) -/
  retry : Bool := false
  /-- address of the word whose change makes a swapped-out squad eligible (R363) -/
  swapWord : Option Word := none
  /-- active entries that gangs of NOSW clauses keep at an RJWAIT (R212): mask, clause and position, entry time, and the entry since when -/
  kept : List (Nat × Word × Nat × Nat) := []
  deriving DecidableEq, Repr

/-- A CBSTAT on its way (R402): its number in Gang.pend and Gang.block, what it selects, its context, where it stands, and its word. -/
structure Cbstat where
  id : Nat
  sel : Nat
  ctx : Nat
  lanes : Lanes
  pc : Word
  pos : Nat
  word : Word
  since : Nat
  deriving DecidableEq, Repr

/-- Why a gang does not issue. -/
inductive Wait where
  | none
  /-- a TLB miss of its next access (R62) -/
  | walk
  /-- a clause fetch that missed (R209) -/
  | fetch
  /-- the WAITZ of its next clause (R95) -/
  | waitz
  /-- parked lanes of its squad, before a collective clause (R227) -/
  | collective
  /-- a busy special-function unit (R179) -/
  | sfu
  /-- a busy memory port (R203) -/
  | port
  /-- a full store buffer or vault write buffer (R69, R203) -/
  | buffer
  /-- a full outbound remote queue (R69, R203) -/
  | remote
  /-- a fence of the lanes of m, of the kind and scope given, that is not complete (R197) -/
  | fence (kind scope : Nat) (m : Lanes)
  /-- SWWAIT on the word at a home address, with generation g; got holds a GEN that released it (R266) -/
  | sync (word : Nat) (va : Word) (g : W32) (got : Option W32)
  /-- RGET on slot i of the block at a home address, for phase ph; got says that the phase came (R268) -/
  | ring (block : Nat) (va : Word) (i : Nat) (ph : Bool) (sel : W32) (got : Bool)
  /-- WAITE (R270) -/
  | counter (c : CounterClass) (n : W32)
  /-- JOIN or SWAPOUT on a completion word (R362) -/
  | join (word : Nat) (va : Word) (g : W32) (swap : Bool) (got : Option W32)
  /-- BAR on barrier b; for each lane, the round that it joined, while that has not completed (R265); whether the arrival is on its
  way -/
  | barrier (b : Nat) (rounds : List Nat) (pending : Bool)
  /-- RJWAIT of no lane left: the gang has dissolved -/
  | rejoin
  /-- a full pending-launch queue (R361) or engine queue (R285, R299, R322, R337, R378, R386) -/
  | queue
  /-- a counter at its limit (R269) -/
  | limit (c : CounterClass)
  /-- CBPUT until the buffer answers (R392) -/
  | cbput (answered : Bool)
  deriving DecidableEq, Repr

/-- The point of its clause at which a gang stands. -/
inductive Phase where
  /-- before the steps of R209 for the clause at pc -/
  | head
  /-- within the clause at pc, about to issue the word at pos -/
  | body
  /-- at the boundary before the clause at pc (R211) -/
  | boundary
  deriving DecidableEq, Repr

/-- A gang (R205). -/
structure Gang where
  id : Nat
  squad : Nat
  lanes : Lanes
  pc : Word
  /-- position of the next word: 1 to 16 within the clause -/
  pos : Nat := 0
  phase : Phase := .head
  /-- the clause as fetched: its header and its words (R92) -/
  hdr : Word := 0
  words : List Word := []
  active : Bool := false
  entry : Nat := 0
  /-- since when it has been ready (R35) -/
  ready : Nat := 0
  /-- ageing steps taken since its last issue, and the cycle of the last (R32) -/
  boost : Nat := 0
  aged : Nat := 0
  wait : Wait := .none
  /-- cycle in which the present wait began -/
  since : Nat := 0
  handler : Bool := false
  trap : TrapCtx := {}
  /-- the clause held YIELD (R217) -/
  yielded : Bool := false
  /-- the next word issues without being matched by a comparator (R230) -/
  skipCmp : Bool := false
  /-- the release fence of the instruction about to issue is complete (R186, R193, R272) -/
  fenced : Bool := false
  /-- a resumption inside a clause: the header steps are not taken again (R230) -/
  resume : Nat := 0
  /-- the clause that it has ended has NOSW (R212) -/
  nosw : Bool := false
  /-- registers whose results have not arrived (R95): request or operation, vector or uniform, first number, count -/
  pend : List (Nat × Bool × Nat × Nat) := []
  /-- outstanding requests on which the gang blocks (R70) -/
  block : List Nat := []
  /-- results of walks that faulted, for the access about to issue (R62): page, and reason with level -/
  wfault : List (Word × Nat × Nat) := []
  /-- the issue port that its word has taken, while it stands there: stalled in place, or being performed (R179, R203, R210) -/
  port : Option Nat := none
  /-- CBSTATs that the buffer has not served (R402) -/
  stats : List Cbstat := []
  /-- clauses that the sequencer has of its present entry, for its loop buffer: clause, header and words; and the range of addresses from the
  loop head to the LOOP of the last LOOP taken (R218) -/
  trail : List (Word × Word × List Word) := []
  loop : Option (Nat × Nat) := none
  /-- run-ahead buffer (R117): position relative to the stall (clause, word), lane, address, bytes -/
  ra : List (Word × Nat × Nat × Word × List Byte) := []
  deriving DecidableEq, Repr

/-- A named barrier (R264). -/
structure Barrier where
  /-- none is ALL -/
  expect : Option Nat := none
  arrived : Nat := 0
  isOpen : Bool := false
  round : Nat := 0
  deriving DecidableEq, Repr

/-- A team (R17, R43). -/
structure Team where
  id : Nat
  launch : Word
  index : Word := 0
  group : Nat := 0
  /-- core of each virtual core -/
  cores : List Nat := []
  threads : Nat := 0
  nsquads : Nat := 0
  /-- rounded scratch bytes (R43) -/
  scratch : Nat := 0
  /-- first byte of the team's granules in each of its cores' vaults -/
  base : List Nat := []
  /-- granules written since the team became resident (R30) -/
  written : List Nat := []
  bars : List Barrier := []
  /-- pre-emption ordered by the command given, with HOLD (R421) -/
  preempt : Option (Nat × Bool) := none
  /-- its save was refused or abandoned, and reported; it may be tried again (R29) -/
  refused : Bool := false
  refusal : FaultRec := {}
  retry : Bool := false
  /-- wholly saved to the team frame at this address (R30) -/
  saved : Option Word := none
  holdRel : Bool := false
  retired : Bool := false
  deriving DecidableEq, Repr

/-! ### Memory requests -/

/-- What an outstanding request does at its home. -/
inductive ReqKind where
  /-- a load, sign-extended or not (R183) -/
  | load (sx : Bool)
  /-- an atomic of operation aop and type ty (R190) -/
  | atom (aop ty : Nat)
  /-- compare and swap (R193); facq: the failure ordering is acq (R83) -/
  | cas (facq : Bool)
  /-- the fetch of a read-only line that no register waits for (R198) -/
  | line
  deriving DecidableEq, Repr

/-- One lane's part of a request: its home address, its bytes, the first register of the destination that it fills, its operand
and compare value, and its result once the request is performed. -/
structure Piece where
  lane : Nat
  home : Nat
  n : Nat
  reg : Nat := 0
  b : Word := 0
  cmp : Word := 0
  val : Word := 0
  /-- bytes of the lane's stack up to the end of an atomic there, 0 elsewhere (R30) -/
  stk : Nat := 0
  /-- what the write of an atomic releases (R81) -/
  rel : List Release := []
  /-- posted writes and releases that its read returned (R79) -/
  seen : List Nat := []
  got : List Release := []
  deriving DecidableEq, Repr

/-- An outstanding load or atomic (R68, R70, R203). -/
structure Req where
  id : Nat
  kind : ReqKind
  gang : Nat
  squad : Nat
  launch : Word
  /-- core and partition of the issuing threads -/
  core : Nat
  part : Nat
  /-- the core whose slice controller serves it -/
  owner : Nat
  pieces : List Piece
  c : Common
  /-- registers of the destination -/
  width : Nat := 1
  uni : Bool := false
  /-- lanes that receive a uniform result in their latch, and those whose guard held -/
  active : Lanes := 0
  held : Lanes := 0
  /-- the lane's own slice, another slice, host memory -/
  remote : Bool := false
  host : Bool := false
  /-- line to be allocated in the read-only cache: address space, virtual address of the line, home of the line (R66) -/
  fill : Option (Nat × Nat × Nat) := none
  acquire : Bool := false
  scope : Nat := 0
  accepted : Bool := false
  /-- cycle of arrival in the slice queue -/
  arrived : Nat := 0
  /-- flags of an f32 atomic, per piece -/
  fls : List Flags := []
  deriving DecidableEq, Repr

/-- A posted write that is visible to its core and not yet at home (R74). -/
inductive Post where
  | store (bytes : List Byte)
  | red (aop ty : Nat) (b : Word)
  deriving DecidableEq, Repr

structure Ent where
  id : Nat
  /-- request of R203 that it is part of: the unit of the buffers' capacity -/
  grp : Nat
  core : Nat
  squad : Nat
  launch : Word
  /-- lane of the thread; 32 for a uniform store, 33 for an engine operation of the squad -/
  lane : Nat
  home : Nat
  /-- the operation whose write it is -/
  op : Option Nat := none
  post : Post
  /-- counted in rm until acknowledged (R70) -/
  rm : Bool := false
  host : Bool := false
  /-- performed at home, awaiting its acknowledgement -/
  athome : Bool := false
  /-- the lanes whose write it is -/
  who : Lanes := 0
  /-- what it carries, when it is a release (R79, R81) -/
  rel : List Release := []
  /-- cycle of its issue -/
  arrived : Nat := 0
  deriving DecidableEq, Repr

/-- One TLB entry (R62): the page's first address, its size, the address of its home, W, X and NOC. -/
structure TlbEntry where
  core : Nat
  /-- function and context: 65,536 × function + context -/
  asc : Nat
  va : Nat
  size : Nat
  pa : Nat
  /-- level of the leaf -/
  level : Nat := 3
  w : Bool
  x : Bool
  noc : Bool
  deriving DecidableEq, Repr

/-- A walk in progress or waiting (R62). -/
structure Walk where
  id : Nat
  core : Nat
  asc : Nat
  va : Word
  gang : Nat
  /-- the launch whose address space it walks, and the partition of its thread -/
  launch : Word := 0
  part : Nat := 0
  /-- the miss of a PREF, whose line is asked for when the walk ends (R198) -/
  pref : Bool := false
  /-- the engine operation or the stream whose access has missed -/
  op : Option Nat := none
  since : Nat := 0
  deriving DecidableEq, Repr

/-- A line of a core's read-only cache (R66). -/
structure RcLine where
  core : Nat
  pa : Nat
  asc : Nat
  va : Nat
  bytes : List Byte
  deriving DecidableEq, Repr

/-! ### Engines -/

/-- An operation that an engine has accepted and not retired (R16). -/
structure EngOp where
  id : Nat
  squad : Nat
  core : Nat
  part : Nat := 0
  cls : CounterClass
  i : Instr
  /-- the team of its squad -/
  team : Nat := 0
  /-- operand values at issue -/
  a : Word := 0
  b : Word := 0
  /-- descriptor copies (R303) -/
  td : List TileDesc := []
  launch : Word := 0
  lanes : Lanes := 0
  pc : Word := 0
  pos : Nat := 0
  /-- the gang whose latches an ACRD may write; 0 once they have been cleared -/
  gang : Nat := 0
  /-- accesses that it follows and that its engine does not see in the view of its core: requests, updates and posted writes (R294) -/
  after : List Nat := []
  /-- queued, in progress, complete -/
  started : Bool := false
  done : Bool := false
  /-- next row of a copy, its number of destination rows, and the bytes that it has written -/
  row : Nat := 0
  rows : Nat := 0
  bytes : Nat := 0
  /-- what the set-up of a copy read: its block, and its row addresses or output entries (R285) -/
  blk : List Byte := []
  idx : List Word := []
  /-- what the set-up translated: virtual page of 4 KiB and its home, for reads and for writes -/
  rd : List (Nat × Nat) := []
  wr : List (Nat × Nat) := []
  /-- translations that walks for its set-up have found, and faults that they have met: virtual page of 4 KiB, reason, level (R62) -/
  tr : List TlbEntry := []
  wfault : List (Word × Nat × Nat) := []
  /-- its set-up waits for such a walk, or for its turn at a slice -/
  setup : Bool := false
  fault : Option FaultRec := none
  flags : Flags := 0
  /-- held on PAGE_NOT_PRESENT (R296) -/
  held : Option FaultRec := none
  /-- it restarts after such a hold -/
  again : Bool := false
  /-- updates that it reports and that have not been performed (R437) -/
  upds : Nat := 0
  arrived : Nat := 0
  deriving DecidableEq, Repr

/-- A base-die stream (R291). -/
structure Stream where
  id : Nat
  core : Nat
  squad : Nat
  team : Nat
  launch : Word
  block : Word
  /-- the TSUB: its clause, position and lanes, for fault records (R295) -/
  pc : Word := 0
  pos : Nat := 0
  lanes : Lanes := 0
  held : Option FaultRec := none
  /-- translations and faults that walks for its next item have found (R62) -/
  tr : List TlbEntry := []
  wfault : List (Word × Nat × Nat) := []
  /-- its team was restored onto a core with four streams: it waits for one of them to end -/
  waiting : Bool := false
  deriving DecidableEq, Repr

/-- What an update of a sync or completion word does (R261, R272). -/
inductive UpdKind where
  | add (n : Nat)
  | init (target : BitVec 40) (oneshot rows : Bool)
  | arm (target : BitVec 40) (oneshot : Bool)
  /-- an arrival of rows, with their bytes (R293) -/
  | arrive (rows bytes : Nat)
  /-- RPUT: flip the phase of slot i mod NSLOT (R272) -/
  | flip (i : Nat)
  /-- the arming of TSPAWN (R364) -/
  | armTasks (nt : Nat)
  /-- bytes that a combine buffer writes into the scratchpad of a saved team (R404) -/
  | write (bs : List Byte)
  deriving DecidableEq, Repr

/-- An update on its way to its word (R261). -/
structure Upd where
  id : Nat
  kind : UpdKind
  /-- home address of the 16-byte word or of the control block -/
  home : Nat
  va : Word := 0
  asc : Nat := 0
  fn : Nat := 0
  team : Nat := 0
  core : Nat := 0
  /-- the squad and the lanes of the threads whose write it is; 0 for an engine's (R272) -/
  squad : Nat := 0
  lanes : Lanes := 0
  op : Option Nat := none
  /-- the launch whose completion it is -/
  launch : Word := 0
  held : Option FaultRec := none
  /-- a held update may be tried again (R437) -/
  retry : Bool := false
  arrived : Nat := 0
  deriving DecidableEq, Repr

/-- Barrier arrivals on their way (R264). -/
structure BarArr where
  id : Nat
  team : Nat
  b : Nat
  gang : Nat
  squad : Nat
  lanes : Lanes
  /-- count operand; 0 means ALL -/
  n : Nat
  waits : Bool
  core : Nat
  /-- the instruction's clause, position, header and word -/
  pc : Word
  pos : Nat
  hdr : Word
  word : Word
  deriving DecidableEq, Repr

/-! ### Migration -/

/-- A leaf (R235). -/
structure Leaf where
  kind : Nat := 1
  pin : Bool := false
  transit : Bool := false
  dcore : Nat := 0
  dchip : Nat := 0
  ff : Flags := 0
  pred : BitVec 8 := 0
  pc : Word := 0
  wid : Word := 0
  launch : Word := 0
  stamp : W32 := 0
  hops : W32 := 0
  v : List W32 := []
  /-- the model's own: the cumulative set of the thread, and its releases, as Lane.seen, Lane.got and Lane.carry -/
  seen : List Nat := []
  got : List Release := []
  carry : List Release := []
  /-- of a held lane: its own writes that are on their way, after which it accesses again (R77) -/
  own : List Nat := []
  deriving DecidableEq, Repr

/-- A leaf on the network, with the core that it is bound for. -/
structure Flight where
  id : Nat
  leaf : Leaf
  /-- the die that it comes from -/
  src : Nat := 0
  /-- a malformed leaf as it arrived (R236) -/
  bad : Bool := false
  deriving DecidableEq, Repr

/-- An entry of a spill ring; its leaf stands in the ring's memory (R241). -/
structure RingEnt where
  core : Nat
  slot : Nat
  leaf : Leaf
  /-- held with a fault record (R202, R245) -/
  frec : Option FaultRec := none
  deriving DecidableEq, Repr

/-- An open bin of a caddy (R247). -/
structure Bin where
  id : Nat
  core : Nat
  part : Nat
  launch : Word
  pc : Word
  opened : Nat
  /-- its threads in order of arrival, with the cycle in which each entered -/
  leaves : List Leaf
  entered : List Nat := []
  forced : Bool := false
  deriving DecidableEq, Repr

/-- A bundle built for another chip (R237). -/
structure OutBundle where
  id : Nat
  die : Nat
  chip : Nat
  first : Nat
  leaves : List Leaf
  sent : Bool := false
  deriving DecidableEq, Repr

/-! ### Combine and routing -/

/-- A shape entry of a routing engine (R371). -/
structure RouteShape where
  t : Nat
  e : Nat
  k : Nat
  tstride : Nat
  estride : Nat
  lcap : Nat
  deriving DecidableEq, Repr

/-- A combine slot (R389): admission time, ranks present, ranks being read, and the rows. -/
structure Slot where
  admitted : Nat
  bits : BitVec 8 := 0
  flight : BitVec 8 := 0
  rows : List (Nat × List Byte) := []
  deriving DecidableEq, Repr

/-- A token of an open context (R388). -/
structure Token where
  expect : BitVec 8
  released : Bool := false
  reported : Bool := false
  slot : Option Slot := none
  deriving DecidableEq, Repr

/-- A row in flight to its slot (R389): the CBPUT whose row it is, its core and where its bytes stand; or the bytes read back from the
ring. -/
structure RowFlight where
  id : Nat
  /-- key of the context -/
  ctx : Nat
  token : Nat
  rank : Nat
  op : Option Nat := none
  core : Nat := 384
  pieces : List (Nat × Nat) := []
  row : List Byte := []
  deriving DecidableEq, Repr

/-- A combine context of a die (R384, R387). -/
structure CbCtx where
  isOpen : Bool := false
  launch : Word := 0
  fn : Nat := 0
  asc : Nat := 0
  team : Nat := 0
  /-- address of its block -/
  block : Nat := 0
  out : Nat := 0
  fbk : Nat := 0
  ring : Nat := 0
  sync : Nat := 0
  mlog : Nat := 0
  llog : Nat := 0
  t : Nat := 0
  d : Nat := 0
  k : Nat := 0
  aty : Nat := 0
  oty : Nat := 0
  policy : Nat := 0
  order : Bool := false
  timeout : Nat := 0
  blockT : Nat := 0
  ostride : Nat := 0
  fstride : Nat := 0
  nslot : Nat := 0
  ringn : Nat := 0
  logn : Nat := 0
  /-- index and weight entries of the snapshot -/
  snapI : List (BitVec 16) := []
  snapW : List W32 := []
  toks : List Token := []
  /-- ring: token and rank of each entry, oldest first, and the place of the oldest -/
  rtags : List (Nat × Nat) := []
  rhead : Nat := 0
  /-- tokens released, those with a missing rank, and rows discarded (R402); COUNT of the late log (R396) -/
  done : Nat := 0
  miss : Nat := 0
  late : Nat := 0
  llogged : Nat := 0
  /-- region taken from the slot share, in bytes (R385) -/
  region : Nat := 0
  regionAt : Nat := 0
  /-- translations held from step 2 of the open (R388): virtual page of 4 KiB, home -/
  trans : List (Nat × Nat) := []
  /-- home of the completion sync word -/
  syncHome : Nat := 0
  /-- number that the context's writes and updates carry -/
  tag : Nat := 0
  /-- the launch that opened it has ended: since when (R398) -/
  closing : Option Nat := none
  deriving DecidableEq, Repr

/-! ### Cores, dies -/

/-- A breakpoint comparator (R228). -/
structure Comparator where
  bpa : Word := 0
  bpc : W32 := 0
  bpn : W32 := 0
  owner : Word := 0
  deriving DecidableEq, Repr

/-- The registers and small state of a core (R69, R228, R258, R275, R297, R335, R348, R369). -/
structure Core where
  sqacc : Nat := 0
  sqdly : Nat := 0
  sqhwm : Nat := 0
  sbdly : Nat := 0
  tlbmiss : Nat := 0
  wkdly : Nat := 0
  rcmiss : Nat := 0
  rmdly : Nat := 0
  cmp : List Comparator := []
  binwait : Nat := 32
  migout : Nat := 0
  migin : Nat := 0
  spilled : Nat := 0
  pooled : Nat := 0
  depdly : Nat := 0
  migdrop : Nat := 0
  bindly : Nat := 0
  syncops : Nat := 0
  swwdly : Nat := 0
  bardly : Nat := 0
  ringdly : Nat := 0
  cntdly : Nat := 0
  syncq : Nat := 0
  cpops : Nat := 0
  cpbytes : Nat := 0
  cpqdly : Nat := 0
  cpheld : Nat := 0
  rwops : Nat := 0
  rwbusy : Nat := 0
  rwqdly : Nat := 0
  sgops : Nat := 0
  sgbusy : Nat := 0
  sgqdly : Nat := 0
  lqdly : Nat := 0
  joindly : Nat := 0
  swapouts : Nat := 0
  /-- matrix engines 0 to 2 (R320): operations, busy cycles, queue delay -/
  mxops : List Nat := [0, 0, 0]
  mxbusy : List Nat := [0, 0, 0]
  mxqdly : List Nat := [0, 0, 0]
  /-- arrival counter of leaves (R243) -/
  stamp : W32 := 0
  /-- departure buffer and inbound queue (R240, R241) -/
  depart : List Leaf := []
  inbound : List Leaf := []
  /-- corrected-error count of its slice (R436) -/
  eccCount : Word := 0
  /-- spill-ring capacity in leaves (R241) and stack region in bytes (R55) -/
  ringCap : Nat := 0
  stackRegion : Nat := 0
  deriving DecidableEq, Repr

/-- The state of a partition (R179, R180, R203, R228). -/
structure Part where
  sfudly : Nat := 0
  sfuFree : Nat := 0
  memAt : Nat := 0
  /-- the gang whose store holds the memory port in place until a buffer has room (R203) -/
  memHold : Option Nat := none
  swapcnt : Nat := 0
  holdcy : Nat := 0
  /-- last issue, for the no-progress event (R47), and the gangs that have issued in that cycle, with their ports (R210) -/
  issued : Nat := 0
  ports : List (Nat × Nat) := []
  reported : Bool := false
  /-- the shadow context runs (R36) -/
  shadow : Bool := false
  swapAt : Nat := 0
  deriving DecidableEq, Repr

/-- The state of a die (R62, R242, R353, R369, R372, R382, R384, R407, R432, R433). -/
structure Die where
  /-- cycle of the part at which the die's clock started, none before (R433) -/
  clock0 : Option Nat := none
  shapes : List (Nat × RouteShape) := []
  rtops : Nat := 0
  rtbusy : Nat := 0
  rtqdly : Nat := 0
  /-- combine contexts by 8 × function + number -/
  ctxs : List (Nat × CbCtx) := []
  cbops : Nat := 0
  cbqdly : Nat := 0
  cbrel : Nat := 0
  rowsIn : List RowFlight := []
  /-- the CBPUT held at the head of the queue, and since when (R392) -/
  heldPut : Option (Nat × Nat) := none
  taccept : Nat := 0
  tlate : Nat := 0
  /-- since when the intake has waited for a table entry (R353) -/
  intakeSince : Option Nat := none
  intakeReported : Bool := false
  /-- issue cycles withheld, in thousandths, and the THROTTLE count of withheld cycles, in thousandths of a cycle (R432) -/
  throttle : Nat := 0
  throttled : Nat := 0
  /-- occupancies of each core of the pool as last refreshed (R242, R257): leaves in its ring and in its queue, thread slots in use,
  open bins -/
  pool : List (Nat × Nat) := []
  poolQ : List (Nat × Nat) := []
  poolS : List (Nat × Nat) := []
  poolB : List (Nat × Nat) := []
  /-- the cycles of the last refresh of the entries of the die's own cores, and of those of the other dies -/
  poolAt : Nat := 0
  poolWide : Nat := 0
  deriving DecidableEq, Repr

/-! ### Launches -/

/-- A launch record (R350). -/
structure LaunchRec where
  entry : Word := 0
  roam : Bool := false
  dsize : Bool := false
  dlv : Bool := false
  urgent : Bool := false
  prio : Nat := 0
  tthreads : Nat := 0
  widths : List Nat := []
  tlevel : Nat := 0
  fcount : Nat := 0
  extents : List Nat := []
  sizew : Word := 0
  vregs : Nat := 0
  sregs : Nat := 0
  accs : Nat := 0
  tiles : Nat := 0
  roles : Nat := 0
  scratch : Nat := 0
  rolemap : W32 := 0
  param : Word := 0
  donew : Word := 0
  trapv : Word := 0
  deadline : Word := 0
  budget : Nat := 0
  place : W32 := 0
  deriving DecidableEq, Repr

/-- How a launch stands. -/
inductive LaunchSt where
  /-- accepted, its teams being placed -/
  | placing
  /-- held on the read of its size word or parameter block (R438) -/
  | held (f : FaultRec)
  /-- a roaming launch awaiting admission (R249) -/
  | admitting
  /-- every team placed, or every thread created -/
  | running
  /-- ended with error status, completion pending (R357) -/
  | failed
  /-- complete; the table entry is free -/
  | complete (error : Bool)
  deriving DecidableEq, Repr

/-- An entry of a launch table (R353). -/
structure Launch where
  handle : Word
  die : Nat
  fn : Nat
  asc : Nat
  r : LaunchRec
  parent : Word := 0
  /-- the team of the issuing squad, whose window a device record's scratchpad addresses name (R351) -/
  pteam : Option Nat := none
  st : LaunchSt := .placing
  /-- next team index to place, and number of teams -/
  next : Nat := 0
  teams : Nat := 0
  /-- parameter block: s0 to s31 (R350) -/
  params : List W32 := []
  /-- s28 to s31 of a task (R364) -/
  task : Option (List W32) := none
  /-- live count of a roaming launch (R234) -/
  live : Nat := 0
  /-- home of the completion word, checked at acceptance (R437) -/
  donewHome : Option Nat := none
  /-- host command that submitted it -/
  cmd : Option Nat := none
  accepted : Nat := 0
  /-- clause of the submitting LAUNCH or TSPAWN, and address of its record or block, for reports (R368) -/
  pc : Word := 0
  addr : Word := 0
  /-- a roaming launch that has been admitted: its demand on the pool stands until it completes (R249) -/
  adm : Bool := false
  /-- no team of it is placed: a PREEMPT is in progress, or its teams are held (R421) -/
  stopped : Bool := false
  doneUpd : Bool := false
  deriving DecidableEq, Repr

/-- What the reads of a parameter block and a size word answered (R356, R438): a fault with the offset of the field whose read met
it, or the 32 words and the size. -/
structure LaunchReads where
  fault : Option FaultRec := none
  off : Nat := 0
  params : List W32 := []
  size : Nat := 0
  deriving DecidableEq, Repr

/-- A pending-launch entry (R353, R361). -/
structure PendLaunch where
  id : Nat
  core : Nat
  die : Nat
  /-- none for a host launch -/
  op : Option Nat
  fn : Nat
  asc : Nat
  addr : Word
  handle : Word
  parent : Word := 0
  team : Option Nat := none
  pc : Word := 0
  bytes : Option (List Byte) := none
  ready : Nat := 0
  held : Option FaultRec := none
  cmd : Option Nat := none
  /-- it occupies one of the four entries of its core's queue (R361) -/
  queued : Bool := false
  /-- the reads that the command processor made when a host launch's command started (R416) -/
  reads : Option LaunchReads := none
  /-- s28 to s31 of a task (R364) -/
  task : Option (List W32) := none
  /-- its parent ended with error status before it was accepted (R357) -/
  ended : Bool := false
  deriving DecidableEq, Repr

/-! ### Host -/

/-- An address-space context (R417). -/
structure Asc where
  id : Nat
  root : Nat := 0
  stack : Nat := 0
  chip : Nat := 0
  nchip : Nat := 0
  /-- IPv6 addresses of the chips (R417), 16 bytes each -/
  chips : List (List Byte) := []
  frameBase : Nat := 0
  frameLen : Nat := 0
  deriving DecidableEq, Repr

/-- A submission queue with its completion ring (R413). -/
structure Queue where
  q : Nat
  ring : Nat
  cring : Nat
  log : Nat
  head : Nat := 0
  tail : Nat := 0
  ctail : Nat := 0
  stopped : Bool := false
  deriving DecidableEq, Repr

/-- A node's resolution in a running graph (R418). -/
inductive NodeSt where
  | waiting | running | completed | skipped
  deriving DecidableEq, Repr

/-- A command that has started and not completed (R414). -/
structure Cmd where
  id : Nat
  fn : Nat
  q : Nat
  op : Nat
  tag : BitVec 16
  irq : Bool
  asc : Nat
  p : List Word
  head : Nat
  /-- node states and edge resolutions of a GRAPH (R418): per node, resolved predecessors, of which taken -/
  nodes : List (NodeSt × Nat × Nat) := []
  graph : List Byte := []
  failed : Option Nat := none
  /-- the handle of a LAUNCH, and the address that receives it -/
  handle : Word := 0
  /-- the graph command and node for which this command runs -/
  parent : Option (Nat × Nat) := none
  /-- items or teams counted for DETAIL -/
  count : Nat := 0
  /-- items a RESUME still waits for, teams a PREEMPT still waits for -/
  waits : List Nat := []
  since : Nat := 0
  status : Nat := 0
  deriving DecidableEq, Repr

/-- An event that has not been written to its ring (R422). -/
structure Event where
  fn : Nat
  kind : Nat
  die : Nat := 0
  core : Nat := 0xFFFF
  part : Nat := 0
  handle : Word := 0
  frame : Word := 0
  frec : FaultRec := {}
  /-- the no-progress header and gang records (R423), as bytes -/
  extra : List Byte := []
  deriving DecidableEq, Repr

/-- A function's registers, queues and configuration (R410, R411). -/
structure Fn where
  id : Nat
  aqbase : Word := 0
  acbase : Word := 0
  aqlog : BitVec 5 := 0
  evbase : Word := 0
  evlog : BitVec 5 := 0
  evhead : W32 := 0
  evtail : W32 := 0
  enable : Bool := false
  ready : Bool := false
  qerr : Bool := false
  queues : List Queue := []
  ascs : List Asc := []
  /-- CONFIG: groups owned, slot share in MiB, urgent launches permitted (R411, R416) -/
  groups : BitVec 16 := 0
  share : Nat := 0
  urgentOk : Bool := false
  enabled : Bool := false
  /-- POLICY (R422) -/
  policy : Bool := false
  deriving DecidableEq, Repr

/-- A context frame or team frame in a frame area (R29). -/
structure FrameAlloc where
  fn : Nat
  asc : Nat
  va : Word
  len : Nat
  launch : Word
  squad : Option Nat := none
  team : Option Nat := none
  deriving DecidableEq, Repr

/-! ### The module -/

/-- How far bring-up has come (R433). -/
structure Boot where
  powered : Bool := true
  /-- the last of steps 1 to 5 that has ended -/
  step : Nat := 0
  pcie : Bool := false
  ports : BitVec 8 := 0
  portsTrained : Bool := false
  /-- UCIe links 0-1, 0-2, 3-1, 3-2 that are up (R10, R429) -/
  ucie : BitVec 4 := 0
  /-- the flash image: absent, present with a bad signature, present and good -/
  flash : Nat := 2
  recovery : Bool := false
  cause : BitVec 7 := 0
  imgaddr : Word := 0
  imglen : W32 := 0
  loadDone : Bool := false
  loadFail : Bool := false
  deriving DecidableEq, Repr

/-- What the schedule, or the world outside, lets happen next. -/
inductive Agendum where
  /-- after dt cycles, the event i -/
  | event (dt : Nat) (i : Instr)
  /-- after dt cycles, the event i of gang g -/
  | gang (dt g : Nat) (i : Instr)
  /-- after dt cycles, the command i at the head of queue q of function fn -/
  | cmd (dt fn q : Nat) (i : Instr)
  /-- after dt cycles, gang g issues its next word -/
  | issue (dt g : Nat)
  deriving DecidableEq, Repr

/-- The whole machine. -/
structure State where
  mem : Memory
  boot : Boot
  /-- core cycles since part reset began (R3) -/
  now : Nat
  agenda : List Agendum
  /-- the gang whose instruction or event is being performed -/
  cur : Nat
  /-- the function and queue whose next entry the command processor starts -/
  cmdSel : Nat × Nat
  /-- counter of the model's free values -/
  free : Nat
  /-- counter of record numbers -/
  nextId : Nat
  /-- counter of launch handles (R361) -/
  nextHandle : Nat
  squads : List Squad
  gangs : List Gang
  teams : List Team
  launches : List Launch
  pendLaunch : List PendLaunch
  reqs : List Req
  ents : List Ent
  /-- release tags: a byte's address, and what a release of narrow scope that wrote it carries (R81) -/
  tags : List (Nat × Release)
  tlb : List TlbEntry
  walks : List Walk
  lines : List RcLine
  ops : List EngOp
  streams : List Stream
  upds : List Upd
  arrs : List BarArr
  flights : List Flight
  rings : List RingEnt
  bins : List Bin
  bundles : List OutBundle
  cores : List (Nat × Core)
  /-- by 12 × core + partition -/
  parts : List (Nat × Part)
  dies : List Die
  fns : List Fn
  cmds : List Cmd
  events : List Event
  /-- interrupts raised: function, and the queue whose vector it is; none for vector 0 of the events (R413, R422) -/
  irqs : List (Nat × Option Nat)
  frames : List FrameAlloc
  /-- memory words with a soft error: 8-byte home word, double-bit (R435) -/
  errs : List (Nat × Bool)
  deriving DecidableEq, Repr

/-- Part reset sets every core's BINWAIT to 32 (R258), its stack region to 256 MiB (R55) and every other field to 0. -/
def Core.reset : Core := { binwait := 32, stackRegion := 256 * 2 ^ 20, cmp := List.replicate 8 {} }

/-- A die after part reset: its clock stopped, no shape entry valid (R372), every combine context closed (R384). -/
def Die.reset : Die := {}

/-- Function 0 after part reset owns every core group (R411) and a slot share of 64 MiB (R385). -/
def Fn.reset0 : Fn := { id := 0, groups := 0xFFFF, share := 64, enabled := true }

/-- The machine right after reset: step 1 of R433 has begun, no clock runs, every memory byte reads 0, no launch exists. -/
def State.reset : State where
  mem := ⟨[]⟩
  boot := {}
  now := 0
  agenda := []
  cur := 0
  cmdSel := (0, 0)
  free := 0
  nextId := 1
  nextHandle := 1
  squads := []
  gangs := []
  teams := []
  launches := []
  pendLaunch := []
  reqs := []
  ents := []
  tags := []
  tlb := []
  walks := []
  lines := []
  ops := []
  streams := []
  upds := []
  arrs := []
  flights := []
  rings := []
  bins := []
  bundles := []
  cores := []
  parts := []
  dies := List.replicate 4 Die.reset
  fns := [Fn.reset0]
  cmds := []
  events := []
  irqs := []
  frames := []
  errs := []

end Sys2Proof.Machine
end

