-- ==== Sys2Proof/Machine/Bits.lean ====
section
/-!
DEFINITION. Bit fields, sign extension, byte order (R5), lane sets, home addresses (R14, R61), and the association lists in canonical form of which
memory and register files are made.
-/
namespace Sys2Proof.Machine

/-! ### Numbers -/

/-- Bits [hi:lo] of n. -/
def bitsOf (n hi lo : Nat) : Nat := n / 2 ^ lo % 2 ^ (hi + 1 - lo)

/-- Bit k of n. -/
def bitOf (n k : Nat) : Bool := n / 2 ^ k % 2 == 1

/-- The w low bits of n as a two's complement number. -/
def signedOf (w n : Nat) : Int :=
  if n % 2 ^ w < 2 ^ (w - 1) then (n % 2 ^ w : Nat) else (n % 2 ^ w : Nat) - (2 ^ w : Nat)

/-- The two's complement encoding of i in w bits. -/
def encodeInt (w : Nat) (i : Int) : Nat := (i % (2 ^ w : Nat)).toNat

/-- Sign extension of a 9-bit immediate to w bits (R104). -/
def immBits (w : Nat) (v : BitVec 9) : Nat := encodeInt w v.toInt

/-- n divided by k, rounded up. -/
def ceilDiv (n k : Nat) : Nat := (n + k - 1) / k

/-- n rounded up to a multiple of k. -/
def roundUp (n k : Nat) : Nat := ceilDiv n k * k

/-- The number of one bits among the w low bits of n. -/
def popCount (w n : Nat) : Nat := ((List.range w).filter (bitOf n ·)).length

def boolNat (b : Bool) : Nat := if b then 1 else 0

/-- floor of the binary logarithm; 0 for 0. -/
def floorLog2 (n : Nat) : Nat := n.log2

/-! ### Bytes -/

/-- The n little-endian bytes of v (R5). -/
def toBytes (n v : Nat) : List Byte := (List.range n).map fun k => BitVec.ofNat 8 (v / 256 ^ k)

/-- The little-endian value of bytes (R5). -/
def ofBytes (bs : List Byte) : Nat := bs.foldr (fun b acc => b.toNat + 256 * acc) 0

/-- Field of n bytes at an offset of a record of bytes. -/
def fieldAt (bs : List Byte) (off n : Nat) : Nat := ofBytes ((bs.drop off).take n)

/-! ### Sorting -/

/-- Puts an item before the first one that it may precede. -/
def insertBy {α : Type} (le : α → α → Bool) (x : α) (l : List α) : List α :=
  match l with
  | [] => [x]
  | y :: rest => if le x y then x :: y :: rest else y :: insertBy le x rest

/-- The list in an order; items that may precede each other stay in their order. -/
def sortBy {α : Type} (le : α → α → Bool) (l : List α) : List α := l.foldr (insertBy le) []

/-! ### Lane sets -/

/-- The lanes of a set, in ascending order. -/
def lanesOf (m : Lanes) : List Nat := (List.range 32).filter fun l => m.getLsbD l

/-- The set of the lanes of a list. -/
def lanesMask (ls : List Nat) : Lanes := ls.foldr (fun l m => m ||| (1 <<< l : Lanes)) 0

/-- The lanes of m for which f holds. -/
def lanesWhere (m : Lanes) (f : Nat → Bool) : Lanes := lanesMask ((lanesOf m).filter f)

/-! ### Association lists in canonical form -/

/-- The value of key n: unlisted keys hold d. -/
def Assoc.get {α : Type} (d : α) (l : List (Nat × α)) (n : Nat) : α :=
  match l with
  | [] => d
  | (m, v) :: rest => if m = n then v else Assoc.get d rest n

/-- Puts a pair in its place by key. -/
def Assoc.place {α : Type} (l : List (Nat × α)) (n : Nat) (v : α) : List (Nat × α) :=
  match l with
  | [] => [(n, v)]
  | (m, w) :: rest => if n ≤ m then (n, v) :: (m, w) :: rest else (m, w) :: Assoc.place rest n v

/-- The list without key n. -/
def Assoc.erase {α : Type} (l : List (Nat × α)) (n : Nat) : List (Nat × α) :=
  match l with
  | [] => []
  | (m, w) :: rest => if m = n then Assoc.erase rest n else (m, w) :: Assoc.erase rest n

/-- Gives key n the value v; the default value is not listed. -/
def Assoc.set {α : Type} [DecidableEq α] (d : α) (l : List (Nat × α)) (n : Nat) (v : α) : List (Nat × α) :=
  if v = d then Assoc.erase l n else Assoc.place (Assoc.erase l n) n v

/-- Keys strictly rising from lo, no value equal to the default. -/
def Assoc.wf {α : Type} [DecidableEq α] (d : α) (lo : Nat) (l : List (Nat × α)) : Bool :=
  match l with
  | [] => true
  | (m, v) :: rest => decide (lo ≤ m) && decide (v ≠ d) && Assoc.wf d (m + 1) rest

/-! ### Memory -/

/-- The byte at a home address. -/
def Memory.read (m : Memory) (a : Nat) : Byte := Assoc.get Memory.dflt m.cells a

/-- Stores a byte at a home address. -/
def Memory.write (m : Memory) (a : Nat) (b : Byte) : Memory := ⟨Assoc.set Memory.dflt m.cells a b⟩

/-- n bytes from a home address. -/
def Memory.readBytes (m : Memory) (a n : Nat) : List Byte := (List.range n).map fun k => m.read (a + k)

/-- The little-endian value of n bytes at a home address. -/
def Memory.readN (m : Memory) (a n : Nat) : Nat := ofBytes (m.readBytes a n)

/-- Stores bytes from a home address upward. -/
def Memory.writeBytes (m : Memory) (a : Nat) (bs : List Byte) : Memory :=
  match bs with
  | [] => m
  | b :: rest => (m.write a b).writeBytes (a + 1) rest

/-- Stores the n low bytes of v at a home address. -/
def Memory.writeN (m : Memory) (a n v : Nat) : Memory := m.writeBytes a (toBytes n v)

/-! ### Register files -/

def regGet (f : RegFile) (n : Nat) : W32 := Assoc.get 0 f n
def regSet (f : RegFile) (n : Nat) (v : W32) : RegFile := Assoc.set 0 f n v

/-- The 64-bit value of the pair n:n+1, low half in n (R101). -/
def regPair (f : RegFile) (n : Nat) : Word := (regGet f (n + 1)) ++ (regGet f n)

/-- Writes w successive registers from the low words of v. -/
def regSetN (f : RegFile) (n w v : Nat) : RegFile :=
  match w with
  | 0 => f
  | w + 1 => regSetN (regSet f n (BitVec.ofNat 32 v)) (n + 1) w (v / 2 ^ 32)

/-- The value of w successive registers, the first lowest. -/
def regGetN (f : RegFile) (n w : Nat) : Nat :=
  match w with
  | 0 => 0
  | w + 1 => (regGet f n).toNat + 2 ^ 32 * regGetN f (n + 1) w

/-! ### MIX64 -/

/-- R8. -/
def mix64 (x : Word) : Word :=
  let x := x ^^^ (x >>> 29)
  let x := x * 0xA3B195E15C6D2F47#64
  let x := x ^^^ (x >>> 32)
  let x := x * 0xD1C53A976E248B5D#64
  x ^^^ (x >>> 29)

/-! ### Home addresses (R14, R61) -/

/-- Byte off of the slice of a core of this chip. -/
def sliceHome (core off : Nat) : Nat := core * 2 ^ 31 + off
/-- Byte off of the slice of a core of another chip, chip counted from this one. -/
def chipHome (chip core off : Nat) : Nat := chip % 1024 * 2 ^ 41 + core * 2 ^ 31 + off
/-- A byte of host memory. -/
def hostHome (a : Nat) : Nat := 2 ^ 51 + a % 2 ^ 51
/-- Byte off of the vault above a core (R14). -/
def vaultHome (core off : Nat) : Nat := 2 ^ 52 + core * 2 ^ 23 + off

def homeIsVault (h : Nat) : Bool := decide (2 ^ 52 ≤ h)
def homeIsHost (h : Nat) : Bool := !homeIsVault h && bitOf h 51
/-- The core whose slice or vault a home address of this chip lies in. -/
def homeCore (h : Nat) : Nat := if homeIsVault h then (h - 2 ^ 52) / 2 ^ 23 else h / 2 ^ 31 % 1024
/-- The chip of a home address, counted from this one. -/
def homeChip (h : Nat) : Nat := if homeIsVault h then 0 else h / 2 ^ 41 % 1024
def homeOffset (h : Nat) : Nat := if homeIsVault h then h % 2 ^ 23 else h % 2 ^ 31

end Sys2Proof.Machine
end

