-- ==== Sys2Proof/Machine/Float.lean ====
section
/-!
DEFINITION. Floating-point numbers: the formats of R123, exact dyadic values, Round of R7 with the flags of R126 and R127,
and the arithmetic that the lane, matrix, row, signature, routing and combine units share.
-/
namespace Sys2Proof.Machine

/-! ### Formats and flags -/

/-- The floating-point formats of R123. -/
inductive Fmt where
  | f32 | f16 | bf16 | e4m3 | e5m2
  deriving DecidableEq, Repr

/-- Rounding modes of R125. -/
inductive RMode where
  | rn | rz | rd | ru
  deriving DecidableEq, Repr

/-- The rounding field (R125); the other codes do not decode. -/
def rmodeOf (b : BitVec 3) : RMode :=
  if b = 1 then .rz else if b = 2 then .rd else if b = 3 then .ru else .rn

/-- Exponent bits, fraction bits, bias, width. -/
def expBits (f : Fmt) : Nat :=
  match f with
  | .f32 | .bf16 => 8
  | .f16 | .e5m2 => 5
  | .e4m3 => 4
def fracBits (f : Fmt) : Nat :=
  match f with
  | .f32 => 23
  | .f16 => 10
  | .bf16 => 7
  | .e4m3 => 3
  | .e5m2 => 2
def biasOf (f : Fmt) : Nat := 2 ^ (expBits f - 1) - 1
def widthOf (f : Fmt) : Nat := 1 + expBits f + fracBits f
/-- The least normal exponent. -/
def eminOf (f : Fmt) : Int := 1 - (biasOf f : Int)

/-- The canonical NaN (R124). -/
def canonNaN (f : Fmt) : Nat :=
  match f with
  | .f32 => 0x7FC00000
  | .f16 => 0x7E00
  | .bf16 => 0x7FC0
  | .e4m3 => 0x7F
  | .e5m2 => 0x7E

/-- The largest finite value of positive sign, as bits (R123). -/
def maxFinite (f : Fmt) : Nat :=
  match f with
  | .f32 => 0x7F7FFFFF
  | .f16 => 0x7BFF
  | .bf16 => 0x7F7F
  | .e4m3 => 0x7E
  | .e5m2 => 0x7B

/-- Positive infinity; E4M3 has none. -/
def infBits (f : Fmt) : Nat := (2 ^ expBits f - 1) * 2 ^ fracBits f

def signBit (f : Fmt) : Nat := 2 ^ (expBits f + fracBits f)

/-- Bits with a sign put on. -/
def withSign (f : Fmt) (neg : Bool) (b : Nat) : Nat := if neg then b + signBit f else b

def flNX : Flags := 1
def flUF : Flags := 2
def flOF : Flags := 4
def flDZ : Flags := 8
def flNV : Flags := 16

/-! ### Values -/

/-- A floating-point datum: a NaN, signalling or not, an infinity, or sign × m × 2^e. -/
inductive FV where
  | nan (signalling : Bool)
  | inf (neg : Bool)
  | fin (neg : Bool) (m : Nat) (e : Int)
  deriving DecidableEq, Repr

/-- The value of a bit pattern (R123). -/
def fvOf (f : Fmt) (b : Nat) : FV :=
  let fb := fracBits f
  let frac := b % 2 ^ fb
  let ex := b / 2 ^ fb % 2 ^ expBits f
  let neg := bitOf b (expBits f + fb)
  if f = .e4m3 then
    if ex = 15 ∧ frac = 7 then .nan false
    else if ex = 0 then .fin neg frac (eminOf f - fb)
    else .fin neg (frac + 2 ^ fb) ((ex : Int) - biasOf f - fb)
  else if ex = 2 ^ expBits f - 1 then
    if frac = 0 then .inf neg else .nan (frac < 2 ^ (fb - 1))
  else if ex = 0 then .fin neg frac (eminOf f - fb)
  else .fin neg (frac + 2 ^ fb) ((ex : Int) - biasOf f - fb)

/-- The value of an integer. -/
def fvOfInt (i : Int) : FV := .fin (decide (i < 0)) i.natAbs 0

def FV.isNaN (v : FV) : Bool := match v with | .nan _ => true | _ => false
def FV.isSNaN (v : FV) : Bool := match v with | .nan s => s | _ => false
def FV.isZero (v : FV) : Bool := match v with | .fin _ m _ => m == 0 | _ => false
def FV.isInf (v : FV) : Bool := match v with | .inf _ => true | _ => false
def FV.neg? (v : FV) : Bool := match v with | .nan _ => false | .inf n => n | .fin n _ _ => n
def FV.negate (v : FV) : FV :=
  match v with
  | .nan s => .nan s
  | .inf n => .inf (!n)
  | .fin n m e => .fin (!n) m e
def FV.abs (v : FV) : FV :=
  match v with
  | .nan s => .nan s
  | .inf _ => .inf false
  | .fin _ m e => .fin false m e

/-- m × 2^e as an integer at the scale 2^low, for low ≤ e. -/
def scaled (neg : Bool) (m : Nat) (e low : Int) : Int :=
  if neg then -((m * 2 ^ (e - low).toNat : Nat) : Int) else ((m * 2 ^ (e - low).toNat : Nat) : Int)

/-! ### Rounding -/

/-- n, the floor of a magnitude, with the remainder r of d: whether the mode rounds it up. -/
def roundsUp (mode : RMode) (neg : Bool) (n r d : Nat) : Bool :=
  match mode with
  | .rn => decide (d < 2 * r) || (2 * r == d && n % 2 == 1)
  | .rz => false
  | .rd => neg && r != 0
  | .ru => !neg && r != 0

/-- m × 2^e rounded to a multiple of 2^q: the multiple and whether it is inexact. -/
def roundTo (mode : RMode) (neg : Bool) (m : Nat) (e q : Int) : Nat × Bool :=
  if q ≤ e then (m * 2 ^ (e - q).toNat, false)
  else
    let d := 2 ^ (q - e).toNat
    let n := m / d
    let r := m % d
    (if roundsUp mode neg n r d then n + 1 else n, r != 0)

/-- What Round gives when the rounded magnitude is beyond the largest finite value (R7). -/
def overflowResult (f : Fmt) (mode : RMode) (neg : Bool) : Nat × Flags :=
  let away := match mode with | .rn => true | .rz => false | .rd => neg | .ru => !neg
  if f = .e4m3 then
    if away then (0x7F, flOF ||| flNV) else (withSign f neg 0x7E, flOF ||| flNX)
  else if away then (withSign f neg (infBits f), flOF ||| flNX)
  else (withSign f neg (maxFinite f), flOF ||| flNX)

/-- Round of R7 for a finite value m × 2^e, tininess after rounding (R127). -/
def roundFin (f : Fmt) (mode : RMode) (neg : Bool) (m : Nat) (e : Int) : Nat × Flags :=
  if m = 0 then (withSign f neg 0, 0)
  else
    let top : Int := (floorLog2 m : Int) + e
    let p : Int := fracBits f
    let ex := max top (eminOf f)
    let (n, inexact) := roundTo mode neg m e (ex - p)
    let code : Int := (ex + biasOf f - 1) * (2 ^ fracBits f : Nat) + n
    let tiny := decide (top < eminOf f) && decide ((roundTo mode neg m e (top - p)).1 < 2 ^ (fracBits f + 1) ∨
      top + 1 < eminOf f)
    if code > (maxFinite f : Int) then overflowResult f mode neg
    else (withSign f neg code.toNat,
      (if inexact then flNX else 0) ||| (if inexact && tiny then flUF else 0))

/-- Round of R7. -/
def roundFV (f : Fmt) (mode : RMode) (v : FV) : Nat × Flags :=
  match v with
  | .nan _ => (canonNaN f, 0)
  | .inf n => if f = .e4m3 then (0x7F, flNV) else (withSign f n (infBits f), 0)
  | .fin n m e => roundFin f mode n m e

/-! ### Arithmetic -/

/-- Invalid for a signalling operand. -/
def snanFlag (v : FV) : Flags := if v.isSNaN then flNV else 0

/-- The exact sum of finite values; an exact zero has the sign of both, or + (− under RD) (R145). -/
def addFin (mode : RMode) (n1 : Bool) (m1 : Nat) (e1 : Int) (n2 : Bool) (m2 : Nat) (e2 : Int) : FV :=
  let low := min e1 e2
  let t := scaled n1 m1 e1 low + scaled n2 m2 e2 low
  if t = 0 then
    if n1 = n2 then .fin n1 0 0 else .fin (mode == .rd) 0 0
  else .fin (decide (t < 0)) t.natAbs low

/-- The exact sum, with its flags. -/
def fvAdd (mode : RMode) (a b : FV) : FV × Flags :=
  let fl := snanFlag a ||| snanFlag b
  match a, b with
  | .nan _, _ => (.nan false, fl)
  | _, .nan _ => (.nan false, fl)
  | .inf n, .inf k => if n = k then (.inf n, fl) else (.nan false, fl ||| flNV)
  | .inf n, _ => (.inf n, fl)
  | _, .inf k => (.inf k, fl)
  | .fin n m e, .fin k l d => (addFin mode n m e k l d, fl)

/-- The exact product, with its flags. -/
def fvMul (a b : FV) : FV × Flags :=
  let fl := snanFlag a ||| snanFlag b
  match a, b with
  | .nan _, _ => (.nan false, fl)
  | _, .nan _ => (.nan false, fl)
  | .inf n, .inf k => (.inf (n != k), fl)
  | .inf n, .fin k l _ => if l = 0 then (.nan false, fl ||| flNV) else (.inf (n != k), fl)
  | .fin n m _, .inf k => if m = 0 then (.nan false, fl ||| flNV) else (.inf (n != k), fl)
  | .fin n m e, .fin k l d => (.fin (n != k) (m * l) (e + d), fl)

/-- The exact fused multiply-add (R146): 0 × ∞ raises invalid whatever the addend. -/
def fvFma (mode : RMode) (a b c : FV) : FV × Flags :=
  let (p, f1) := fvMul a b
  let (r, f2) := fvAdd mode p c
  (r, f1 ||| f2)

/-- Rounds an exact result, joining the flags. -/
def finish (f : Fmt) (mode : RMode) (r : FV × Flags) : Nat × Flags :=
  let (b, fl) := roundFV f mode r.1
  (b, fl ||| r.2)

def fAdd (f : Fmt) (mode : RMode) (a b : Nat) : Nat × Flags := finish f mode (fvAdd mode (fvOf f a) (fvOf f b))
def fMul (f : Fmt) (mode : RMode) (a b : Nat) : Nat × Flags := finish f mode (fvMul (fvOf f a) (fvOf f b))
def fFma (f : Fmt) (mode : RMode) (a b c : Nat) : Nat × Flags :=
  finish f mode (fvFma mode (fvOf f a) (fvOf f b) (fvOf f c))

/-- A comparison of values that are no NaN; −0 equals +0. -/
def fvLt (a b : FV) : Bool :=
  match a, b with
  | .nan _, _ => false
  | _, .nan _ => false
  | .inf n, .inf k => n && !k
  | .inf n, _ => n
  | _, .inf k => !k
  | .fin n m e, .fin k l d => let low := min e d; decide (scaled n m e low < scaled k l d low)

def fvEq (a b : FV) : Bool := !a.isNaN && !b.isNaN && !fvLt a b && !fvLt b a

/-- a is below b in the order of minimumNumber: −0 stands below +0 (R147). -/
def fvBelow (a b : FV) : Bool := fvLt a b || (a.isZero && b.isZero && a.neg? && !b.neg?)

/-- minimumNumber or maximumNumber (R147): the operand is returned unchanged. -/
def fMinMax (f : Fmt) (wantMax : Bool) (a b : Nat) : Nat × Flags :=
  let x := fvOf f a
  let y := fvOf f b
  let fl := snanFlag x ||| snanFlag y
  if x.isNaN && y.isNaN then (canonNaN f, fl)
  else if x.isNaN then (b, fl)
  else if y.isNaN then (a, fl)
  else if wantMax then (if fvBelow x y then b else a, fl)
  else (if fvBelow y x then b else a, fl)

/-- Negation of the sign bit of an operand, exact (R145). -/
def fNeg (f : Fmt) (a : Nat) : Nat := if bitOf a (expBits f + fracBits f) then a - signBit f else a + signBit f

/-- The value of a rounded to an integer under a mode, with whether it was exact. -/
def roundInt (mode : RMode) (neg : Bool) (m : Nat) (e : Int) : Int × Bool :=
  let (n, inexact) := roundTo mode neg m e 0
  (if neg then -(n : Int) else n, inexact)

/-- Conversion between formats, or a clamped narrowing, of a value (R153). -/
def fConvert (src dst : Fmt) (mode : RMode) (a : Nat) : Nat × Flags :=
  let v := fvOf src a
  let (b, fl) := roundFV dst mode v
  (b, fl ||| snanFlag v)

/-- FP32 shorthand (R7): RNE32 of a sum, a product, a fused multiply-add. -/
def add32 (a b : W32) : W32 × Flags :=
  let (r, fl) := fAdd .f32 .rn a.toNat b.toNat
  (BitVec.ofNat 32 r, fl)
def mul32 (a b : W32) : W32 × Flags :=
  let (r, fl) := fMul .f32 .rn a.toNat b.toNat
  (BitVec.ofNat 32 r, fl)
def fma32 (a b c : W32) : W32 × Flags :=
  let (r, fl) := fFma .f32 .rn a.toNat b.toNat c.toNat
  (BitVec.ofNat 32 r, fl)

/-- An exact quotient of naturals rounded to FP32: enough quotient bits, and a sticky bit below them. -/
def divFin (f : Fmt) (mode : RMode) (neg : Bool) (m : Nat) (e : Int) (l : Nat) (d : Int) : Nat × Flags :=
  if l = 0 ∨ m = 0 then (withSign f neg 0, 0)
  else
    let sh := 512 + l.log2
    let q := m * 2 ^ sh / l
    let r := m * 2 ^ sh % l
    roundFin f mode neg (2 * q + boolNat (r != 0)) (e - d - sh - 1)

/-- IEEE division of values rounded to FP32, with R173's special values and flags. -/
def div32 (a b : W32) : W32 × Flags :=
  let x := fvOf .f32 a.toNat
  let y := fvOf .f32 b.toNat
  let fl := snanFlag x ||| snanFlag y
  let out (r : Nat × Flags) : W32 × Flags := (BitVec.ofNat 32 r.1, r.2 ||| fl)
  match x, y with
  | .nan _, _ => out (canonNaN .f32, 0)
  | _, .nan _ => out (canonNaN .f32, 0)
  | .inf _, .inf _ => out (canonNaN .f32, flNV)
  | .inf n, .fin k _ _ => out (withSign .f32 (n != k) (infBits .f32), 0)
  | .fin n _ _, .inf k => out (withSign .f32 (n != k) 0, 0)
  | .fin n m e, .fin k l d =>
    if l = 0 then
      if m = 0 then out (canonNaN .f32, flNV) else out (withSign .f32 (n != k) (infBits .f32), flDZ)
    else out (divFin .f32 .rn (n != k) m e l d)

end Sys2Proof.Machine
end

