-- ==== Sys2Proof/Machine/Ops.lean ====
section
/-!
DEFINITION. The named operations over the state that every meaning uses: the flat tables, the registers and latches of a gang,
guards (R100), taking a trap (R111 to R115) and the return from one (R116), fatal faults (R112), parking (R39), the split of a
gang (R207), and moving past an instruction.
-/
namespace Sys2Proof.Machine

/-! ### Outcomes and free values -/

/-- The outcome of every step of exec. -/
abbrev Result := Host.Outcome State Fault Refusal

/-- Takes the next free value. -/
def State.draw (s : State) : Word × State := (Config.freeWord s.free, { s with free := s.free + 1 })

/-- Takes a number for a new record. -/
def State.fresh (s : State) : Nat × State := (s.nextId, { s with nextId := s.nextId + 1 })

/-! ### Tables -/

def State.gang? (s : State) (g : Nat) : Option Gang := s.gangs.find? (fun x => x.id == g)
def State.squad? (s : State) (q : Nat) : Option Squad := s.squads.find? (fun x => x.id == q)
def State.team? (s : State) (t : Nat) : Option Team := s.teams.find? (fun x => x.id == t)
def State.launch? (s : State) (h : Word) : Option Launch := s.launches.find? (fun x => x.handle == h)
def State.fn? (s : State) (f : Nat) : Option Fn := s.fns.find? (fun x => x.id == f)
def State.asc? (s : State) (f a : Nat) : Option Asc := (s.fn? f).bind fun x => x.ascs.find? (fun y => y.id == a)

def State.modGang (s : State) (g : Nat) (f : Gang → Gang) : State :=
  { s with gangs := s.gangs.map fun x => if x.id = g then f x else x }
def State.modSquad (s : State) (q : Nat) (f : Squad → Squad) : State :=
  { s with squads := s.squads.map fun x => if x.id = q then f x else x }
def State.modTeam (s : State) (t : Nat) (f : Team → Team) : State :=
  { s with teams := s.teams.map fun x => if x.id = t then f x else x }
def State.modLaunch (s : State) (h : Word) (f : Launch → Launch) : State :=
  { s with launches := s.launches.map fun x => if x.handle = h then f x else x }
def State.modFn (s : State) (n : Nat) (f : Fn → Fn) : State :=
  { s with fns := s.fns.map fun x => if x.id = n then f x else x }
def State.modOp (s : State) (o : Nat) (f : EngOp → EngOp) : State :=
  { s with ops := s.ops.map fun x => if x.id = o then f x else x }

def State.core (s : State) (c : Nat) : Core := Assoc.get Core.reset s.cores c
def State.modCore (s : State) (c : Nat) (f : Core → Core) : State :=
  { s with cores := Assoc.set Core.reset s.cores c (f (s.core c)) }
def State.part (s : State) (c p : Nat) : Part := Assoc.get {} s.parts (12 * c + p)
def State.modPart (s : State) (c p : Nat) (f : Part → Part) : State :=
  { s with parts := Assoc.set {} s.parts (12 * c + p) (f (s.part c p)) }
def State.die (s : State) (d : Nat) : Die := s.dies.getD d Die.reset
def State.modDie (s : State) (d : Nat) (f : Die → Die) : State :=
  { s with dies := s.dies.mapIdx fun k x => if k = d then f x else x }

/-- The die of a core, and its mesh position (R11). -/
def dieOf (core : Nat) : Nat := core / 96
def posOf (core : Nat) : Nat := core % 96
/-- The core group of a core (R12). -/
def groupOf (core : Nat) : Nat :=
  dieOf core * 4 + 2 * (posOf core / 12 / 4) + posOf core % 12 / 6
/-- Hops between two cores, as if they stood on one die (R11, R72). -/
def hops (a b : Nat) : Nat :=
  let ya := posOf a / 12; let yb := posOf b / 12; let xa := posOf a % 12; let xb := posOf b % 12
  (ya - yb) + (yb - ya) + (xa - xb) + (xb - xa)

/-- The gang whose instruction or event this is, with its squad. -/
def State.here? (s : State) : Option (Gang × Squad) :=
  match s.gang? s.cur with
  | none => none
  | some g =>
    match s.squad? g.squad with
    | none => none
    | some q => some (g, q)

/-- The meaning of an instruction of a gang: without a gang nothing issues. -/
def onGang (s : State) (k : Gang → Squad → State) : Result :=
  match s.here? with
  | some (g, q) => .next (k g q)
  | none => .next s

/-! ### Lanes and registers -/

def Squad.lane (q : Squad) (l : Nat) : Lane := q.lanes.getD l {}

def Squad.modLane (q : Squad) (l : Nat) (f : Lane → Lane) : Squad :=
  { q with lanes := q.lanes.mapIdx fun k x => if k = l then f x else x }

/-- Changes every lane of a set. -/
def Squad.modLanes (q : Squad) (m : Lanes) (f : Nat → Lane → Lane) : Squad :=
  { q with lanes := q.lanes.mapIdx fun k x => if k < 32 ∧ m.getLsbD k = true then f k x else x }

/-- The uniform registers as the issuing gang reads them: some that another gang has lately written at their old value (R170). -/
def Squad.ufile (q : Squad) : RegFile := q.us.view.foldl (fun u x => regSet u x.1 x.2) q.u

/-- A uniform register; a roaming thread's s0 to s31 are the launch's parameter block, placed there at its arrival (R19). -/
def Squad.uni (q : Squad) (n : Nat) : W32 := regGet q.ufile n

/-- A gang writes k uniform registers from n: its squad's other gangs may read the old values for a while, it itself reads its own (R170). -/
def Squad.setUni (q : Squad) (n k v : Nat) : Squad :=
  let others := q.us.gangs
  { q with
    u := regSetN q.u n k v
    us := if others.isEmpty && q.us.recent.isEmpty then q.us
          else { q.us with recent := (q.us.recent.map fun x =>
              if n ≤ x.n ∧ x.n < n + k then { x with gangs := x.gangs.filter others.contains } else x) ++ (List.range k).map fun i =>
            { n := n + i, old := regGet q.u (n + i), till := q.us.till, gangs := q.us.gangs } } }

/-- A result of gang g that began `since` lands now: the other gangs of its squad may read what it overwrites until it has stood as long as it has
taken (R170). -/
def State.landing (s : State) (squad g since : Nat) : State :=
  let others := (s.gangs.filter fun x => x.squad == squad && x.id != g).map (·.id)
  s.modSquad squad fun q =>
    if others.isEmpty && q.us == {} then q
    else { q with us := { recent := q.us.recent.filter fun x => decide (s.now < x.till), till := s.now + (s.now - since), gangs := others } }

/-- A gang has come through a rejoin, a named barrier or a sync object: it reads the uniform registers as they stand (R170, R223). -/
def State.settled (s : State) (g : Gang) : State :=
  s.modSquad g.squad fun q =>
    { q with us := { q.us with recent := q.us.recent.map fun x => { x with gangs := x.gangs.filter fun i => i != g.id } } }

/-- The latch of a lane (R102): zero when not written in the clause (R25). -/
def Lane.latch (x : Lane) (n : Nat) : Word := Assoc.get 0 x.lat n
def Lane.setLatch (x : Lane) (n : Nat) (v : Word) : Lane := { x with lat := Assoc.set 0 x.lat n v }
def Lane.pred (x : Lane) (n : Nat) : Bool := x.p.getLsbD n
def Lane.setPred (x : Lane) (n : Nat) (v : Bool) : Lane :=
  { x with p := (x.p &&& ~~~(BitVec.ofNat 24 (2 ^ n))) ||| (if v then BitVec.ofNat 24 (2 ^ n) else 0) }

/-- Whether the guard of an instruction holds in a lane (R100). -/
def guardHolds (c : Common) (x : Lane) : Bool := c.gp == 31 || (x.pred c.gp.toNat != c.gn)

/-- The active lanes of the gang in which the guard holds. -/
def heldLanes (c : Common) (g : Gang) (q : Squad) : Lanes := lanesWhere g.lanes fun l => guardHolds c (q.lane l)

/-- The lanes that exist: present or exited or parked or waiting. -/
def Squad.existing (q : Squad) : Lanes := lanesMask ((List.range 32).filter fun l => (q.lane l).st != .absent)
def Squad.liveLanes (q : Squad) : Lanes :=
  lanesMask ((List.range 32).filter fun l => (q.lane l).st != .absent && (q.lane l).st != .exited)

/-! ### Clauses -/

def Gang.header (g : Gang) : Header := Header.ofWord g.hdr
/-- The clause that follows in memory (R92). -/
def Gang.nextClause (g : Gang) : Word := g.pc + 8#64 * BitVec.ofNat 64 (g.header.cnt.toNat + 2)
/-- The word about to issue, or the header at position 0. -/
def Gang.word (g : Gang) : Word := if g.pos = 0 then g.hdr else g.words.getD (g.pos - 1) 0
def Gang.atLast (g : Gang) : Bool := g.pos == g.header.len

/-- Clears the latches of a gang (R25). A load or an ACRD that has not returned
writes no latch of the clause that follows. -/
def State.clearLatches (s : State) (g : Gang) : State :=
  let s := s.modSquad g.squad fun q => q.modLanes g.lanes fun _ x => { x with lat := [] }
  { s with
    reqs := s.reqs.map fun (r : Req) => if r.gang = g.id then { r with c := { r.c with le := false } } else r
    ops := s.ops.map fun (o : EngOp) => if o.gang = g.id then { o with gang := 0 } else o }

/-- A gang at the boundary before the clause at pc (R211). Data that ran ahead in a clause that it does not come to is discarded. -/
def Gang.toBoundary (g : Gang) (pc : Word) : Gang :=
  { g with pc := pc, pos := 0, phase := .boundary, words := [], resume := 0, fenced := false, wfault := [], wait := .none, skipCmp := false, port := none,
           nosw := g.header.nosw, ra := if pc = g.nextClause then g.ra else [] }

/-- The gang moves past its word: to the next one of the clause, or through the clause's end (R95, R96). Data that ran ahead for the word
and that no lane has taken is discarded with it. -/
def Gang.past (g : Gang) : Gang :=
  let g := { g with ra := g.ra.filter fun r => !(r.1 == g.pc && r.2.1 == g.pos) }
  if g.pos < g.header.len then { g with pos := g.pos + 1, fenced := false, wfault := [], wait := .none, skipCmp := false, port := none }
  else g.toBoundary g.nextClause

def State.advance (s : State) (g : Nat) : State := s.modGang g Gang.past

/-- The gang leaves its entry: with it go the run-ahead buffer (R117) and the loop buffer (R218). -/
def Gang.leave (g : Gang) : Gang := { g with active := false, ra := [], trail := [], loop := none }

/-- The gang waits at its word: a wait that stands last in its clause gives up the active entry, unless the clause has NOSW (R211, R212). -/
def State.hold (s : State) (g : Nat) (w : Wait) : State :=
  s.modGang g fun x =>
    let x := { x with wait := w, since := s.now, port := none }
    if x.active && (!x.atLast || x.header.nosw) then x else x.leave

/-- A stall that holds the issue port in place: for the function unit, the memory port, or a queue of the store path (R179, R203). -/
def Wait.inPlace (w : Wait) : Bool := match w with | .sfu => true | .port => true | .buffer => true | .remote => true | _ => false

/-- A structural stall at the word: the entry is kept (R44). -/
def State.stall (s : State) (g : Nat) (w : Wait) : State :=
  s.modGang g fun x => { x with wait := w, since := s.now, port := if w.inPlace then x.port else none }

/-! ### Events for the command processor (R422) -/

def State.report (s : State) (e : Event) : State := { s with events := s.events ++ [e] }

/-- The event of a fault record of a launch: kind 1, 2 or 4. -/
def State.reportFault (s : State) (kind : Nat) (h : Word) (core : Nat) (part : Nat) (frame : Word) (r : FaultRec) : State :=
  let fn := match s.launch? h with | some l => l.fn | none => 0
  s.report { fn := fn, kind := kind, die := if 384 ≤ core then (match s.launch? h with | some l => l.die | none => 0) else dieOf core,
             core := core, part := part, handle := h, frame := frame, frec := r }

/-! ### The end of a launch (R112, R357) -/

/-- Launches whose PARENT names h, recursively (R357). -/
def childrenOf (s : State) (fuel : Nat) (h : Word) : List Word :=
  match fuel with
  | 0 => []
  | k + 1 =>
    let cs := (s.launches.filter fun l => l.parent == h && h != 0).map (·.handle)
    cs ++ (cs.map (childrenOf s k)).flatten

def Leaf.ofLaunch (h : Word) (x : Leaf) : Bool := x.launch == h

/-- The leaves of a launch that are in flight or in rings (R234). -/
def State.leavesOf (s : State) (h : Word) : Nat :=
  (s.flights.filter fun f => f.leaf.launch == h).length + (s.rings.filter fun r => r.leaf.launch == h).length +
  ((s.bundles.map fun b => if b.sent then 0 else (b.leaves.filter (Leaf.ofLaunch h)).length).sum) +
  ((s.cores.map fun c => (c.2.depart.filter (Leaf.ofLaunch h)).length + (c.2.inbound.filter (Leaf.ofLaunch h)).length).sum)

/-- A frame of a context's area is freed, or a RESUME or INVALIDATE of the context is given: refused saves and held updates of the
context may be tried again (R29, R437). -/
def State.wakeSaves (s : State) (fn asc : Nat) : State :=
  let mine (h : Word) : Bool := match s.launch? h with | some l => l.fn == fn && l.asc == asc | none => false
  { s with
    squads := s.squads.map fun (q : Squad) => if q.refused && mine q.launch then { q with retry := true } else q
    teams := s.teams.map fun (t : Team) => if t.refused && mine t.launch then { t with retry := true } else t
    upds := s.upds.map fun (u : Upd) =>
      if u.held.isSome && (mine u.launch || (u.fn == fn && u.asc == asc && (s.launch? u.launch).isNone)) then { u with retry := true }
      else u }

/-- The frames of which p holds are freed (R29). -/
def State.freeFrames (s : State) (p : FrameAlloc → Bool) : State :=
  let gone := s.frames.filter p
  gone.foldl (fun s f => s.wakeSaves f.fn f.asc) { s with frames := s.frames.filter fun f => !p f }

/-- Gangs that a full engine queue held present their word again, since entries of it have gone (R44). -/
def wakeFull (gs : List Gang) : List Gang :=
  gs.map fun g => if g.wait = .queue ∧ g.header.eng ≠ 9 then { g with wait := .none } else g

/-- The cycle in which a combine operation reaches the buffer of its die (R408). -/
def cbArrival (o : EngOp) : Nat := o.arrived + 14 + 2 * hops o.core (dieOf o.core * 96 + 53)

/-- An operation that the end of its launch leaves: a CBPUT that has reached the combine buffer, which is handled and retires (R390, R398), and a
routing or combine operation that is complete or has faulted, which retires (R400). -/
def State.outlives (s : State) (o : EngOp) : Bool :=
  match o.i with
  | .cbput _ => o.done || decide (cbArrival o ≤ s.now)
  | .cbopen _ => o.done
  | .cbclose _ => o.done
  | .route _ => o.done
  | _ => false

/-- Bytes of a type code TY. -/
def tyBytes (ty : Nat) : Nat := if ty = 3 ∨ ty = 4 then 8 else 4

/-- The bytes that a posted write touches. -/
def Post.len (p : Post) : Nat := match p with | .store bs => bs.length | .red _ ty _ => tyBytes ty

def Ent.pending (e : Ent) : Bool := !e.athome

/-- The granules of a team's scratchpad in which a write of n bytes at home falls (R30). -/
def Team.granules (t : Team) (home n : Nat) : List Nat :=
  let c := t.cores.length
  let k := t.cores.idxOf (homeCore home)
  let b := t.base.getD k 0
  let off := homeOffset home
  if k < c ∧ b ≤ off ∧ t.saved = none ∧ t.retired = false then
    ((List.range (n / 4096 + 2)).map fun i => ((off + i * 4096) / 4096 * 4096 - b) / 4096 * c + k).filter fun g =>
      decide (g < t.scratch / 4096) && decide (g / c * 4096 < off - b + n)
  else []

/-- A team's window is no more: writes of the combine buffer that are on their way to it are discarded (R404). -/
def State.closeWindow (s : State) (t : Team) : State :=
  { s with ents := s.ents.filter fun e => !(e.pending && e.core == 384 && !(t.granules e.home e.post.len).isEmpty) }

/-- Every squad and roaming thread of a launch stops and its allocations are freed (R112, R234), but the granules of a scratchpad that a CBPUT still
reads (R390). Operations that the launch still has are dropped, but for those that outlive it. -/
def State.stopLaunch (s : State) (h : Word) : State :=
  let qs := (s.squads.filter fun q => q.launch == h).map (·.id)
  let mine := s.teams.filter fun t => t.launch == h
  let ts := mine.map (·.id)
  let s := mine.foldl (fun (s : State) t => s.closeWindow t) s
  let ops := s.ops.filter fun o => o.launch != h || s.outlives o
  let s := { s with
    gangs := wakeFull (s.gangs.filter fun g => !qs.contains g.squad)
    squads := s.squads.filter fun q => q.launch != h
    teams := (s.teams.filter fun (t : Team) => t.launch != h || ops.any fun o => o.team == t.id && !o.done).map fun (t : Team) =>
      if t.launch = h then { t with retired := true } else t
    arrs := s.arrs.filter fun a => !ts.contains a.team
    ops := ops
    streams := s.streams.filter fun x => x.launch != h
    walks := s.walks.filter fun w => w.launch != h
    bins := s.bins.filter fun b => b.launch != h
    cores := s.cores.map fun (c : Nat × Core) => (c.1, { c.2 with inbound :=
      match c.2.inbound with
      | x :: rest => if x.launch = h then rest else x :: rest
      | [] => [] })
    pendLaunch := s.pendLaunch.map fun (p : PendLaunch) => if p.parent = h then { p with ended := true } else p }
  (s.freeFrames fun f => f.launch == h).modLaunch h fun l => { l with st := .failed, live := s.leavesOf h }

/-- Ends a launch and every launch below it, without a report. -/
def State.endLaunch (s : State) (h : Word) : State :=
  (h :: childrenOf s s.launches.length h).foldl (fun s h =>
    match s.launch? h with
    | some l => (match l.st with
      | .failed => s
      | .complete _ => s
      | _ => s.stopLaunch h)
    | none => s) s

/-- A fatal fault (R112): every record is reported as an event of kind 1, in order, and the launch ends. -/
def State.fatal (s : State) (h : Word) (core part : Nat) (rs : List FaultRec) : State :=
  (rs.foldl (fun s r => s.reportFault 1 h core part 0 r) s).endLaunch h

/-! ### Fault and trap codes (R111) -/

def cIllegalEncoding : Nat := 0x01
def cIllegalOperand : Nat := 0x02
def cIllegalClause : Nat := 0x03
def cIllegalConvergence : Nat := 0x04
def cRoleViolation : Nat := 0x05
def cTrap : Nat := 0x08
def cBreakpoint : Nat := 0x09
def cPageNotPresent : Nat := 0x10
def cPermission : Nat := 0x11
def cAperture : Nat := 0x12
def cMisaligned : Nat := 0x13
def cStackLimit : Nat := 0x14
def cSparseMetadata : Nat := 0x20
def cAccumulatorRange : Nat := 0x21
def cOpmap : Nat := 0x22
def cCopyFormat : Nat := 0x28
def cIndexRange : Nat := 0x29
def cSignatureConfig : Nat := 0x2A
def cBudgetExhausted : Nat := 0x30
def cLaunchRecord : Nat := 0x31
def cCombineOverflow : Nat := 0x38
def cCombineConfig : Nat := 0x39
def cRouteConfig : Nat := 0x3A
def cUncorrectableMemory : Nat := 0x40
def cLinkLost : Nat := 0x41

/-- The detail word of a memory fault (R64). -/
def memDetail (reason level : Nat) (write atomic fetch engine : Bool) : Word :=
  BitVec.ofNat 64 (reason % 16 + 16 * (level % 8) + 256 * boolNat write + 512 * boolNat atomic + 1024 * boolNat fetch +
    2048 * boolNat engine)

/-! ### Taking a trap -/

/-- %xfmt of a word in an opcode space (R115); 7 for an unassigned opcode. -/
def fmtCode (e : Eng) (w : Word) : Nat :=
  match shapeOf e (opBits w) with
  | some (.f3 _) => 0
  | some (.fm _) => 1
  | some (.fi _) => 2
  | some (.fk _) => 3
  | some (.fa _) => 4
  | some (.fc _) => 5
  | none => 7

/-- The trap registers filled from a word of a clause (R115). -/
def trapRegsOf (hdr : Word) (pos : Nat) (w : Word) (pc : Word) (code : Nat) (mask : Lanes) (addr : Word) : TrapRegs :=
  let h := Header.ofWord hdr
  let xpc := pc + 8#64 * BitVec.ofNat 64 pos
  if pos = 0 then
    { xcode := BitVec.ofNat 8 code, xpc := xpc, xraw := w, xfmt := 7, xmask := mask, xaddr := addr }
  else
    let tail := h.isTailAt pos
    let f := match h.classAt pos with | some e => fmtCode e w | none => 7
    let xa := w.extractLsb' 23 11
    let xb := w.extractLsb' 12 11
    { xcode := BitVec.ofNat 8 code
      xpc := xpc
      xraw := w
      xop := BitVec.ofNat 13 (h.eng.toNat + 16 * (opBits w).toNat + 4096 * boolNat tail)
      xfmt := BitVec.ofNat 3 f
      xdst := BitVec.ofNat 16 ((w.extractLsb' 39 11).toNat + 2048 * (w.extractLsb' 38 1).toNat +
        4096 * (w.extractLsb' 37 1).toNat + 8192 * (w.extractLsb' 34 3).toNat)
      xsa := if f = 3 ∨ f = 5 then 0 else xa
      xsb := match f with
        | 2 | 3 => 0
        | 5 => (w.extractLsb' 0 8).setWidth 11
        | _ => xb
      xsc := if f = 0 then w.extractLsb' 1 11 else 0
      ximm := match f with
        | 0 => 0
        | 2 => (w.extractLsb' 0 23).signExtend 64
        | 3 => (w.extractLsb' 2 32).signExtend 64
        | 4 => (w.extractLsb' 0 12).signExtend 64
        | 5 => (w.extractLsb' 8 26).signExtend 64
        | _ => (w.extractLsb' 0 12).setWidth 64
      xguard := w.extractLsb' 50 1 ++ w.extractLsb' 51 5
      xmask := mask
      xaddr := addr }

/-- A record of a fault at the gang's word. -/
def Gang.faultAt (g : Gang) (code : Nat) (mask : Lanes) (addr detail : Word) : FaultRec :=
  { code := code, eng := g.header.eng.toNat, coff := g.pos, lanes := mask, pc := g.pc, addr := addr, detail := detail }

/-- The accesses of the lanes of m that have not been performed: requests that have not returned, posted writes that are not at home, and
updates of sync words on their way. -/
def State.accessesOut (s : State) (squad : Nat) (m : Lanes) : List Nat :=
  ((s.reqs.filter fun r => r.squad == squad && r.kind != .line &&
    ((r.uni && r.held &&& m != 0) || r.pieces.any fun p => decide (p.lane < 32) && m.getLsbD p.lane)).map (·.id)) ++
  ((s.ents.filter fun e => !e.athome && e.squad == squad && e.who &&& m != 0).map (·.id)) ++
  (s.upds.filter fun u => u.op.isNone && u.squad == squad && u.lanes &&& m != 0).map (·.id)

/-- A trap, the return from one, and the resumption of a parked lane stand between accesses of a thread that perform in program order (R77): the
gang g issues again when those that its lanes have made are performed. -/
def State.fencedOff (s : State) (g : Nat) : State :=
  s.modGang g fun x => { x with block := (x.block ++ s.accessesOut x.squad x.lanes).eraseDups }

/-- Steps 2 to 4 of R114: the trap registers are filled, the gang is marked as in its handler and continues at the vector
with cleared latches. -/
def State.enterHandler (s : State) (g : Gang) (tv : Word) (t : TrapRegs) (r : FaultRec) : State :=
  ((s.clearLatches g).modGang g.id fun x =>
    { x.toBoundary tv with
      trap := { regs := t, frec := r, pc := g.pc, pos := g.pos, hdr := g.hdr, last := g.pos == g.header.len, yielded := g.yielded },
      handler := true, phase := .head, ra := [], yielded := false, nosw := false }).fencedOff g.id

/-- Delivery of a fault of record r to a gang (R112, R114): PERMISSION is always fatal (R111), and its record is then the only one reported
(notes/assumptions/18.md); in the gang's own handler a second trap is fatal, and both records are reported in order; so is a trap without a
trap vector. -/
def State.deliver (s : State) (g : Gang) (r : FaultRec) : State :=
  match s.squad? g.squad with
  | none => s
  | some q =>
    let tv := match s.launch? q.launch with | some l => l.r.trapv | none => 0
    if r.code = cPermission then s.fatal q.launch q.core q.part [r]
    else if g.handler then s.fatal q.launch q.core q.part [g.trap.frec, r]
    else if tv = 0 then s.fatal q.launch q.core q.part [r]
    else s.enterHandler g tv (trapRegsOf g.hdr g.pos g.word g.pc r.code r.lanes r.addr) r

/-- TAKING A TRAP at the gang's word, which has no effect in any lane (R114). -/
def State.takeTrap (s : State) (g : Gang) (code : Nat) (mask : Lanes) (addr detail : Word) : State :=
  s.deliver g (g.faultAt code mask addr detail)

/-- A trap of one of the codes 0x01 to 0x05 in every active lane: DETAIL is the raw word (R113). -/
def State.decodeTrap (s : State) (g : Gang) (code : Nat) : State := s.takeTrap g code g.lanes 0 g.word

/-! ### Parking (R39) -/

/-- The lanes of m park with their records and leave the gang; a gang without lanes dissolves. -/
def State.park (s : State) (g : Gang) (m : Lanes) (frec : Nat → FaultRec) : State :=
  let s := s.modSquad g.squad fun q => q.modLanes m fun l x =>
    { x with st := .parked, frec := frec l, covered := false, pc := g.pc, coff := 0, pend := g.pend, htrap := if g.handler then some g.trap else none }
  let left := g.lanes &&& ~~~m
  if left = 0 then { s with gangs := s.gangs.filter fun x => x.id != g.id }
  else s.modGang g.id fun x => { x with lanes := left }

/-! ### The split of a gang (R207) -/

/-- The groups of lanes with one next clause each, in the order of their lowest lane. -/
def groupByTarget (ls : List (Nat × Word × Bool)) : List ((Word × Bool) × Lanes) :=
  ls.foldl (fun acc x =>
    if acc.any (fun y => y.1 == x.2) then
      acc.map fun y => if y.1 == x.2 then (y.1, y.2 ||| lanesMask [x.1]) else y
    else acc ++ [(x.2, lanesMask [x.1])]) []

/-- New gangs for the groups after the first, pending and ready, with the class and entry time of the gang (R207). -/
def addSubgangs (s : State) (g : Gang) (gs : List ((Word × Bool) × Lanes)) : State :=
  gs.foldl (fun s x =>
    let (n, s) := s.fresh
    let y : Gang := { g.toBoundary x.1.1 with
      id := n, lanes := x.2, phase := .head, active := false, ready := s.now, block := [], ra := [], trail := [], loop := none, stats := [], yielded := false, nosw := false,
      handler := x.1.2, trap := if x.1.2 then g.trap else {} }
    { (s.modSquad g.squad fun q => q.modLanes x.2 fun _ z => { z with lat := [] }) with gangs := s.gangs ++ [y] }) s

/-- The lanes of a gang continue at their next clauses (R207), with empty latches: each entry is a lane, its next clause, and whether it stays
in the handler. A load of the clause that has not returned writes no latch of the next one. -/
def State.split (s : State) (g : Gang) (ts : List (Nat × Word × Bool)) : State :=
  let s := s.clearLatches g
  match groupByTarget ts with
  | [] => { s with gangs := s.gangs.filter fun x => x.id != g.id }
  | (t, m) :: rest =>
    let s := s.modGang g.id fun x =>
      { x.toBoundary t.1 with lanes := m, handler := t.2 }
    addSubgangs s g rest

/-! ### Roles and roaming restrictions -/

/-- The classes open to a role (R33). -/
def roleAllows (r : Role) (e : Eng) : Bool :=
  match e with
  | .lane | .sfu | .ctl | .sync => true
  | .copy => r == .load || r == .store
  | .mem => r == .load || r == .store || r == .vector
  | .mtx | .row | .sig => r == .matrix
  | .mig | .exp | .task => r == .vector

/-- ROLE_VIOLATION (R33). -/
def roleFault (q : Squad) (e : Eng) : Bool :=
  match q.role with
  | none => false
  | some r => !roleAllows r e

/-- Class 3 and 4 checks of R107: operands, then the role; the first failing check decides. -/
def checked (s : State) (g : Gang) (q : Squad) (e : Eng) (operandsOk : Bool) (k : State) : State :=
  if !operandsOk then s.decodeTrap g cIllegalOperand
  else if roleFault q e then s.decodeTrap g cRoleViolation
  else k

end Sys2Proof.Machine
end

