-- ==== Sys2Proof/Machine/Operands.lean ====
section
/-!
DEFINITION. The operand forms of the instruction word: what a source or destination field may name (R100 to R105, R19, R23),
its value in a lane, and how a result is written to registers, predicates and latches.
-/
namespace Sys2Proof.Machine

/-! ### Legality (class 3 of R107) -/

/-- What an instruction takes an operand as. -/
inductive OpKind where
  /-- a 32-bit register, latch or immediate -/
  | r32
  /-- an even pair, a latch or an immediate -/
  | r64
  /-- an even pair of kind 00 or 01 (R105) -/
  | base
  /-- a quad of kind 00 or 01 (R167) -/
  | quad
  | pred | rejoin | tile | acc
  /-- a vector register only, or a uniform register only -/
  | vec32 | uni32
  /-- an even uniform pair only -/
  | uni64
  deriving DecidableEq, Repr

/-- Registers that a squad's threads may name: a roaming thread has v0 to v15 and s0 to s31 (R19, R23). -/
def vecLimit (q : Squad) : Nat := if q.roam then 16 else q.vregs
def uniLimit (q : Squad) : Nat := if q.roam then 32 else q.sregs
def predLimit (q : Squad) : Nat := if q.roam then 8 else 24

/-- A run of k registers from n, n a multiple of k, below a limit. -/
def runOk (n k limit : Nat) : Bool := n % k == 0 && decide (n + k ≤ limit)

/-- Whether a source field names what the instruction takes there. In a uniform operation a vector or latch source is
illegal (R103). -/
def srcOk (q : Squad) (uniform : Bool) (k : OpKind) (x : Src) : Bool :=
  match k, x with
  | .r32, .vec n => !uniform && runOk n.toNat 1 (vecLimit q)
  | .r32, .uni n => runOk n.toNat 1 (uniLimit q)
  | .r32, .lat _ => !uniform
  | .r32, .imm _ => true
  | .r64, .vec n => !uniform && runOk n.toNat 2 (vecLimit q)
  | .r64, .uni n => runOk n.toNat 2 (uniLimit q)
  | .r64, .lat _ => !uniform
  | .r64, .imm _ => true
  | .base, .vec n => !uniform && runOk n.toNat 2 (vecLimit q)
  | .base, .uni n => runOk n.toNat 2 (uniLimit q)
  | .quad, .vec n => !uniform && runOk n.toNat 4 (vecLimit q)
  | .quad, .uni n => runOk n.toNat 4 (uniLimit q)
  | .pred, .vec n => decide (n.toNat < predLimit q)
  | .rejoin, .vec n => !q.roam && decide (n.toNat < 8)
  | .tile, .vec n => !q.roam && decide (n.toNat < q.tiles)
  | .acc, .vec n => !q.roam && decide (n.toNat < q.accs)
  | .vec32, .vec n => !uniform && runOk n.toNat 1 (vecLimit q)
  | .uni32, .uni n => runOk n.toNat 1 (uniLimit q)
  | .uni64, .uni n => runOk n.toNat 2 (uniLimit q)
  | _, _ => false

/-- The guard names a predicate that the thread has (R19, R100). -/
def guardFieldOk (q : Squad) (c : Common) : Bool := c.gp == 31 || decide (c.gp.toNat < predLimit q)

/-- The destination field of a result of k registers: vector always; uniform where u is accepted, by a
roaming thread only with the write suppressed; a
predicate where p is accepted; none (R101, R103). A predicate destination never takes more than one. -/
def dstOk (q : Squad) (c : Common) (k : Nat) (u p : Bool) : Bool :=
  match c.dk with
  | .vec => runOk c.dn.toNat k (vecLimit q)
  | .uni => u && (!q.roam || c.nw) && runOk c.dn.toNat k (uniLimit q)
  | .pred => p && decide (c.dn.toNat < predLimit q)
  | .none => true

/-- A destination that is a register or a latch: instructions whose table lists no other raise ILLEGAL_OPERAND without one. -/
def destNamed (c : Common) : Bool := c.dk != .none || c.le

/-- Guard, sources and destination of an instruction together. -/
def operandsOk (q : Squad) (c : Common) (srcs : List (OpKind × Src)) (k : Nat) (u p : Bool) : Bool :=
  guardFieldOk q c && dstOk q c k u p && srcs.all fun x => srcOk q (c.dk == .uni) x.1 x.2

/-! ### Values -/

/-- The value of a 32-bit source in lane l (R104); an immediate is sign-extended. -/
def val32 (q : Squad) (l : Nat) (x : Src) : W32 :=
  match x with
  | .vec n => regGet (q.lane l).v n.toNat
  | .uni n => q.uni n.toNat
  | .lat n => ((q.lane l).latch n.toNat).setWidth 32
  | .imm v => v.signExtend 32

/-- The value of a 64-bit source in lane l (R104). -/
def val64 (q : Squad) (l : Nat) (x : Src) : Word :=
  match x with
  | .vec n => regPair (q.lane l).v n.toNat
  | .uni n => regPair q.ufile n.toNat
  | .lat n => (q.lane l).latch n.toNat
  | .imm v => v.signExtend 64

/-- The 16 bytes of a quad (R167). -/
def valQuad (q : Squad) (l : Nat) (x : Src) : Nat :=
  match x with
  | .vec n => regGetN (q.lane l).v n.toNat 4
  | .uni n => regGetN q.ufile n.toNat 4
  | .lat _ => 0
  | .imm _ => 0


/-- A predicate operand in lane l. -/
def valPred (q : Squad) (l : Nat) (x : Src) : Bool :=
  match x with
  | .vec n => (q.lane l).pred n.toNat
  | _ => false

/-- The register number of a field that names a rejoin mask, tile descriptor, accumulator or register. -/
def srcNum (x : Src) : Nat :=
  match x with
  | .vec n => n.toNat
  | .uni n => n.toNat
  | .lat n => n.toNat
  | .imm v => v.toNat

/-- The value of k registers of a source, the first lowest (store data, R186). -/
def valRun (q : Squad) (l : Nat) (dk : DK) (n k : Nat) : Nat :=
  match dk with
  | .uni => regGetN q.ufile n k
  | _ => regGetN (q.lane l).v n k

/-! ### Results -/

/-- Writes a result of k registers in lane l: to the vector register or predicate that the instruction names unless NW, and to
its latch (R101, R102). -/
def putLane (q : Squad) (c : Common) (k : Nat) (l : Nat) (v : Nat) : Squad :=
  q.modLane l fun x =>
    let x :=
      if c.nw then x
      else match c.dk with
        | .vec => { x with v := regSetN x.v c.dn.toNat k v }
        | .pred => x.setPred c.dn.toNat (v % 2 == 1)
        | _ => x
    if c.le then x.setLatch c.ln.toNat (BitVec.ofNat 64 v) else x

/-- Writes the one result of a uniform operation: to the uniform register unless NW, and to the latch of every active lane
(R102, R103, R170). -/
def putUniform (q : Squad) (c : Common) (k : Nat) (active : Lanes) (v : Nat) : Squad :=
  let q := if c.nw then q else q.setUni c.dn.toNat k v
  if c.le then q.modLanes active fun _ x => x.setLatch c.ln.toNat (BitVec.ofNat 64 v) else q

end Sys2Proof.Machine
end

