-- ==== Sys2Proof/Machine/Flags.lean ====
section
/-!
DEFINITION. %fflags (R126): how the flags that an instruction raises are joined into the flags of its lanes, and the
floating-point reading of sources.
-/
namespace Sys2Proof.Machine

/-- ORs flags into %fflags of a lane. -/
def raiseLane (q : Squad) (l : Nat) (f : Flags) : Squad := q.modLane l fun x => { x with ff := x.ff ||| f }

/-- ORs flags into %fflags of every lane of a set. -/
def raiseLanes (q : Squad) (m : Lanes) (f : Flags) : Squad := q.modLanes m fun _ x => { x with ff := x.ff ||| f }

/-- The bits of an integer from −256 to 255 in a format, rounded to nearest even without a flag (R104). -/
def intBits (f : Fmt) (i : Int) : Nat := (roundFV f .rn (fvOfInt i)).1

/-- A source read as a value of a format, from the low bits of the register (R104, R123). -/
def valFloat (f : Fmt) (q : Squad) (l : Nat) (x : Src) : Nat :=
  match x with
  | .imm v => intBits f v.toInt
  | _ => (val32 q l x).toNat % 2 ^ widthOf f

/-- A source read as two packed 16-bit elements (R123); an immediate stands in both (R104). -/
def valPacked (f : Fmt) (q : Squad) (l : Nat) (x : Src) (e : Nat) : Nat :=
  match x with
  | .imm v => intBits f v.toInt
  | _ => (val32 q l x).toNat / 2 ^ (16 * e) % 2 ^ 16

end Sys2Proof.Machine
end

