-- ==== Sys2Proof/Machine/Sregs.lean ====
section
/-!
DEFINITION. The special registers that SREAD reads and SWRITE writes (R163, R164, and the tables of the engines' chapters),
and the numbering of cores within a function's virtual device (R411).
-/
namespace Sys2Proof.Machine

/-! ### Virtual devices (R411) -/

/-- The core groups of a function, ascending. -/
def Fn.groupList (f : Fn) : List Nat := (List.range 16).filter fun g => f.groups.getLsbD g
def Fn.owns (f : Fn) (core : Nat) : Bool := f.groups.getLsbD (groupOf core)

/-- The physical core of virtual core v of a function; function 0 uses the physical numbering. -/
def Fn.physCore (f : Fn) (v : Nat) : Option Nat :=
  if f.id = 0 then (if v < 384 && f.owns v then some v else none)
  else
    match f.groupList[v / 24]? with
    | none => none
    | some g =>
      let y := g % 4 / 2 * 4 + v % 24 / 6
      let x := g % 2 * 6 + v % 6
      some (g / 4 * 96 + y * 12 + x)

/-- The number of a physical core in a function's virtual device. -/
def Fn.virtCore (f : Fn) (core : Nat) : Nat :=
  if f.id = 0 then core
  else 24 * (f.groupList.filter fun g => decide (g < groupOf core)).length + 6 * (posOf core / 12 % 4) + posOf core % 12 % 6

/-- The function of a launch; function 0 when the launch is unknown. -/
def State.fnOf (s : State) (h : Word) : Fn :=
  match s.launch? h with
  | some l => (s.fn? l.fn).getD Fn.reset0
  | none => (s.fn? 0).getD Fn.reset0

/-! ### Clocks (R412, R433) -/

/-- %clock of a die. -/
def State.clock (s : State) (d : Nat) : Nat := match (s.die d).clock0 with | some t => s.now - t | none => 0
/-- Package time in ns: 5 ns are 12 cy. -/
def State.ptime (s : State) : Nat := s.now * 5 / 12

/-! ### Widths and access (R163) -/

/-- Registers of 64 bits. -/
def sregWide (n : Nat) : Bool :=
  [0x008, 0x00A, 0x020, 0x021, 0x041, 0x042, 0x049, 0x04C, 0x100, 0x128, 0x129, 0x1F1, 0x1F2, 0x1F4, 0x1F5, 0x1F6, 0x1F8, 0x1F9,
    0x1FA, 0x1FC, 0x1FD, 0x1FF].contains n ||
  decide (0x080 ≤ n ∧ n ≤ 0x087) || decide (0x110 ≤ n ∧ n ≤ 0x117) || decide (0x142 ≤ n ∧ n ≤ 0x148) ||
  decide (0x160 ≤ n ∧ n ≤ 0x165) || decide (0x180 ≤ n ∧ n ≤ 0x183) || decide (0x1A0 ≤ n ∧ n ≤ 0x1A2) ||
  decide (0x1C0 ≤ n ∧ n ≤ 0x1C2) || decide (0x1E0 ≤ n ∧ n ≤ 0x1E2)

/-- Registers that SWRITE writes: %fflags (R164) and the comparators (R228). -/
def sregRW (n : Nat) : Bool := n == 0x010 || decide (0x110 ≤ n ∧ n ≤ 0x127)

/-- The comparator that a register number belongs to. -/
def sregCmp (n : Nat) : Option Nat := if 0x110 ≤ n ∧ n ≤ 0x127 then some (n % 8) else none

def State.cmp (s : State) (core k : Nat) : Comparator := (s.core core).cmp.getD k {}
def State.modCmp (s : State) (core k : Nat) (f : Comparator → Comparator) : State :=
  s.modCore core fun c => { c with cmp := c.cmp.mapIdx fun i x => if i = k then f x else x }

def Comparator.en (c : Comparator) : Bool := c.bpc.getLsbD 0
def Comparator.cntOnly (c : Comparator) : Bool := c.bpc.getLsbD 1
def Comparator.skip (c : Comparator) : Nat := (c.bpc.extractLsb' 16 16).toNat

/-- A comparator that another launch owns while EN = 1 (R228). -/
def cmpForeign (c : Comparator) (h : Word) : Bool := c.en && c.owner != h

/-! ### Occupancies -/

/-- The streams that run on a core: those of a saved team do not, nor one that waits for another to end (R291, R297). -/
def State.streamsOn (s : State) (core : Nat) : Nat :=
  (s.streams.filter fun x => x.core == core && !x.waiting && match s.team? x.team with | some t => t.saved.isNone | none => false).length

/-- Whether an operation belongs to the routing engine, and not to the combine buffer. -/
def EngOp.isRoute (o : EngOp) : Bool := match o.i with | .route _ => true | _ => false
def EngOp.isCb (o : EngOp) : Bool :=
  match o.i with | .cbopen _ => true | .cbput _ => true | .cbclose _ => true | _ => false

def EngOp.isPut (o : EngOp) : Bool := match o.i with | .cbput _ => true | _ => false

/-- The matrix engine of a partition (R15). -/
def engineOf (part : Nat) : Nat := part / 4

/-- Operations of a core's engine of a class that wait in its queue; the matrix engines are told apart by e. -/
def State.queueOcc (s : State) (core : Nat) (cls : CounterClass) (e : Nat) : Nat :=
  (s.ops.filter fun o => o.core == core && o.cls == cls && !o.started && !o.done &&
    (cls != .mx || engineOf o.part == e)).length

def State.routeOcc (s : State) (d : Nat) : Nat :=
  (s.ops.filter fun o => dieOf o.core == d && o.isRoute && !o.started && !o.done).length
def State.cbOcc (s : State) (d : Nat) : Nat :=
  (s.ops.filter fun o => dieOf o.core == d && o.isCb && !o.started && !o.done).length

/-! ### Reading -/

/-- Trap registers of R115, by number from 0x040. -/
def trapSreg (t : TrapRegs) (n : Nat) : Nat :=
  match n with
  | 0x040 => t.xcode.toNat
  | 0x041 => t.xpc.toNat
  | 0x042 => t.xraw.toNat
  | 0x043 => t.xop.toNat
  | 0x044 => t.xfmt.toNat
  | 0x045 => t.xdst.toNat
  | 0x046 => t.xsa.toNat
  | 0x047 => t.xsb.toNat
  | 0x048 => t.xsc.toNat
  | 0x049 => t.ximm.toNat
  | 0x04A => t.xguard.toNat
  | 0x04B => t.xmask.toNat
  | _ => t.xaddr.toNat

/-- Entries of a die's launch table in use (R353). -/
def State.tableOcc (s : State) (d : Nat) : Nat :=
  (s.launches.filter fun l => l.die == d && (match l.st with | .complete _ => false | _ => true)).length

/-- Registers of a core, a partition or a die, by number from 0x080. -/
def unitSreg (s : State) (core part : Nat) (n : Nat) : Nat :=
  let c := s.core core
  let p := s.part core part
  let d := s.die (dieOf core)
  match n with
  | 0x080 => c.sqacc
  | 0x081 => c.sqdly
  | 0x082 => c.sqhwm
  | 0x083 => c.sbdly
  | 0x084 => c.tlbmiss
  | 0x085 => c.wkdly
  | 0x086 => c.rcmiss
  | 0x087 => c.rmdly
  | 0x100 => p.sfudly
  | 0x128 => p.swapcnt
  | 0x129 => p.holdcy
  | 0x140 => c.binwait
  | 0x142 => c.migout
  | 0x143 => c.migin
  | 0x144 => c.spilled
  | 0x145 => c.pooled
  | 0x146 => c.depdly
  | 0x147 => c.migdrop
  | 0x148 => c.bindly
  | 0x160 => c.syncops
  | 0x161 => c.swwdly
  | 0x162 => c.bardly
  | 0x163 => c.ringdly
  | 0x164 => c.cntdly
  | 0x165 => c.syncq
  | 0x180 => c.cpops
  | 0x181 => c.cpbytes
  | 0x182 => c.cpqdly
  | 0x183 => c.cpheld
  | 0x184 => s.streamsOn core
  | 0x1A0 => c.mxops.getD (engineOf part) 0
  | 0x1A1 => c.mxbusy.getD (engineOf part) 0
  | 0x1A2 => c.mxqdly.getD (engineOf part) 0
  | 0x1A3 => s.queueOcc core .mx (engineOf part)
  | 0x1C0 => c.rwops
  | 0x1C1 => c.rwbusy
  | 0x1C2 => c.rwqdly
  | 0x1C3 => s.queueOcc core .rw 0
  | 0x1E0 => c.sgops
  | 0x1E1 => c.sgbusy
  | 0x1E2 => c.sgqdly
  | 0x1E3 => s.queueOcc core .sg 0
  | 0x1F0 => (s.pendLaunch.filter fun x => x.core == core && x.queued).length
  | 0x1F1 => c.lqdly
  | 0x1F2 => d.taccept
  | 0x1F3 => s.tableOcc (dieOf core)
  | 0x1F4 => d.tlate
  | 0x1F5 => c.joindly
  | 0x1F6 => c.swapouts
  | 0x1F8 => d.rtops
  | 0x1F9 => d.rtbusy
  | 0x1FA => d.rtqdly
  | 0x1FB => s.routeOcc (dieOf core)
  | 0x1FC => d.cbops
  | 0x1FD => d.cbqdly
  | 0x1FE => s.cbOcc (dieOf core)
  | 0x1FF => d.cbrel
  | _ => 0

/-- The value that SREAD of register n gives in lane l (R42, R163, R164). -/
def sregRead (s : State) (g : Gang) (q : Squad) (l n : Nat) : Nat :=
  let ones32 := 2 ^ 32 - 1
  match n with
  | 0x000 => l
  | 0x001 => if q.roam then ones32 else q.index
  | 0x002 => if q.roam then ones32 else q.vcore
  | 0x003 => if q.roam then ones32 else (match s.team? q.team with | some t => t.cores.length | none => 1)
  | 0x004 => (s.fnOf q.launch).virtCore q.core
  | 0x005 => q.part
  | 0x006 => g.lanes.toNat
  | 0x008 => (q.lane l).wid.toNat
  | 0x00A => if q.roam then 2 ^ 64 - 1 else (match s.team? q.team with | some t => t.index.toNat | none => 0)
  | 0x010 => (q.lane l).ff.toNat
  | 0x020 => s.clock (dieOf q.core)
  | 0x021 => s.ptime
  | 0x141 => if q.roam then (q.lane l).hops.toNat else 0
  | _ =>
    if 0x040 ≤ n ∧ n ≤ 0x04C then trapSreg g.trap.regs n
    else
      match sregCmp n with
      | some k =>
        let c := s.cmp q.core k
        if cmpForeign c q.launch then 0
        else if n < 0x118 then c.bpa.toNat else if n < 0x120 then c.bpc.toNat else c.bpn.toNat
      | none => unitSreg s q.core q.part n

/-! ### Writing -/

/-- SWRITE to a comparator register (R228): reserved bits stay zero; a %bpc write with EN = 1 takes ownership. -/
def cmpWrite (n : Nat) (v : Word) (h : Word) (c : Comparator) : Comparator :=
  if n < 0x118 then { c with bpa := v &&& ~~~7#64 }
  else if n < 0x120 then
    let w := (v.setWidth 32) &&& 0xFFFF0003#32
    { c with bpc := w, owner := if w.getLsbD 0 then h else c.owner }
  else { c with bpn := v.setWidth 32 }

end Sys2Proof.Machine
end

