-- ==== Sys2Proof/Machine/Rings.lean ====
section
/-!
DEFINITION. The leaf in memory (R235), the spill rings and the pool (R241 to R245).
-/
namespace Sys2Proof.Machine

/-! ### Regions at the top of a slice (R55, R241) -/

def ringBase (c : Core) : Nat := 2 ^ 31 - 128 * c.ringCap
def stackBase (c : Core) : Nat := ringBase c - c.stackRegion

/-- A byte of a slice of this chip that translation never reaches (R55). Of the slices of another chip the model tests nothing, since that chip keeps
its own reserved regions (DESIGN CHOICE, notes/assumptions/72.md). -/
def State.reserved (s : State) (home : Nat) : Bool :=
  !homeIsVault home && !homeIsHost home && homeChip home == 0 && decide (stackBase (s.core (homeCore home)) ≤ homeOffset home)

/-! ### Links between dies, and network ports (R10, R428, R429) -/

/-- The dies that a UCIe link joins. -/
def linkDies (link : Nat) : Nat × Nat := [(0, 1), (0, 2), (3, 1), (3, 2)].getD link (0, 0)

/-- Two dies that a link joins. -/
def linkJoins (link a b : Nat) : Bool := let d := linkDies link; (d.1 == a && d.2 == b) || (d.1 == b && d.2 == a)

/-- A link that is up joins the dies. -/
def State.linked (s : State) (a b : Nat) : Bool := (List.range 4).any fun k => s.boot.ucie.getLsbD k && linkJoins k a b

/-- Traffic passes between two dies: they are one, or neighbours whose link is up, or opposite with two links up that meet. -/
def State.joined (s : State) (a b : Nat) : Bool :=
  a == b || s.linked a b || (a + b == 3 && (List.range 4).any fun m => s.linked a m && s.linked m b)

/-- Whether traffic between two dies takes a link: it does, it does not, or it crosses two links of which R10 does not say which (none). When
no way between them is up, it is on each link of a way that is down. -/
def State.takesLink (s : State) (link a b : Nat) : Option Bool :=
  if a = b then some false
  else if a + b = 3 then (if s.joined a b then none else some (!s.boot.ucie.getLsbD link))
  else some (linkJoins link a b)

/-- The die at which a home is reached: host memory through die 0. -/
def homeDie (home : Nat) : Nat := if homeIsHost home then 0 else dieOf (homeCore home)

/-- A home in the memory of another chip. -/
def homeIsFar (home : Nat) : Bool := !homeIsVault home && !homeIsHost home && homeChip home != 0

/-- A die has a network port up: one of its two, or the one of the parity given. -/
def State.portUp (s : State) (die : Nat) (parity : Option Nat) : Bool :=
  (List.range 2).any fun k => (parity.isNone || parity == some k) && s.boot.ports.getLsbD (2 * die + k)

/-- The nearest die with such a port up that traffic of a die reaches; of two equally near the lower-numbered (notes/assumptions/77.md). -/
def State.portDie (s : State) (die : Nat) (parity : Option Nat) : Option Nat :=
  ([die] ++ ((List.range 4).filter fun d => d != die && d + die != 3) ++ [3 - die]).find? fun d => s.joined die d && s.portUp d parity

/-- An access of a core reaches a home: over the links of the package, or over a port of the core's parity for memory of another chip
(R428). What the die-level engines and the command processor send is on its die. -/
def State.reaches (s : State) (core home : Nat) : Bool :=
  decide (384 ≤ core) ||
  (if homeIsFar home then (s.portDie (dieOf core) (some (core % 2))).isSome
   else s.joined (dieOf core) (homeDie home))

/-! ### The leaf in memory (R235) -/

def Leaf.bytes (x : Leaf) : List Byte :=
  toBytes 1 x.kind ++ toBytes 1 (boolNat x.pin + 2 * boolNat x.transit) ++ toBytes 2 x.dcore ++ toBytes 2 x.dchip ++
  toBytes 1 x.ff.toNat ++ toBytes 1 x.pred.toNat ++ toBytes 8 x.pc.toNat ++ toBytes 8 x.wid.toNat ++
  toBytes 8 x.launch.toNat ++ toBytes 4 x.stamp.toNat ++ toBytes 4 x.hops.toNat ++ toBytes 24 0 ++
  ((List.range 16).map fun k => toBytes 4 (x.v.getD k 0).toNat).flatten

/-- A leaf read from its 128 bytes, and whether it is well formed (R236). -/
def Leaf.ofBytes (bs : List Byte) : Leaf × Bool :=
  let f := fieldAt bs
  ({ kind := f 0 1, pin := bitOf (f 1 1) 0, transit := bitOf (f 1 1) 1, dcore := f 2 2 % 512, dchip := f 4 2 % 1024,
     ff := BitVec.ofNat 5 (f 6 1), pred := BitVec.ofNat 8 (f 7 1), pc := BitVec.ofNat 64 (f 8 8),
     wid := BitVec.ofNat 64 (f 16 8), launch := BitVec.ofNat 64 (f 24 8), stamp := BitVec.ofNat 32 (f 32 4),
     hops := BitVec.ofNat 32 (f 36 4), v := (List.range 16).map fun k => BitVec.ofNat 32 (f (64 + 4 * k) 4) },
   decide (1 ≤ f 0 1 ∧ f 0 1 ≤ 4) && decide (f 1 1 < 4) && decide (f 2 2 < 512) && decide (f 4 2 < 1024) &&
     decide (f 6 1 < 32) && f 40 24 == 0)

/-- The travel context of a lane as a leaf (R232, R239). -/
def leafOf (q : Squad) (l : Nat) (kind : Nat) (pc : Word) : Leaf :=
  let x := q.lane l
  { kind := kind, pin := x.pin, dcore := q.core, ff := x.ff, pred := x.p.setWidth 8, pc := pc, wid := x.wid, launch := q.launch,
    hops := x.hops, v := (List.range 16).map fun k => regGet x.v k, seen := x.seen }

/-! ### Rings -/

def State.ringOcc (s : State) (core : Nat) : Nat := (s.rings.filter fun r => r.core == core).length

/-- The slot that a leaf takes in a core's ring, which R243 leaves open: the lowest free one (notes/assumptions/65.md). -/
def State.ringSlot (s : State) (core : Nat) : Nat :=
  ((List.range ((s.rings.length) + 1)).find? fun k => !s.rings.any fun r => r.core == core && r.slot == k).getD s.rings.length

/-- Words of memory are written whole, with new check bits: what stood in them in error is gone (R435). -/
def State.wholeWords (s : State) (home n : Nat) : State :=
  { s with errs := s.errs.filter fun e => !(decide (home ≤ e.1 * 8) && decide (e.1 * 8 + 8 ≤ home + n)) }

/-- Writes a leaf into a core's ring. -/
def State.ringPut (s : State) (core : Nat) (x : Leaf) (held : Option FaultRec) : State :=
  let slot := s.ringSlot core
  let at0 := sliceHome core (ringBase (s.core core) + 128 * slot)
  ({ s with
    rings := s.rings ++ [{ core := core, slot := slot, leaf := x, frec := held }]
    mem := s.mem.writeBytes at0 x.bytes } : State).wholeWords at0 128

/-- Takes an entry out of a ring. -/
def State.ringTake (s : State) (core slot : Nat) : State :=
  { s with rings := s.rings.filter fun r => !(r.core == core && r.slot == slot) }

/-- The ring occupancy of core c that the table of die d shows (R242). -/
def State.poolShown (s : State) (d c : Nat) : Nat := Assoc.get 0 (s.die d).pool c

/-- The cores of the pool of a launch's chip, in the order of step 3 of R243. -/
def State.poolOrder (s : State) (h : Word) (d : Nat) : List Nat :=
  ((List.range 384).map fun k => (d + 1 + k) % 384).filter fun c => (s.fnOf h).owns c && c != d

/-- The core of the pool that takes a leaf written by core d: the first whose table entry shows room and whose ring has it;
when every table entry is stale, the first ring with room (R243, R250). -/
def State.poolChoice (s : State) (h : Word) (d : Nat) : Option Nat :=
  let cs := s.poolOrder h d
  match cs.find? fun c => decide (s.poolShown (dieOf d) c < (s.core c).ringCap) && decide (s.ringOcc c < (s.core c).ringCap) with
  | some c => some c
  | none => cs.find? fun c => decide (s.ringOcc c < (s.core c).ringCap)

/-- Step 3 of R243: core d writes the leaf to another ring of the pool, which %pooled counts (R258), with TRANSIT = 1 unless that ring is
the leaf's own core's. By R249 some ring has room; a ring beyond its capacity is never reached from an admitted launch. -/
def State.toPool (s : State) (d : Nat) (x : Leaf) (held : Option FaultRec) : State :=
  match s.poolChoice x.launch d with
  | some c => (s.ringPut c { x with transit := c != x.dcore } held).modCore d fun y => { y with pooled := y.pooled + 1 }
  | none => s.ringPut d x held

/-- Steps 1 to 3 of R243 for a leaf that has reached core d; a leaf whose launch has ended is discarded (R234). -/
def State.launchEnded (s : State) (h : Word) : Bool :=
  match s.launch? h with
  | none => true
  | some l => match l.st with | .failed => true | .complete _ => true | _ => false

def State.dropLeaf (s : State) (core : Nat) (h : Word) : State :=
  (s.modCore core fun c => { c with migdrop := c.migdrop + 1 }).modLaunch h fun l => { l with live := l.live - 1 }

end Sys2Proof.Machine
end

