-- ==== Sys2Proof/Machine/Translate.lean ====
section
/-!
DEFINITION. The generic address space (R49 to R55) and its translation (R56 to R64): apertures, the page walk, the TLB, and the
spot that an address of a thread or of an engine names.
-/
namespace Sys2Proof.Machine

/-! ### Apertures (R49) -/

/-- The ranges of R49. -/
inductive Aperture where
  | global | scratch | lateral | stack | none
  deriving DecidableEq, Repr

def scrBase : Nat := 0xFF00000000000000
def latBase : Nat := 0xFF10000000000000
def stkBase : Nat := 0xFF20000000000000

def apertureOf (a : Nat) : Aperture :=
  if a < 2 ^ 56 then .global
  else if scrBase ≤ a ∧ a < scrBase + 2 ^ 26 then .scratch
  else if latBase ≤ a ∧ a < latBase + 96 * 2 ^ 23 then .lateral
  else if stkBase ≤ a ∧ a < stkBase + 2 ^ 20 then .stack
  else .none

/-- The number of R199 for `cvta.aper`. -/
def Aperture.code (a : Aperture) : Nat :=
  match a with | .global => 0 | .scratch => 1 | .lateral => 2 | .stack => 3 | .none => 0xFF

/-! ### Slot memory (R385) -/

/-- Whether a function owns a core group of a die. -/
def Fn.onDie (f : Fn) (d : Nat) : Bool := f.groupList.any fun g => g / 4 == d

/-- Bytes of the slot region of a die: the sum of the shares of the functions with core groups there. -/
def State.slotRegion (s : State) (d : Nat) : Nat := ((s.fns.filter fun f => f.onDie d).map fun f => f.share * 2 ^ 20).sum

/-- Bytes that the region takes from the top of every vault of the die. -/
def State.slotPerVault (s : State) (d : Nat) : Nat := roundUp (ceilDiv (s.slotRegion d) 96) 4096

/-- A vault offset that programs reach. -/
def State.vaultLimit (s : State) (d : Nat) : Nat := 2 ^ 23 - s.slotPerVault d

/-! ### Device physical addresses (R61) -/

/-- The key of an address-space context in the TLBs. -/
def ascKey (f a : Nat) : Nat := f * 65536 + a

/-- The function and the context of a launch; a context that was never set is all zero (R417). -/
def State.spaceOf (s : State) (h : Word) : Fn × Asc :=
  match s.launch? h with
  | some l => ((s.fn? l.fn).getD { id := l.fn }, (s.asc? l.fn l.asc).getD { id := l.asc })
  | none => (Fn.reset0, { id := 0 })

/-- The home of a device physical address in a function's numbering; none when the slice or the chip is not reachable. -/
def homeOfPa (f : Fn) (a : Asc) (pa : Nat) : Option Nat :=
  if bitOf pa 51 then some (hostHome (pa % 2 ^ 51))
  else
    match f.physCore (pa / 2 ^ 31 % 1024) with
    | none => none
    | some core =>
      let chip := pa / 2 ^ 41 % 1024
      if chip = a.chip then some (sliceHome core (pa % 2 ^ 31))
      else if chip < a.nchip then some (chipHome (chip + 1024 - a.chip) core (pa % 2 ^ 31))
      else none

/-! ### Table entries and the walk (R57 to R60) -/

def pteV (e : Nat) : Bool := bitOf e 0
def pteLeaf (e : Nat) : Bool := bitOf e 1
def pteW (e : Nat) : Bool := bitOf e 2
def pteX (e : Nat) : Bool := bitOf e 3
def pteC (e : Nat) : Bool := bitOf e 4
def pteNoc (e : Nat) : Bool := bitOf e 5
def pteAddr (e : Nat) : Nat := bitsOf e 51 12 * 4096

/-- The index of a level, and the bytes that an entry of the level maps. -/
def levelIndex (lv va : Nat) : Nat :=
  match lv with
  | 0 => bitsOf va 55 39
  | 1 => bitsOf va 38 30
  | 2 => bitsOf va 29 21
  | _ => bitsOf va 20 12
def levelSize (lv : Nat) : Nat :=
  match lv with
  | 0 => 2 ^ 39
  | 1 => 2 ^ 30
  | 2 => 2 ^ 21
  | _ => 2 ^ 12

/-- A malformed entry (R59). -/
def pteMalformed (e lv va : Nat) : Bool :=
  bitsOf e 11 6 != 0 ||
  (pteLeaf e && lv == 0) || (!pteLeaf e && lv == 3) ||
  (pteLeaf e && !(lv == 3 && pteC e) && pteAddr e % levelSize lv != 0) ||
  (pteC e && (lv == 1 || lv == 2)) ||
  (!pteLeaf e && bitOf e 51) ||
  (lv == 3 && pteC e && bitsOf e 15 12 != bitsOf va 15 12)

/-- The result of a walk. -/
inductive WalkRes where
  | leaf (e : TlbEntry)
  | fault (reason level : Nat)
  deriving DecidableEq, Repr

/-- The walk from a table at level lv, with n levels left. A root in host memory, of which R57 and R417 say nothing, is read there
(DESIGN CHOICE, notes/assumptions/71.md). -/
def walkFrom (s : State) (f : Fn) (a : Asc) (core va : Nat) (n lv table : Nat) : WalkRes :=
  match n with
  | 0 => .fault 1 lv
  | k + 1 =>
    match homeOfPa f a (table + 8 * levelIndex lv va) with
    | none => .fault 2 lv
    | some h =>
      let e := s.mem.readN h 8
      if !pteV e then .fault 0 lv
      else if pteMalformed e lv va then .fault 1 lv
      else
        match homeOfPa f a (pteAddr e) with
        | none => .fault 2 lv
        | some home =>
          if s.reserved home then .fault 2 lv
          else if pteLeaf e then
            if lv = 3 ∧ pteC e then
              .leaf { core := core, asc := ascKey f.id a.id, va := va / 65536 * 65536, size := 65536,
                      pa := home / 65536 * 65536, level := 3, w := pteW e, x := pteX e, noc := pteNoc e }
            else
              .leaf { core := core, asc := ascKey f.id a.id, va := va / levelSize lv * levelSize lv, size := levelSize lv,
                      pa := home, level := lv, w := pteW e, x := pteX e, noc := pteNoc e }
          else walkFrom s f a core va k (lv + 1) (pteAddr e)

/-- The table entries that the walk from a table reads: home and bytes. -/
def walkReadsFrom (s : State) (f : Fn) (a : Asc) (va n lv table : Nat) : List (Nat × Nat) :=
  match n with
  | 0 => []
  | k + 1 =>
    match homeOfPa f a (table + 8 * levelIndex lv va) with
    | none => []
    | some h =>
      let e := s.mem.readN h 8
      (h, 8) :: (if !pteV e || pteMalformed e lv va || pteLeaf e then [] else walkReadsFrom s f a va k (lv + 1) (pteAddr e))

/-- The words that a whole walk reads (R62). -/
def walkReads (s : State) (f : Fn) (a : Asc) (va : Nat) : List (Nat × Nat) := walkReadsFrom s f a va 4 0 a.root

/-- A whole walk of a global address. -/
def walk (s : State) (f : Fn) (a : Asc) (core va : Nat) : WalkRes := walkFrom s f a core va 4 0 a.root

/-! ### The TLB (R62) -/

def TlbEntry.covers (e : TlbEntry) (core key va : Nat) : Bool :=
  e.core == core && e.asc == key && decide (e.va ≤ va) && decide (va < e.va + e.size)

def State.tlbFind (s : State) (core key va : Nat) : Option TlbEntry := s.tlb.find? fun e => e.covers core key va

/-- Installs an entry; when the core's 2,048 entries are in use, the one that makes room is a free choice. -/
def State.tlbAdd (s : State) (e : TlbEntry) : State :=
  let mine := s.tlb.filter fun x => x.core == e.core
  if s.tlb.any fun x => x.core == e.core && x.asc == e.asc && x.va == e.va && x.size == e.size then s
  else if mine.length < 2048 then { s with tlb := s.tlb ++ [e] }
  else
    let (r, s) := s.draw
    let out := mine.getD (r.toNat % 2048) e
    { s with tlb := (s.tlb.filter fun x => x != out) ++ [e] }

/-! ### Where an address of a thread leads -/

/-- The spot that a generic address names (R49, R188). -/
inductive Spot where
  /-- a vault of the die: home and core -/
  | vault (home core : Nat)
  | stack (home : Nat)
  | page (e : TlbEntry) (home : Nat)
  | fault (code reason level : Nat)
  | miss
  deriving DecidableEq, Repr

/-- Home of byte off of a team's scratchpad, and its core (R43). -/
def scratchSpot (t : Team) (off : Nat) : Nat × Nat :=
  let c := t.cores.length
  let g := off / 4096
  let k := g % c
  let core := t.cores.getD k 0
  (vaultHome core (t.base.getD k 0 + g / c * 4096 + off % 4096), core)

/-- The lateral-vault aperture of a die, for a function and for a launch (R49, R54). -/
def latFor (s : State) (f : Fn) (die : Nat) (off : Nat) : Spot :=
  let core := die * 96 + off / 2 ^ 23
  if !f.owns core || decide (s.vaultLimit die ≤ off % 2 ^ 23) then .fault cAperture 5 7
  else .vault (vaultHome core (off % 2 ^ 23)) core

def latSpot (s : State) (h : Word) (die : Nat) (off : Nat) : Spot := latFor s (s.fnOf h) die off

/-- The translation that a thread's access finds: in the TLB, as a fault that a walk for this access met, or a miss. An address whose own home lies
in a reserved region faults, wherever its page begins (R55; notes/assumptions/30.md). -/
def pageSpot (s : State) (g : Gang) (q : Squad) (va : Nat) : Spot :=
  let (f, a) := s.spaceOf q.launch
  match s.tlbFind q.core (ascKey f.id a.id) va with
  | some e => if s.reserved (e.pa + (va - e.va)) then .fault cPageNotPresent 2 e.level else .page e (e.pa + (va - e.va))
  | none =>
    match g.wfault.find? fun w => w.1.toNat == va / 4096 with
    | some w => .fault cPageNotPresent w.2.1 w.2.2
    | none => .miss

/-- The spot of an access of lane l by a thread (R49 to R55); n bytes. -/
def spotOf (s : State) (g : Gang) (q : Squad) (l : Nat) (va n : Nat) : Spot :=
  match apertureOf va with
  | .global => pageSpot s g q va
  | .scratch =>
    if q.roam then .fault cAperture 2 7
    else
      match s.team? q.team with
      | none => .fault cAperture 1 7
      | some t =>
        if t.scratch ≤ va - scrBase then .fault cAperture 1 7
        else let p := scratchSpot t (va - scrBase); .vault p.1 p.2
  | .lateral => latSpot s q.launch (dieOf q.core) (va - latBase)
  | .stack =>
    if q.roam then .fault cAperture 2 7
    else
      let size := (s.spaceOf q.launch).2.stack
      if size < va - stkBase + n then .fault cStackLimit 0 7
      else .stack (sliceHome q.core (q.stk + l * size + (va - stkBase)))
  | .none => .fault cAperture 0 7

/-! ### Where an address of an engine leads -/

/-- The result of an engine's translation. -/
inductive EngSpot where
  /-- home; W and X of the page, both set outside the global aperture -/
  | ok (home : Nat) (w : Bool)
  | fault (code reason level : Nat)
  /-- the TLB of its core has missed -/
  | miss
  deriving DecidableEq, Repr

/-- Where an access of an engine of a core finds its translation: the core's TLB, and what the walks for the access have found. -/
structure Look where
  core : Nat
  tr : List TlbEntry := []
  faults : List (Word × Nat × Nat) := []
  deriving DecidableEq, Repr

/-- What a walk at once gives a die-level engine, the command processor or a saved frame, which stand at no core and have no TLB
(notes/assumptions/63.md). -/
def pageNow (s : State) (f : Fn) (a : Asc) (va : Nat) : EngSpot :=
  match walk s f a 0 va with
  | .leaf e => if s.reserved (e.pa + (va - e.va)) then .fault cPageNotPresent 2 e.level else .ok (e.pa + (va - e.va)) e.w
  | .fault r l => .fault cPageNotPresent r l

/-- A global address in a context, for an engine. -/
def engPage (s : State) (f : Fn) (a : Asc) (look : Option Look) (va : Nat) : EngSpot :=
  match look with
  | none => pageNow s f a va
  | some k =>
    let key := ascKey f.id a.id
    match (s.tlbFind k.core key va).or (k.tr.find? fun e => e.covers k.core key va) with
    | some e => if s.reserved (e.pa + (va - e.va)) then .fault cPageNotPresent 2 e.level else .ok (e.pa + (va - e.va)) e.w
    | none =>
      match k.faults.find? fun w => w.1.toNat == va / 4096 with
      | some w => .fault cPageNotPresent w.2.1 w.2.2
      | none => .miss

/-- The apertures that an engine's instruction allows. -/
structure Allow where
  global : Bool := true
  scratch : Bool := true
  lateral : Bool := true
  deriving DecidableEq, Repr

/-- The home at which the word at an address of a squad's thread stands now, when it has one: in the scratchpad of a saved team that is its
copy in the team frame (R262). -/
def State.wordHome (s : State) (q : Squad) (va : Nat) : Option Nat :=
  let (f, a) := s.spaceOf q.launch
  let page (va : Nat) : Option Nat := match pageNow s f a va with | .ok home _ => some home | _ => none
  match apertureOf va with
  | .global => page va
  | .scratch => (s.team? q.team).bind fun t =>
    match t.saved with
    | some frame => page (frame.toNat + 0x700 + (va - scrBase))
    | none => some (scratchSpot t (va - scrBase)).1
  | .lateral => (match latSpot s q.launch (dieOf q.core) (va - latBase) with | .vault home _ => some home | _ => none)
  | _ => none

/-- One byte address of an engine operation of a launch: its team for the scratchpad, the die for lateral vaults (R54, R64). -/
def engSpot (s : State) (h : Word) (team : Option Nat) (look : Option Look) (die : Nat) (al : Allow) (va : Nat) : EngSpot :=
  let (f, a) := s.spaceOf h
  match apertureOf va with
  | .global => if al.global then engPage s f a look va else .fault cAperture 4 7
  | .scratch =>
    if !al.scratch then .fault cAperture 4 7
    else
      match team.bind s.team? with
      | none => .fault cAperture 4 7
      | some t =>
        if t.scratch ≤ va - scrBase then .fault cAperture 1 7
        else .ok (scratchSpot t (va - scrBase)).1 true
  | .lateral =>
    if !al.lateral then .fault cAperture 4 7
    else
      match latSpot s h die (va - latBase) with
      | .vault home _ => .ok home true
      | .fault c r l => .fault c r l
      | _ => .fault cAperture 5 7
  | .stack => .fault cAperture 4 7
  | .none => .fault cAperture 0 7

/-- An engine's byte range: it lies in one aperture (R50), and every byte of it translates; a write needs W = 1. The first
fault stops the range. Home addresses are listed by pages of 4 KiB: (offset in the range, home, bytes). -/
def rangePieces (va n : Nat) (fuel : Nat) : List (Nat × Nat) :=
  match fuel with
  | 0 => []
  | k + 1 =>
    if n = 0 then []
    else
      let here := min n (4096 - va % 4096)
      (va, here) :: rangePieces (va + here) (n - here) k

/-- A fault of an engine access: code, reason, level and address. Code 0 is none: the access waits, for a walk (reason 0) or for its turn at a
slice (reason 1). -/
structure EngFault where
  code : Nat
  reason : Nat := 0
  level : Nat := 7
  addr : Nat
  deriving DecidableEq, Repr

def engRange (s : State) (h : Word) (team : Option Nat) (look : Option Look) (die : Nat) (al : Allow) (write : Bool) (va n : Nat) :
    Except EngFault (List (Nat × Nat)) :=
  if n = 0 then .ok []
  else if apertureOf va != apertureOf (va + n - 1) && apertureOf va != .none then .error { code := cAperture, reason := 3, addr := va }
  else
    (rangePieces va n (n / 4096 + 2)).foldlM (fun acc p =>
      match engSpot s h team look die al p.1 with
      | .ok home w =>
        if write && !w then .error { code := cPermission, reason := 0, addr := p.1 } else .ok (acc ++ [(home, p.2)])
      | .miss => .error { code := 0, addr := p.1 }
      | .fault c r l => .error { code := c, reason := r, level := l, addr := p.1 }) []

/-- The fault record of an engine access (R64, R113). -/
def EngFault.toRec (e : EngFault) (eng coff : Nat) (lanes : Lanes) (pc : Word) (write : Bool) : FaultRec :=
  { code := e.code, eng := eng, coff := coff, lanes := lanes, pc := pc, addr := BitVec.ofNat 64 e.addr,
    detail := memDetail e.reason e.level write false false true }

end Sys2Proof.Machine
end

