-- ==== Sys2Proof/Machine/Access.lean ====
section
/-!
DEFINITION. Memory as the consistency model has it (R73 to R91): posted writes that their core sees and others do not, the view
of a core, arrival at home, cumulative sets and fences, and the arithmetic of atomics (R190).
-/
namespace Sys2Proof.Machine

/-! ### Atomic arithmetic (R190) -/

/-- The new value of an atomic, with the flags of an f32 add. -/
def atomNew (aop ty : Nat) (old b : Nat) : Nat × Flags :=
  let w := 8 * tyBytes ty
  let m := 2 ^ w
  let sgn := ty == 0 || ty == 3
  let lt (x y : Nat) : Bool := if sgn then decide (signedOf w x < signedOf w y) else decide (x % m < y % m)
  match aop with
  | 0 => if ty = 2 then fAdd .f32 .rn (old % m) (b % m) else ((old + b) % m, 0)
  | 1 => (if lt b old then b % m else old % m, 0)
  | 2 => (if lt old b then b % m else old % m, 0)
  | 3 => ((old % m) &&& (b % m), 0)
  | 4 => ((old % m) ||| (b % m), 0)
  | 5 => ((old % m) ^^^ (b % m), 0)
  | 6 => (b % m, 0)
  | _ => (if b % m ≤ old % m then 0 else old % m + 1, 0)

/-! ### Posted writes and the view of a core (R74, R75) -/

/-- A posted write performed on a memory. -/
def applyPost (m : Memory) (home : Nat) (p : Post) : Memory :=
  match p with
  | .store bs => m.writeBytes home bs
  | .red aop ty b => m.writeN home (tyBytes ty) (atomNew aop ty (m.readN home (tyBytes ty)) b.toNat).1

def Ent.overlaps (e : Ent) (home n : Nat) : Bool := decide (e.home < home + n) && decide (home < e.home + e.post.len)

/-- The posted writes of a core that are not at home and older than a number. -/
def State.postedOf (s : State) (core before : Nat) : List Ent :=
  s.ents.filter fun e => e.pending && e.core == core && decide (e.id < before)

/-- A posted write is a reduction: what it leaves is known only at home. -/
def Ent.isRed (e : Ent) : Bool := match e.post with | .red _ _ _ => true | .store _ => false

/-- Memory as the threads of a core see it: home, overlaid with the core's posted stores older than a number. A read of a location that an
older reduction has yet to write waits for it (State.redOut). -/
def State.viewBefore (s : State) (core before : Nat) : Memory :=
  ((s.postedOf core before).filter fun e => !e.isRed).foldl (fun m e => applyPost m e.home e.post) s.mem

/-- A reduction of a core, older than a number, to one of n bytes from home is on its way. A read that the core orders after it returns its
result or a later write (R74, R75): it is performed once the reduction is. -/
def State.redOut (s : State) (core before home n : Nat) : Bool := (s.postedOf core before).any fun e => e.isRed && e.overlaps home n

/-- Memory as the threads of a core see it now. -/
def State.view (s : State) (core : Nat) : Memory := s.viewBefore core s.nextId

/-- The posted writes of a core whose bytes a read returns, and the releases among them and at home that it returns. -/
def State.returned (s : State) (core before home n : Nat) : List Nat × List Release :=
  let es := (s.postedOf core before).filter fun e => e.overlaps home n
  (es.map (·.id), ((es.map (·.rel)).flatten ++ (s.tags.filter fun t => decide (home ≤ t.1) && decide (t.1 < home + n)).map (·.2)).eraseDups)

/-- Only writes that are still on their way matter to a cumulative set: posted ones that are not at home, and updates of sync words
(R272) that have not been performed. -/
def State.livePosts (s : State) (ids : List Nat) : List Nat :=
  ids.filter fun i => (s.ents.any fun e => e.id == i && e.pending) || s.upds.any fun u => u.id == i

/-! ### Scopes (R73, R81, R196) -/

/-- The scope at which a thread acts: squad and team scope of a roaming thread are thread scope. -/
def scopeOf (roam : Bool) (scope : Nat) : Nat := if roam && (scope == 1 || scope == 2) then 0 else scope

/-- Whether a thread lies within a scope around another: squad, lane, team and core of each. Scopes wider than a die hold every thread of
the package. -/
def withinScope (scope : Nat) (a b : Nat × Nat × Nat × Nat) : Bool :=
  match scope with
  | 0 => a.1 == b.1 && a.2.1 == b.2.1
  | 1 => a.1 == b.1
  | 2 => a.2.2.1 == b.2.2.1
  | 3 => a.2.2.2 == b.2.2.2
  | 4 => dieOf a.2.2.2 == dieOf b.2.2.2
  | _ => true

/-- A release and an acquire of lane l at a scope lie within each other's scopes (R81). -/
def Release.meets (r : Release) (q : Squad) (l scope : Nat) : Bool :=
  let a := (r.squad, r.lane, r.team, r.core)
  let b := (q.id, l, q.team, q.core)
  withinScope r.scope a b && withinScope (scopeOf q.roam scope) b a

/-- What releases carry that is still on its way. -/
def State.liveReleases (s : State) (rs : List Release) : List Release :=
  (rs.map fun r => { r with ids := s.livePosts r.ids }).filter fun r => !r.ids.isEmpty

/-- The bytes from its home that an update may write: a word of 16 bytes, or a control block. -/
def UpdKind.span (k : UpdKind) : Nat := match k with | .flip _ => 256 | .write bs => bs.length | _ => 16

/-! ### Sync words and stage rings (R260, R261, R267) -/

def swTarget (w : Nat) : Nat := w % 2 ^ 40
def swCount (w : Nat) : Nat := w / 2 ^ 40 % 2 ^ 40
def swOneshot (w : Nat) : Bool := bitOf w 80
def swRows (w : Nat) : Bool := bitOf w 81
def swGen (w : Nat) : Nat := w / 2 ^ 96 % 2 ^ 32

/-- A word of the fields given; the bits that the engine ignores are those of w. -/
def swPut (w target count : Nat) (oneshot rows ovf : Bool) (gen : Nat) : Nat :=
  target % 2 ^ 40 + count % 2 ^ 40 * 2 ^ 40 +
  (boolNat oneshot + 2 * boolNat rows + 4 * boolNat ovf) * 2 ^ 80 + w / 2 ^ 83 % 2 ^ 13 * 2 ^ 83 + gen % 2 ^ 32 * 2 ^ 96

/-- evaluate of R261: its loop in closed form. -/
def swEvaluate (w : Nat) : Nat :=
  let t := swTarget w
  let c := swCount w
  if t = 0 ∨ c < t then w
  else if swOneshot w then
    swPut w 0 (c - t) true (swRows w) (bitOf w 82 || c != t) (swGen w + 1)
  else
    swPut w t (c % t) false (swRows w) (bitOf w 82 || c != t) (swGen w + c / t)

/-- The count of add of R261, before its evaluate. -/
def swBump (w n : Nat) : Nat :=
  let c := swCount w + n
  swPut w (swTarget w) (min c (2 ^ 40 - 1)) (swOneshot w) (swRows w) (bitOf w 82 || decide (2 ^ 40 ≤ c)) (swGen w)

/-- add of R261. -/
def swAdd (w n : Nat) : Nat := swEvaluate (swBump w n)

/-- evaluate of R261 matches at least once, and so changes GEN. -/
def swMatches (w : Nat) : Bool := swTarget w != 0 && decide (swTarget w ≤ swCount w)

/-- Slots of a control block, the address of slot i, and its phase (R267, R272). -/
def ringSlots (nslot : Nat) : Nat := if nslot % 1024 = 0 then 1024 else nslot % 1024
def ringSlotAddr (slotlen base i : Nat) : Nat :=
  (base / 128 * 128 + i * (if slotlen % 8192 = 0 then 8192 else slotlen % 8192) * 128) % 2 ^ 64
def ringPhase (m : Memory) (block i : Nat) : Bool := (m.read (block + 64 + i / 8)).getLsbD (i % 8)

/-! ### Lines and slices (R2, R68, R69) -/

/-- The set of a line of the read-only cache: 1 MiB in 16 ways of 128 bytes has 512 sets. -/
def lineSet (pa : Nat) : Nat := Config.lineSet (pa / 128) % 512

/-- The 128-byte lines that n bytes from an address touch. -/
def lineSpan (home n : Nat) : List Nat :=
  (List.range ((home % 128 + n + 127) / 128)).map fun k => home / 128 + k

/-- A word of a slice of the package. -/
def inSlice (home : Nat) : Bool := !homeIsVault home && !homeIsHost home && homeChip home == 0

/-- The requests for a core's slice that are not accepted, in the order of their issue. -/
def State.sliceQueue (s : State) (core : Nat) : List Req :=
  s.reqs.filter fun r => r.owner == core && !r.accepted && !r.host &&
    (match r.pieces with | p :: _ => homeChip p.home == 0 | [] => true)

/-- The requests that may stand at the head of a slice's queue (R68). A request of the slice's own core arrives as it is issued; one of another
core arrives some time after, behind the older ones of its core. So a request stands behind every older one of its own core and of the
slice's core; the order of the others is open. -/
def State.sliceHeads (s : State) (core : Nat) : List Req :=
  let q := s.sliceQueue core
  q.filter fun r => !q.any fun x => decide (x.id < r.id) && (x.core == r.core || x.core == core)

/-- How many requests a slice's queue of 64 holds: those of its own core, and an open number of those under way from others (R69). -/
def State.occupancy (s : State) (core : Nat) : Nat × State :=
  let q := s.sliceQueue core
  let far := (q.filter fun r => r.core != core).length
  let (r, s) := if far = 0 then (0, s) else s.draw
  (min (q.length - far + r.toNat % (far + 1)) 64, s)

/-- A request of a core is performed n cycles after its issue. How many of them a remote one has stood in the core's outbound queue, and how
many in the slice's, is open; a load of the own slice has stood in its queue throughout, a store since it left the store buffer (R69). -/
def State.stay (s : State) (core : Nat) (slice : Option Nat) (store : Bool) (n : Nat) : State :=
  if slice = some core && !store then s.modCore core fun c => { c with sqdly := c.sqdly + n }
  else
    let (x, s) := s.draw
    let out := if slice = some core then 0 else x.toNat % (n + 1)
    let (y, s) := s.draw
    let s := if out = 0 ∨ 384 ≤ core then s else s.modCore core fun c => { c with rmdly := c.rmdly + out }
    match slice with
    | some k => s.modCore k fun c => { c with sqdly := c.sqdly + y.toNat % (n - out + 1) }
    | none => s

/-- Reads that come at some time from a cycle on stand behind requests that were in the queues of their slices before (R68), or do not reach them (R429). -/
def State.queued (s : State) (core since : Nat) (rs : List (Nat × Nat)) : Bool :=
  rs.any fun r => !s.reaches core r.1 || inSlice r.1 && (s.sliceQueue (homeCore r.1)).any fun x =>
    decide (x.arrived < since) && (x.core == core || x.core == homeCore r.1)

/-- Reads that the slices of the package accept (R69): one request for each line; they have come at some time since a cycle. -/
def State.sliceReads (s : State) (core since : Nat) (rs : List (Nat × Nat)) : State :=
  rs.foldl (fun s r =>
    if !inSlice r.1 then s
    else
      let k := homeCore r.1
      let (n, s) := s.occupancy k
      let s := if s.now ≤ since then s else s.stay core (some k) true (s.now - since)
      s.modCore k fun c => { c with sqacc := c.sqacc + (lineSpan r.1 r.2).length, sqhwm := max c.sqhwm (min (n + 1) 64) }) s

/-! ### Errors in memory (R435) -/

/-- Whether a read of n bytes meets a double-bit error; the first such word. -/
def State.eccDouble (s : State) (home n : Nat) : Option Nat :=
  (s.errs.find? fun e => e.2 && decide (e.1 * 8 < home + n) && decide (home < e.1 * 8 + 8)).map fun e => e.1 * 8

/-- Single-bit errors that a read meets are corrected, written back and counted (R435). -/
def State.eccCorrect (s : State) (home n : Nat) : State :=
  let hit := s.errs.filter fun e => !e.2 && decide (e.1 * 8 < home + n) && decide (home < e.1 * 8 + 8)
  hit.foldl (fun s e =>
    { (s.modCore (homeCore (e.1 * 8)) fun c => if homeIsVault (e.1 * 8) then c else { c with eccCount := c.eccCount + 1 }) with
      errs := s.errs.filter fun x => x != e }) s

/-- The first word with a double-bit error that a read of the pieces of an object meets. -/
def State.eccPieces (s : State) (ps : List (Nat × Nat)) : Option Nat := (ps.filterMap fun p => s.eccDouble p.1 p.2).head?

/-- Single-bit errors under the pieces of an object that is read are corrected. -/
def State.eccFix (s : State) (ps : List (Nat × Nat)) : State := ps.foldl (fun s p => s.eccCorrect p.1 p.2) s

/-- The translation of an object, which a read of a word with a double-bit error faults. -/
def eccChecked (s : State) (write : Bool) (r : Except EngFault (List (Nat × Nat))) : Except EngFault (List (Nat × Nat)) :=
  match r with
  | .error e => .error e
  | .ok ps =>
    match if write then none else s.eccPieces ps with
    | some w => .error { code := cUncorrectableMemory, addr := w % 2 ^ 52 }
    | none => .ok ps

/-- A word of memory is in use by a context: a translation of its, held in a TLB or by an operation, or a line of its in a read-only cache,
covers it. -/
def State.usesWord (s : State) (fn asc home : Nat) : Bool :=
  (s.tlb.any fun e => e.asc == ascKey fn asc && decide (e.pa ≤ home) && decide (home < e.pa + e.size)) ||
  (s.lines.any fun x => x.asc == ascKey fn asc && x.pa == home / 128 * 128) ||
  s.ops.any fun o => (match s.launch? o.launch with | some l => l.fn == fn && l.asc == asc | none => false) &&
    (o.rd ++ o.wr).any fun p => decide (p.2 ≤ home) && decide (home < p.2 + 4096)

/-- UNCORRECTABLE_MEMORY (R435): the launches of the address space that meets the error end, and those of every other that uses the word, with a
record for each whose ADDR is the device physical address of the word (notes/assumptions/52.md). -/
def State.eccEnd (s : State) (fn asc core part : Nat) (r : FaultRec) (home : Option Nat := none) : State :=
  ((s.launches.filter fun l => (l.fn == fn && l.asc == asc) || home.any (s.usesWord l.fn l.asc)).map (·.handle)).foldl
    (fun s u => if s.launchEnded u then s else s.fatal u core part [{ r with detail := 0 }]) s

/-- The end of the launches that use a word which an access of a launch has met. -/
def State.eccLaunch (s : State) (h : Word) (core part : Nat) (r : FaultRec) (home : Option Nat := none) : State :=
  match s.launch? h with
  | some l => s.eccEnd l.fn l.asc core part r home
  | none => s

def State.eccFatal (s : State) (h : Word) (core part : Nat) (eng coff : Nat) (lanes : Lanes) (pc : Word) (word : Nat) : State :=
  s.eccLaunch h core part { code := cUncorrectableMemory, eng := eng, coff := coff, lanes := lanes, pc := pc,
                            addr := BitVec.ofNat 64 (word % 2 ^ 52) } (some word)

/-! ### A change of memory at home, and its waiters (R263, R266, R268, R362, R363) -/

/-- The word that a gang waits on. -/
def Wait.word (w : Wait) : Option Nat :=
  match w with
  | .sync h _ _ _ => some h
  | .join h _ _ _ _ => some h
  | _ => Option.none

/-- Where the word that a swapped-out squad waits for stands now (R363). -/
def State.swapHome (s : State) (q : Squad) : Option Nat := q.swapWord.bind fun va => s.wordHome q va.toNat

/-- Words of waiters, of gangs and of saved squads. -/
def State.watched (s : State) : List Nat :=
  ((s.gangs.filterMap fun g => g.wait.word) ++ s.squads.filterMap fun q => s.swapHome q).eraseDups

/-- A gang that waits for a change of the generation of a word gets the new one; a change that it has once got stays (R266). -/
def Wait.seeGen (w : Wait) (word : Nat) (gen : W32) : Wait :=
  match w with
  | .sync h va g Option.none => if h = word then .sync h va g (some gen) else w
  | .join h va g sw Option.none => if h = word then .join h va g sw (some gen) else w
  | _ => w

/-- A gang that waits for a phase gets it (R268). -/
def Wait.seePhase (m : Memory) (lo n : Nat) (w : Wait) : Wait :=
  match w with
  | .ring b va i ph sel false =>
    let at8 := b + 64 + i / 8
    .ring b va i ph sel (decide (lo ≤ at8 ∧ at8 < lo + n) && ringPhase m b i == ph)
  | _ => w

/-- Memory becomes m; the bytes from home were written. A program's write evaluates the sync words of the vaults that have waiters
(R263); every change of a generation and every phase is noticed, a change by the write itself and one by an evaluate that matches alike,
even if the generation ends as it was. moved: the write is an update whose evaluate matched. The evaluation after a program's write counts as no
update (notes/assumptions/23.md). Words that are written whole are no longer in error (R435). -/
def State.commit (s : State) (m : Memory) (home n : Nat) (program : Bool) (moved : Bool := false) : State :=
  let words := s.watched.filter fun w => decide (w < home + n) && decide (home < w + 16)
  let evals (w : Nat) : Bool := program && homeIsVault w
  let m' := words.foldl (fun (m : Memory) w => if evals w then m.writeN w 16 (swEvaluate (m.readN w 16)) else m) m
  let changed := words.filterMap fun w =>
    if swGen (s.mem.readN w 16) = swGen (m.readN w 16) ∧ (evals w && swMatches (m.readN w 16)) = false ∧
      (moved && w == home) = false then none
    else some (w, BitVec.ofNat 32 (swGen (m'.readN w 16)))
  let m := m'
  { s with
    mem := m
    errs := (s.wholeWords home n).errs
    gangs := s.gangs.map fun (g : Gang) =>
      { g with wait := (changed.foldl (fun (w : Wait) c => w.seeGen c.1 c.2) g.wait).seePhase m home n }
    squads := s.squads.map fun (q : Squad) =>
      match s.swapHome q with
      | some w => if changed.any fun c => c.1 == w then { q with eligible := true } else q
      | none => q }

/-- Writes bytes at home. -/
def State.writeHome (s : State) (home : Nat) (bs : List Byte) (program : Bool) (moved : Bool := false) : State :=
  s.commit (s.mem.writeBytes home bs) home bs.length program moved

/-- The granules in which a write falls are marked for their team (R30). -/
def State.noteWritten (s : State) (home n : Nat) : State :=
  if !homeIsVault home then s
  else { s with teams := s.teams.map fun (t : Team) =>
    match t.granules home n with
    | [] => t
    | gs => { t with written := (t.written ++ gs).eraseDups } }

/-- A write of n bytes at home leaves with each of them the releases that it makes, while what they carry is on its way; a read-modify-write
keeps those that stand there (R81). -/
def State.tagHome (s : State) (home n : Nat) (keep : Bool) (rel : List Release) : State :=
  let live := s.liveReleases rel
  { s with tags := (s.tags.filter fun (t : Nat × Release) => keep || !(decide (home ≤ t.1) && decide (t.1 < home + n))) ++
      (List.range n).flatMap fun i => live.map fun r => (home + i, r) }

/-- A gang no longer waits for an access that has been performed (R77). -/
def State.unblock (s : State) (id : Nat) : State :=
  { s with gangs := s.gangs.map fun (g : Gang) => if g.block.contains id then { g with block := g.block.filter fun b => b != id, ready := s.now } else g }

/-- An AtomicOp that the host completes as an Unsupported Request ends its launch (R194; the fields of the record that R194 does not give:
notes/assumptions/58.md). -/
def State.atomicRefused (s : State) (launch : Word) (core part : Nat) (lanes : Lanes) (home : Nat) : State :=
  if s.launchEnded launch then s
  else s.fatal launch core part [{ code := cUncorrectableMemory, eng := 2, lanes := lanes, addr := BitVec.ofNat 64 (home % 2 ^ 51) }]

/-- A posted write is a reduction that the host does not complete. -/
def Ent.refused (e : Ent) : Bool :=
  e.host && e.isRed && Config.atomicUnsupported (e.home % 2 ^ 51)

/-- The request of a posted write is accepted with the last of its writes (R69, R203). -/
def State.acceptWrite (s : State) (e : Ent) : State :=
  if homeIsVault e.home || s.ents.any fun x => x.grp == e.grp && x.id != e.id && x.pending then s
  else if !inSlice e.home then s.stay e.core none true (s.now - e.arrived)
  else
    let k := homeCore e.home
    let (n, s) := s.occupancy k
    (s.stay e.core (some k) true (s.now - e.arrived)).modCore k fun c =>
      { c with sqacc := c.sqacc + (if e.lane < 33 then 1 else (lineSpan e.home e.post.len).length), sqhwm := max c.sqhwm (min (n + 1) 64) }

/-- A posted write arrives at home (R74). -/
def State.entHome (s : State) (e : Ent) : State :=
  let s := s.acceptWrite e
  if e.refused then
    { s with ents := s.ents.filter fun (x : Ent) => x.id != e.id }.atomicRefused e.launch e.core
      ((s.squad? e.squad).elim 0 Squad.part) e.who e.home
  else
  match if e.isRed then s.eccDouble e.home e.post.len else none with
  | some w =>
    { s with ents := s.ents.filter fun (x : Ent) => x.id != e.id }.eccFatal e.launch e.core ((s.squad? e.squad).elim 0 Squad.part) 2 0 e.who 0 w
  | none =>
  let s := if e.isRed then s.eccCorrect e.home e.post.len else s
  let s := s.commit (applyPost s.mem e.home e.post) e.home e.post.len (decide (e.lane < 33))
  let s := (s.tagHome e.home e.post.len e.isRed e.rel).unblock e.id
  if e.rm then { s with ents := s.ents.map fun (x : Ent) => if x.id = e.id then { x with athome := true } else x }
  else { s with ents := s.ents.filter fun (x : Ent) => x.id != e.id }

/-- A request that writes its location. -/
def Req.isAtomic (r : Req) : Bool := match r.kind with | .atom _ _ => true | .cas _ => true | _ => false

/-- Whether a request touches one of n bytes from home. -/
def Req.overlaps (r : Req) (home n : Nat) : Bool := r.pieces.any fun p => decide (p.home < home + n) && decide (home < p.home + p.n)

/-- The writes of older passes of the routing engine to bytes of a pass's write that are still on their way (R379). -/
def State.passesBefore (s : State) (e : Ent) : List Ent :=
  let pass (x : Ent) : Bool := s.ops.any fun o => some o.id == x.op && match o.i with | .route _ => true | _ => false
  if pass e then s.ents.filter fun x => x.pending && decide (x.id < e.id) && x.op != e.op && x.overlaps e.home e.post.len && pass x else []

/-- A posted write may arrive when it reaches its home (R429), no older access of its core to one of its bytes is outstanding (R75, R77), and no
older pass's write. -/
def State.entFree (s : State) (e : Ent) : Bool :=
  s.reaches e.core e.home && (s.passesBefore e).isEmpty &&
  !(s.ents.any fun x => x.pending && x.core == e.core && decide (x.id < e.id) && x.overlaps e.home e.post.len) &&
  !(s.reqs.any fun r => r.core == e.core && (!r.accepted || r.isAtomic) && decide (r.id < e.id) &&
    r.overlaps e.home e.post.len)

/-- The posted writes of a core to a location that are older than a number arrive at home first (R76). -/
def State.drainTo (s : State) (core before home n : Nat) : State :=
  ((s.postedOf core before).filter fun e => e.overlaps home n).foldl (fun s e => s.entHome e) s

/-- A write of a core to a home enters the write buffer of a vault: of another core's vault; one to the own vault enters the store
buffer (R74). -/
def vaultPosted (core home : Nat) : Bool := homeIsVault home && homeCore home != core

/-- Occupied entries of the store buffer of a core, and of its write-buffer entries at the vault of core v (R69, R74, R203; that each vault has
32 for a writing core: notes/assumptions/62.md). -/
def groupCount (es : List Ent) : Nat := ((es.map (·.grp)).eraseDups).length
def State.storeBufOcc (s : State) (core : Nat) : Nat :=
  groupCount (s.ents.filter fun e => e.pending && e.core == core && decide (e.lane < 33) && !vaultPosted core e.home && !e.rm)
def State.vaultBufOcc (s : State) (core v : Nat) : Nat :=
  groupCount (s.ents.filter fun e => e.pending && e.core == core && decide (e.lane < 33) && vaultPosted core e.home && homeCore e.home == v)
def State.remoteOcc (s : State) (core : Nat) : Nat :=
  groupCount (s.ents.filter fun e => e.pending && e.core == core && e.rm)

/-! ### Writes of engines (R84) -/

/-- An engine operation of a squad writes bytes: posted, seen by its core at once, at home later. A die-level engine writes at
home directly. -/
def State.engWrite (s : State) (core squad : Nat) (h : Word) (op : Option Nat) (home : Nat) (bs : List Byte) : State :=
  let (i, s) := s.fresh
  let s := s.noteWritten home bs.length
  { s with ents := s.ents ++ [{ id := i, grp := i, core := core, squad := squad, launch := h, lane := 33, home := home, op := op,
                                post := .store bs, host := homeIsHost home, arrived := s.now }] }

/-- Writes bytes over the pieces of a translated range. -/
def State.engWritePieces (s : State) (core squad : Nat) (h : Word) (op : Option Nat) (ps : List (Nat × Nat)) (bs : List Byte) :
    State :=
  (ps.foldl (fun (acc : State × List Byte) p =>
    (acc.1.engWrite core squad h op p.1 (acc.2.take p.2), acc.2.drop p.2)) (s, bs)).1

/-- Reads bytes over the pieces of a translated range, in a view. -/
def readPieces (m : Memory) (ps : List (Nat × Nat)) : List Byte := (ps.map fun p => m.readBytes p.1 p.2).flatten

/-- Writes bytes over the pieces of a translated range at home. -/
def writePieces (m : Memory) (ps : List (Nat × Nat)) (bs : List Byte) : Memory :=
  (ps.foldl (fun (acc : Memory × List Byte) p => (acc.1.writeBytes p.1 (acc.2.take p.2), acc.2.drop p.2)) (m, bs)).1

/-! ### Cumulative sets and fences (R73, R78, R79, R197) -/

/-- Scopes of team and wider, which a release reaches only at home (R74, R197). -/
def wideScope (roam : Bool) (scope : Nat) : Bool := scopeOf roam scope == 2 || decide (4 ≤ scopeOf roam scope)

/-- Lane l's own writes that are still on their way: posted ones, and updates of sync words (R272). -/
def State.ownWrites (s : State) (q : Squad) (l : Nat) : List Nat :=
  ((s.ents.filter fun e => e.pending && e.squad == q.id && e.who.getLsbD l).map (·.id)) ++
  (s.upds.filter fun u => u.op.isNone && u.squad == q.id && u.lanes.getLsbD l).map (·.id)

/-- The writes of the cumulative set of a thread that are still on their way (R79). -/
def State.cumulative (s : State) (q : Squad) (l : Nat) : List Nat := s.ownWrites q l ++ s.livePosts (q.lane l).seen

/-- The writes of the cumulative sets of lanes that are still on their way. -/
def State.cumulativeOf (s : State) (q : Squad) (m : Lanes) : List Nat := ((lanesOf m).map fun l => s.cumulative q l).flatten.eraseDups

/-- Posted writes among some that stand in the store buffer of another core: a thread that has migrated leaves them there (R86). -/
def State.elsewhere (s : State) (core : Nat) (ids : List Nat) : List Nat :=
  ids.filter fun i => s.ents.any fun e => e.id == i && e.pending && e.core != core

/-- Loads and atomics of a thread that have not returned. -/
def State.loadsOut (s : State) (q : Squad) (m : Lanes) : Bool :=
  s.reqs.any fun r => r.squad == q.id && r.kind != .line &&
    ((r.uni && r.held &&& m != 0) || r.pieces.any fun p => decide (p.lane < 32) && m.getLsbD p.lane)

/-- Whether a fence of the lanes of m is complete (R197): kinds 0 acq, 1 rel, 2 acqrel, 3 sc. At a scope of team or wider every write of
the cumulative sets is at home; at a narrower one, but for thread scope, none of them stands in the buffers of another core. -/
def State.fenceReady (s : State) (q : Squad) (m : Lanes) (kind scope : Nat) : Bool :=
  !s.loadsOut q m &&
  (kind == 0 || scopeOf q.roam scope == 0 ||
    (lanesOf m).all fun l =>
      (if wideScope q.roam scope then s.cumulative q l else s.elsewhere q.core (s.cumulative q l)).isEmpty)

/-- What lane l releases at a scope: of a scope of team or wider nothing that is still on its way (R79, R81). -/
def State.releaseOf (s : State) (q : Squad) (l scope : Nat) : List Release :=
  let sc := scopeOf q.roam scope
  if wideScope q.roam scope || sc == 0 then []
  else s.liveReleases [{ scope := sc, squad := q.id, lane := l, team := q.team, core := q.core, ids := s.cumulative q l }]

/-- Lane l acquires at a scope the releases given (R81): those that meet it join its cumulative set. -/
def State.takes (s : State) (q : Squad) (l scope : Nat) (rs : List Release) (x : Lane) : Lane :=
  { x with seen := s.livePosts (x.seen ++ ((rs.filter fun r => r.meets q l scope).map (·.ids)).flatten) }

/-- What a completed fence does to the sets of its lanes: an acquire takes what returned releases carry; a release of narrow scope makes
later stores carry the set (R78, R81). -/
def State.fenceLane (s : State) (q : Squad) (kind scope l : Nat) (x : Lane) : Lane :=
  let x := if kind != 1 then
      { s.takes q l scope x.got x with got := s.liveReleases (x.got.filter fun r => !r.meets q l scope) }
    else x
  if kind != 0 then { x with carry := s.liveReleases x.carry ++ s.releaseOf q l scope } else x

def State.fenceDone (s : State) (q : Squad) (m : Lanes) (kind scope : Nat) : State :=
  s.modSquad q.id fun x => x.modLanes m fun l y => s.fenceLane q kind scope l y

/-- The writes of a squad's engine operations that have retired join the cumulative sets of its lanes when a WAITE or WAITZ
releases (R79, R84). -/
def State.joinEngine (s : State) (squad : Nat) : State :=
  let ids := (s.ents.filter fun e => e.pending && e.squad == squad && e.lane == 33 &&
    !s.ops.any fun o => some o.id == e.op).map (·.id)
  s.modSquad squad fun q => q.modLanes (0xFFFFFFFF : Lanes) fun _ x => { x with seen := (x.seen ++ ids).eraseDups }

end Sys2Proof.Machine
end

