-- ==== Sys2Proof/Machine/Lane.lean ====
section
/-!
DEFINITION. The LANE instructions (chapter "Lane engine", R122 to R171). Each meaning names its operand checks and its result as
a function of one lane; laneOp does what they share.
-/
namespace Sys2Proof.Machine

/-! ### What the LANE and SFU instructions share -/

/-- The lowest lane of a set; 0 for the empty set. -/
def lowest (m : Lanes) : Nat := (lanesOf m).headD 0

/-- Writes the results of the lanes of m, each computed from the squad as it stood before (R100, R101, R102, R126). -/
def lanesPut (q : Squad) (c : Common) (k : Nat) (m : Lanes) (f : Nat → Nat × Flags) : Squad :=
  (lanesOf m).foldl (fun acc l => raiseLane (putLane acc c k l (f l).1) l (f l).2) q

/-- The squad after an instruction of k result registers: per lane, or once for a uniform destination (R103). -/
def resultPut (g : Gang) (q : Squad) (c : Common) (k : Nat) (f : Nat → Nat × Flags) : Squad :=
  let held := heldLanes c g q
  match c.dk with
  | .uni => if held = 0 then q else raiseLanes (putUniform q c k g.lanes (f (lowest held)).1) held (f (lowest held)).2
  | _ => lanesPut q c k held f

/-- An instruction of class e that writes k registers and does nothing else. -/
def laneOp (s : State) (e : Eng) (c : Common) (ok : Squad → Bool) (k : Nat) (f : State → Gang → Squad → Nat → Nat × Flags) : Result :=
  onGang s fun g q => checked s g q e (ok q)
    ((s.modSquad q.id fun _ => resultPut g q c k (f s g q)).advance g.id)

/-- A LANE instruction whose result depends on the lane's operands only. -/
def pureOp (s : State) (c : Common) (ok : Squad → Bool) (k : Nat) (f : Squad → Nat → Nat × Flags) : Result :=
  laneOp s .lane c ok k fun _ _ q l => f q l

/-- Two 32-bit sources, one 32-bit integer result. -/
def int2 (s : State) (w : FM) (f : W32 → W32 → Nat) : Result :=
  pureOp s w.c (fun q => operandsOk q w.c [(.r32, w.sa), (.r32, w.sb)] 1 true false) 1
    fun q l => (f (val32 q l w.sa) (val32 q l w.sb), 0)

/-- One 32-bit source, one 32-bit integer result. -/
def int1 (s : State) (w : FM) (f : W32 → Nat) : Result :=
  pureOp s w.c (fun q => operandsOk q w.c [(.r32, w.sa)] 1 true false) 1 fun q l => (f (val32 q l w.sa), 0)

/-- Three 32-bit sources, one 32-bit integer result. -/
def int3 (s : State) (w : F3) (f : W32 → W32 → W32 → Nat) : Result :=
  pureOp s w.c (fun q => operandsOk q w.c [(.r32, w.sa), (.r32, w.sb), (.r32, w.sc)] 1 true false) 1
    fun q l => (f (val32 q l w.sa) (val32 q l w.sb) (val32 q l w.sc), 0)

/-! ### Integer arithmetic (R132 to R135) -/

/-- An exact value wrapped to w bits, or saturated to the range of the type (R132). -/
def wrapOrSat (w : Nat) (sat u : Bool) (v : Int) : Nat :=
  let lo : Int := if u then 0 else -(2 ^ (w - 1) : Nat)
  let hi : Int := if u then (2 ^ w : Nat) - 1 else (2 ^ (w - 1) : Nat) - 1
  encodeInt w (if sat then max lo (min hi v) else v)

/-- An operand read as signed or unsigned (R132). -/
def asInt (u : Bool) (x : W32) : Int := if u then x.toNat else x.toInt
def asInt64 (u : Bool) (x : Word) : Int := if u then x.toNat else x.toInt

/-- The MOD bits of R132. -/
def modU (m : BitVec 12) : Bool := m.getLsbD 0
def modSat (m : BitVec 12) : Bool := m.getLsbD 1

def iaddFn (m : BitVec 12) (a b : W32) : Nat :=
  wrapOrSat 32 (modSat m) (modU m) (asInt (modU m) a + asInt (modU m) b)
def isubFn (m : BitVec 12) (a b : W32) : Nat :=
  wrapOrSat 32 (modSat m) (modU m) (asInt (modU m) a - asInt (modU m) b)
def imulFn (m : BitVec 12) (a b : W32) : Nat :=
  wrapOrSat 32 (modSat m) (modU m) (asInt (modU m) a * asInt (modU m) b)
def imulhFn (m : BitVec 12) (a b : W32) : Nat :=
  encodeInt 32 ((asInt (modU m) a * asInt (modU m) b) / (2 ^ 32 : Nat))
def iminFn (m : BitVec 12) (a b : W32) : Nat := encodeInt 32 (min (asInt (modU m) a) (asInt (modU m) b))
def imaxFn (m : BitVec 12) (a b : W32) : Nat := encodeInt 32 (max (asInt (modU m) a) (asInt (modU m) b))
def iabsFn (m : BitVec 12) (a : W32) : Nat := wrapOrSat 32 (modSat m) false (a.toInt.natAbs : Int)
/-- R133. -/
def imadFn (a b c : W32) : Nat := (a * b + c).toNat
/-- R134. -/
def iadd64Fn (m : BitVec 12) (a b : Word) : Nat :=
  let x := asInt64 (modU m) a
  let y := asInt64 (modU m) b
  wrapOrSat 64 (modSat m) (modU m) (if m.getLsbD 2 then x - y else x + y)
/-- R135. -/
def leaFn (m : BitVec 12) (a : Word) (b : W32) : Nat :=
  let x : Word := if m.getLsbD 3 then b.signExtend 64 else b.setWidth 64
  (a + x <<< (m.extractLsb' 0 3).toNat).toNat

def execIadd (w : FM) (s : State) : Result := int2 s w (iaddFn w.mod)
def execIsub (w : FM) (s : State) : Result := int2 s w (isubFn w.mod)
def execImul (w : FM) (s : State) : Result := int2 s w (imulFn w.mod)
def execImulh (w : FM) (s : State) : Result := int2 s w (imulhFn w.mod)
def execImad (w : F3) (s : State) : Result := int3 s w imadFn
def execIadd64 (w : FM) (s : State) : Result :=
  pureOp s w.c (fun q => operandsOk q w.c [(.r64, w.sa), (.r64, w.sb)] 2 true false) 2
    fun q l => (iadd64Fn w.mod (val64 q l w.sa) (val64 q l w.sb), 0)
def execLea (w : FM) (s : State) : Result :=
  pureOp s w.c (fun q => operandsOk q w.c [(.r64, w.sa), (.r32, w.sb)] 2 true false) 2
    fun q l => (leaFn w.mod (val64 q l w.sa) (val32 q l w.sb), 0)
def execImin (w : FM) (s : State) : Result := int2 s w (iminFn w.mod)
def execImax (w : FM) (s : State) : Result := int2 s w (imaxFn w.mod)
def execIabs (w : FM) (s : State) : Result := int1 s w (iabsFn w.mod)

/-! ### Logic, shifts, bit fields (R136 to R141) -/

/-- Two sources of 32 or, with B64, 64 bits (R136). -/
def logic2 (s : State) (w : FM) (f : Word → Word → Word) : Result :=
  if w.mod.getLsbD 0 then
    pureOp s w.c (fun q => operandsOk q w.c [(.r64, w.sa), (.r64, w.sb)] 2 true false) 2
      fun q l => ((f (val64 q l w.sa) (val64 q l w.sb)).toNat, 0)
  else
    int2 s w fun a b => ((f (a.setWidth 64) (b.setWidth 64)).setWidth 32).toNat

/-- A value of W = 32 or 64 bits and an amount SB[7:0] (R137). -/
def shift2 (s : State) (w : FM) (f : Nat → Nat → Nat → Nat) : Result :=
  if w.mod.getLsbD 0 then
    pureOp s w.c (fun q => operandsOk q w.c [(.r64, w.sa), (.r32, w.sb)] 2 true false) 2
      fun q l => (f 64 (val64 q l w.sa).toNat ((val32 q l w.sb).toNat % 256), 0)
  else
    int2 s w fun a b => f 32 a.toNat (b.toNat % 256)

def shlFn (w a n : Nat) : Nat := if n < w then a * 2 ^ n % 2 ^ w else 0
def shrFn (w a n : Nat) : Nat := if n < w then a / 2 ^ n else 0
def sarFn (w a n : Nat) : Nat := encodeInt w (signedOf w a / (2 ^ (min n (w - 1)) : Nat))
def rotlFn (w a n : Nat) : Nat := a * 2 ^ (n % w) % 2 ^ w + a / 2 ^ (w - n % w)
/-- R138. -/
def fshrFn (a b c : W32) : Nat := (b.toNat * 2 ^ 32 + a.toNat) / 2 ^ (c.toNat % 32) % 2 ^ 32

/-- Position and length of a field parameter (R139). -/
def fieldPos (p : W32) : Nat := min (p.toNat % 256) 32
def fieldLen (p : W32) : Nat := min (p.toNat / 256 % 256) (32 - fieldPos p)
/-- R139. -/
def bfxFn (m : BitVec 12) (a p : W32) : Nat :=
  let len := fieldLen p
  let f := a.toNat / 2 ^ fieldPos p % 2 ^ len
  if m.getLsbD 0 && decide (0 < len) && bitOf f (len - 1) then f + (2 ^ 32 - 2 ^ len) else f
def bfiFn (a b p : W32) : Nat :=
  let m : W32 := BitVec.ofNat 32 ((2 ^ fieldLen p - 1) * 2 ^ fieldPos p)
  ((a &&& ~~~m) ||| ((b <<< fieldPos p) &&& m)).toNat
/-- R140. -/
def popcFn (a : W32) : Nat := popCount 32 a.toNat
def clzFn (a : W32) : Nat := if a.toNat = 0 then 32 else 31 - floorLog2 a.toNat
def brevFn (a : W32) : Nat := ((List.range 32).map fun k => if a.getLsbD k then 2 ^ (31 - k) else 0).sum
/-- R141. -/
def prmtFn (m : BitVec 12) (a b : W32) : Nat :=
  let x := b.toNat * 2 ^ 32 + a.toNat
  ((List.range 4).map fun i => x / 256 ^ (m.extractLsb' (3 * i) 3).toNat % 256 * 256 ^ i).sum

def execAnd (w : FM) (s : State) : Result := logic2 s w fun a b => a &&& b
def execOr (w : FM) (s : State) : Result := logic2 s w fun a b => a ||| b
def execXor (w : FM) (s : State) : Result := logic2 s w fun a b => a ^^^ b
def execAndn (w : FM) (s : State) : Result := logic2 s w fun a b => a &&& ~~~b
def execShl (w : FM) (s : State) : Result := shift2 s w shlFn
def execShr (w : FM) (s : State) : Result := shift2 s w shrFn
def execSar (w : FM) (s : State) : Result := shift2 s w sarFn
def execRotl (w : FM) (s : State) : Result := shift2 s w rotlFn
def execFshr (w : F3) (s : State) : Result := int3 s w fshrFn
def execBfx (w : FM) (s : State) : Result := int2 s w (bfxFn w.mod)
def execBfi (w : F3) (s : State) : Result := int3 s w bfiFn
def execPopc (w : FM) (s : State) : Result := int1 s w popcFn
def execClz (w : FM) (s : State) : Result := int1 s w clzFn
def execBrev (w : FM) (s : State) : Result := int1 s w brevFn
def execPrmt (w : FM) (s : State) : Result := int2 s w (prmtFn w.mod)

/-! ### Compare, select and move (R142 to R144) -/

/-- The outcome joined with the predicate q′ of the lane (R142). -/
def combineCmp (m : BitVec 12) (x : Lane) (b : Bool) : Bool :=
  let q := x.pred (m.extractLsb' 6 5).toNat != m.getLsbD 11
  match (m.extractLsb' 4 2).toNat with
  | 1 => b && q
  | 2 => b || q
  | _ => b

/-- A combine names p0 to p23, and has no uniform form (R130, R142). -/
def combineOk (q : Squad) (w : FM) : Bool :=
  w.mod.extractLsb' 4 2 == 0 ||
    (decide ((w.mod.extractLsb' 6 5).toNat < predLimit q) && w.c.dk != .uni)

/-- ICMP's conditions (R142). -/
def icmpFn (m : BitVec 12) (a b : W32) : Bool :=
  let x := asInt (m.getLsbD 3) a
  let y := asInt (m.getLsbD 3) b
  match (m.extractLsb' 0 3).toNat with
  | 0 => decide (x = y)
  | 1 => decide (x ≠ y)
  | 2 => decide (x < y)
  | 3 => decide (x ≤ y)
  | 4 => decide (y < x)
  | _ => decide (y ≤ x)

/-- FCMP's conditions and flags (R142). -/
def fcmpFn (m : BitVec 12) (a b : Nat) : Bool × Flags :=
  let x := fvOf .f32 a
  let y := fvOf .f32 b
  let cc := (m.extractLsb' 0 3).toNat
  let nan := x.isNaN || y.isNaN
  let r :=
    match cc with
    | 0 => fvEq x y
    | 1 => !fvEq x y
    | 2 => fvLt x y
    | 3 => fvLt x y || fvEq x y
    | 4 => fvLt y x
    | 5 => fvLt y x || fvEq x y
    | 6 => !nan
    | _ => nan
  (r, if x.isSNaN || y.isSNaN || (nan && decide (2 ≤ cc ∧ cc ≤ 5)) then flNV else 0)

def execIcmp (w : FM) (s : State) : Result :=
  pureOp s w.c (fun q => operandsOk q w.c [(.r32, w.sa), (.r32, w.sb)] 1 true true && combineOk q w) 1
    fun q l => (boolNat (combineCmp w.mod (q.lane l) (icmpFn w.mod (val32 q l w.sa) (val32 q l w.sb))), 0)
def execSel (w : F3) (s : State) : Result :=
  pureOp s w.c (fun q => operandsOk q w.c [(.r32, w.sa), (.r32, w.sb), (.pred, w.sc)] 1 false false) 1
    fun q l => ((if valPred q l w.sc then val32 q l w.sa else val32 q l w.sb).toNat, 0)
def execMov (w : FM) (s : State) : Result :=
  if w.mod.getLsbD 0 then
    pureOp s w.c (fun q => operandsOk q w.c [(.r64, w.sa)] 2 true false) 2 fun q l => ((val64 q l w.sa).toNat, 0)
  else int1 s w fun a => a.toNat
def execMovi (w : FK) (s : State) : Result :=
  pureOp s w.c (fun q => operandsOk q w.c [] 1 true false) 1 fun _ _ => (w.imm.toNat, 0)

/-! ### FP32 arithmetic (R145 to R149) -/

/-- Two FP32 sources. -/
def float2 (s : State) (w : FM) (f : Nat → Nat → Nat × Flags) : Result :=
  pureOp s w.c (fun q => operandsOk q w.c [(.r32, w.sa), (.r32, w.sb)] 1 true false) 1
    fun q l => f (valFloat .f32 q l w.sa) (valFloat .f32 q l w.sb)

/-- `.sat`: clamped to [+0, 1.0], a NaN to +0 (R145). -/
def satFloat (y : Nat) : Nat :=
  let v := fvOf .f32 y
  if v.isNaN || v.isZero || v.neg? then 0
  else if fvLt (fvOf .f32 0x3F800000) v then 0x3F800000 else y

/-- FADD and FMUL around an operation (R145). -/
def faddLike (op : RMode → Nat → Nat → Nat × Flags) (m : BitVec 12) (a b : Nat) : Nat × Flags :=
  let a := if m.getLsbD 3 then fNeg .f32 a else a
  let b := if m.getLsbD 4 then fNeg .f32 b else b
  let (y, fl) := op (rmodeOf (m.extractLsb' 0 3)) a b
  (if m.getLsbD 5 then satFloat y else y, fl)

def ffmaOp (s : State) (w : F3) (mode : RMode) : Result :=
  pureOp s w.c (fun q => operandsOk q w.c [(.r32, w.sa), (.r32, w.sb), (.r32, w.sc)] 1 true false) 1
    fun q l => fFma .f32 mode (valFloat .f32 q l w.sa) (valFloat .f32 q l w.sb) (valFloat .f32 q l w.sc)

/-- The class of an FP32 value (R148). -/
def fclassOf (a : Nat) : Nat :=
  match fvOf .f32 a with
  | .nan true => 8
  | .nan false => 9
  | .inf true => 0
  | .inf false => 7
  | .fin n m _ =>
    if m = 0 then (if n then 3 else 4)
    else if m < 2 ^ 23 then (if n then 2 else 5)
    else if n then 1 else 6

/-- R149. -/
def fscaleFn (m : BitVec 12) (a : Nat) (k : W32) : Nat × Flags :=
  match fvOf .f32 a with
  | .nan sg => (canonNaN .f32, if sg then flNV else 0)
  | .inf _ => (a, 0)
  | .fin n x e =>
    if x = 0 then (a, 0)
    else roundFin .f32 (rmodeOf (m.extractLsb' 0 3)) n x (e + max (-1000) (min 1000 k.toInt))

def execFadd (w : FM) (s : State) : Result := float2 s w (faddLike (fAdd .f32) w.mod)
def execFmul (w : FM) (s : State) : Result := float2 s w (faddLike (fMul .f32) w.mod)
def execFfmaRn (w : F3) (s : State) : Result := ffmaOp s w .rn
def execFfmaRz (w : F3) (s : State) : Result := ffmaOp s w .rz
def execFfmaRd (w : F3) (s : State) : Result := ffmaOp s w .rd
def execFfmaRu (w : F3) (s : State) : Result := ffmaOp s w .ru
def execFmin (w : FM) (s : State) : Result := float2 s w (fMinMax .f32 false)
def execFmax (w : FM) (s : State) : Result := float2 s w (fMinMax .f32 true)
def execFcmp (w : FM) (s : State) : Result :=
  pureOp s w.c (fun q => operandsOk q w.c [(.r32, w.sa), (.r32, w.sb)] 1 true true && combineOk q w) 1
    fun q l =>
      let r := fcmpFn w.mod (valFloat .f32 q l w.sa) (valFloat .f32 q l w.sb)
      (boolNat (combineCmp w.mod (q.lane l) r.1), r.2)
def execFclass (w : FM) (s : State) : Result :=
  pureOp s w.c (fun q => operandsOk q w.c [(.r32, w.sa), (.r32, w.sb)] 1 true true) 1
    fun q l =>
      let m := if bitOf ((val32 q l w.sb).toNat % 1024) (fclassOf (valFloat .f32 q l w.sa)) then
        2 ^ fclassOf (valFloat .f32 q l w.sa) else 0
      (if w.c.dk == .pred then boolNat (m != 0) else m, 0)
def execFscale (w : FM) (s : State) : Result :=
  pureOp s w.c (fun q => operandsOk q w.c [(.r32, w.sa), (.r32, w.sb)] 1 true false) 1
    fun q l => fscaleFn w.mod (valFloat .f32 q l w.sa) (val32 q l w.sb)

/-! ### Packed 16-bit arithmetic (R150, R151) -/

/-- The element format: BF16 with MOD[3]. -/
def packedFmt (m : BitVec 12) : Fmt := if m.getLsbD 3 then .bf16 else .f16

/-- Both elements of a packed result; the flags are the union (R126). -/
def packElems (f : Nat → Nat × Flags) : Nat × Flags := ((f 0).1 + 2 ^ 16 * (f 1).1, (f 0).2 ||| (f 1).2)

def packed2 (s : State) (w : FM) (f : Nat → Nat → Nat × Flags) : Result :=
  pureOp s w.c (fun q => operandsOk q w.c [(.r32, w.sa), (.r32, w.sb)] 1 true false) 1
    fun q l => packElems fun e => f (valPacked (packedFmt w.mod) q l w.sa e) (valPacked (packedFmt w.mod) q l w.sb e)

def packed3 (s : State) (w : F3) (f : Fmt) : Result :=
  pureOp s w.c (fun q => operandsOk q w.c [(.r32, w.sa), (.r32, w.sb), (.r32, w.sc)] 1 true false) 1
    fun q l => packElems fun e => fFma f .rn (valPacked f q l w.sa e) (valPacked f q l w.sb e) (valPacked f q l w.sc e)

def execHadd2 (w : FM) (s : State) : Result := packed2 s w (fAdd (packedFmt w.mod) (rmodeOf (w.mod.extractLsb' 0 3)))
def execHmul2 (w : FM) (s : State) : Result := packed2 s w (fMul (packedFmt w.mod) (rmodeOf (w.mod.extractLsb' 0 3)))
def execHfma2F16 (w : F3) (s : State) : Result := packed3 s w .f16
def execHfma2Bf16 (w : F3) (s : State) : Result := packed3 s w .bf16
def execHmin2 (w : FM) (s : State) : Result := packed2 s w (fMinMax (packedFmt w.mod) false)
def execHmax2 (w : FM) (s : State) : Result := packed2 s w (fMinMax (packedFmt w.mod) true)

/-! ### Conversion (R152 to R155) -/

/-- The types of R152. -/
inductive CvtTy where
  | int (w : Nat) (unsigned : Bool)
  | flt (f : Fmt)
  deriving DecidableEq, Repr

def cvtTy (c : Nat) : CvtTy :=
  match c with
  | 0 => .int 8 false | 1 => .int 16 false | 2 => .int 32 false | 3 => .int 64 false
  | 4 => .int 8 true | 5 => .int 16 true | 6 => .int 32 true | 7 => .int 64 true
  | 8 => .flt .f32 | 9 => .flt .f16 | 10 => .flt .bf16 | 11 => .flt .e4m3 | _ => .flt .e5m2

/-- Whether a type takes an even pair. -/
def cvtWide (t : CvtTy) : Bool := match t with | .int w _ => w == 64 | .flt _ => false

def intLo (w : Nat) (u : Bool) : Int := if u then 0 else -(2 ^ (w - 1) : Nat)
def intHi (w : Nat) (u : Bool) : Int := if u then (2 ^ w : Nat) - 1 else (2 ^ (w - 1) : Nat) - 1

/-- A narrow integer result is extended to its register according to its own type (R152). -/
def extendInt (w : Nat) (u : Bool) (i : Int) : Nat :=
  let n := encodeInt w i
  let reg := if w = 64 then 64 else 32
  if u then n else encodeInt reg (signedOf w n)

/-- The clamp of a floating destination, on the exact source value (R153); none when nothing is clamped. -/
def satValue (v : FV) : Option FV :=
  if v.isNaN || v.isZero || v.neg? then some (.fin false 0 0)
  else if fvLt (.fin false 1 0) v then some (.fin false 1 0) else none

/-- A value converted to a floating format (R153). -/
def toFloat (f : Fmt) (mode : RMode) (sat : Bool) (v : FV) : Nat × Flags :=
  if sat then
    match satValue v with
    | some c => ((roundFV f mode c).1, snanFlag v)
    | none => roundFV f mode v
  else
    let (b, fl) := roundFV f mode v
    (b, fl ||| snanFlag v)

/-- A value converted to an integer type (R153). Whether it lies outside the destination range is judged on the rounded integer
(notes/assumptions/60.md). -/
def toInteger (w : Nat) (u : Bool) (mode : RMode) (v : FV) : Nat × Flags :=
  let lo := intLo w u
  let hi := intHi w u
  match v with
  | .nan _ => (0, flNV)
  | .inf n => (extendInt w u (if n then lo else hi), flNV)
  | .fin n m e =>
    if e > 200 then (extendInt w u (if n then lo else hi), if m = 0 then 0 else flNV)
    else
      let (i, inexact) := roundInt mode n m e
      if i < lo then (extendInt w u lo, flNV)
      else if hi < i then (extendInt w u hi, flNV)
      else (extendInt w u i, if inexact then flNX else 0)

/-- A conversion of the source bits raw, or of an immediate (R104, R153). Between identical floating types without SAT the bits
are copied, but for a signalling NaN (DEDUCED, notes/assumptions/8.md). -/
def cvtFn (m : BitVec 12) (imm : Option Int) (raw : Nat) : Nat × Flags :=
  let st := cvtTy (m.extractLsb' 0 4).toNat
  let dt := cvtTy (m.extractLsb' 4 4).toNat
  let mode := rmodeOf (m.extractLsb' 8 3)
  let sat := m.getLsbD 11
  match st, dt with
  | .int w u, .int w' u' =>
    let i : Int := if u then (raw % 2 ^ w : Nat) else signedOf w raw
    let j := if sat then max (intLo w' u') (min (intHi w' u') i) else i
    (extendInt w' u' j, 0)
  | .int w u, .flt f =>
    let i : Int := if u then (raw % 2 ^ w : Nat) else signedOf w raw
    toFloat f mode sat (fvOfInt i)
  | .flt f, .flt f' =>
    let b := match imm with | some i => intBits f i | none => raw % 2 ^ widthOf f
    if f = f' && !sat then (if (fvOf f b).isSNaN then (canonNaN f, flNV) else (b, 0))
    else toFloat f' mode sat (fvOf f b)
  | .flt f, .int w' u' =>
    let b := match imm with | some i => intBits f i | none => raw % 2 ^ widthOf f
    toInteger w' u' mode (fvOf f b)

/-- The immediate of a source field. -/
def srcImm (x : Src) : Option Int := match x with | .imm v => some v.toInt | _ => none

def execCvt (w : FM) (s : State) : Result :=
  let st := cvtTy (w.mod.extractLsb' 0 4).toNat
  let dt := cvtTy (w.mod.extractLsb' 4 4).toNat
  let k := if cvtWide dt then 2 else 1
  pureOp s w.c (fun q => operandsOk q w.c [(if cvtWide st then .r64 else .r32, w.sa)] k true false) k
    fun q l => cvtFn w.mod (srcImm w.sa)
      (if cvtWide st then (val64 q l w.sa).toNat else (val32 q l w.sa).toNat)

/-- Target, precision, least normal exponent and largest finite value of CVTSR (R154). -/
def srFmt (m : BitVec 12) : Fmt :=
  match (m.extractLsb' 0 2).toNat with
  | 0 => .bf16 | 1 => .f16 | 2 => .e4m3 | _ => .e5m2

/-- R154, with the exact m × 2^e of |SA| and the quantum exponent. -/
def cvtsrFn (f : Fmt) (a : Nat) (rho : Nat) : Nat × Flags :=
  match fvOf .f32 a with
  | .nan sg => (canonNaN f, if sg then flNV else 0)
  | .inf n => roundFV f .rn (.inf n)
  | .fin n m e =>
    if m = 0 then (withSign f n 0, 0)
    else
      let top := max ((floorLog2 m : Int) + e) (eminOf f)
      let qe := top - fracBits f
      let sh := (qe - e).toNat
      let up := (e - qe).toNat
      let t := m * 2 ^ up / 2 ^ sh
      let r := m * 2 ^ up % 2 ^ sh
      let gg := r * 2 ^ 16 / 2 ^ sh
      let t' := if 2 ^ 16 ≤ gg + rho then t + 1 else t
      let code : Int := (top + biasOf f - 1) * (2 ^ fracBits f : Nat) + t'
      let inexact := r != 0 || t' != t
      if code > (maxFinite f : Int) then
        (withSign f n (if f = .e4m3 then 0x7E else infBits f), flOF ||| flNX)
      else
        (withSign f n code.toNat,
          (if inexact then flNX else 0) ||| (if inexact && decide (code.toNat < 2 ^ fracBits f) then flUF else 0))

def execCvtsr (w : FM) (s : State) : Result :=
  pureOp s w.c (fun q => operandsOk q w.c [(.r32, w.sa), (.r32, w.sb)] 1 true false) 1
    fun q l => cvtsrFn (srFmt w.mod) (valFloat .f32 q l w.sa) ((val32 q l w.sb).toNat % 2 ^ 16)
def execPack2 (w : FM) (s : State) : Result :=
  pureOp s w.c (fun q => operandsOk q w.c [(.r32, w.sa), (.r32, w.sb)] 1 true false) 1
    fun q l => packElems fun e =>
      fConvert .f32 (packedFmt w.mod) (rmodeOf (w.mod.extractLsb' 0 3))
        (valFloat .f32 q l (if e = 0 then w.sa else w.sb))

/-! ### Predicates (R156, R157) -/

def execPlop (w : FM) (s : State) : Result :=
  pureOp s w.c (fun q => operandsOk q w.c [(.pred, w.sa), (.pred, w.sb)] 1 false true && w.c.dk == .pred) 1
    fun q l => (boolNat (w.mod.getLsbD (2 * boolNat (valPred q l w.sa) + boolNat (valPred q l w.sb))), 0)

/-- The predicates of a lane under the mask and value of `pmov.p` (R157). -/
def pmovPreds (p : BitVec 24) (value mask : W32) : BitVec 24 :=
  (p &&& ~~~(mask.setWidth 24)) ||| (value.setWidth 24 &&& mask.setWidth 24)

/-- A mask of a roaming thread that names p8 to p23 (R157). -/
def pmovMaskBad (q : Squad) (w : FM) (held : Lanes) : Bool :=
  q.roam && (lanesOf held).any fun l => (val32 q l w.sb).extractLsb' 8 16 != 0

def execPmov (w : FM) (s : State) : Result :=
  onGang s fun g q =>
    let held := heldLanes w.c g q
    if w.mod.getLsbD 0 then
      checked s g q .lane
        (guardFieldOk q w.c && srcOk q false .r32 w.sa && srcOk q false .r32 w.sb && !pmovMaskBad q w held)
        ((s.modSquad q.id fun _ => q.modLanes held fun l x =>
          { x with p := pmovPreds x.p (val32 q l w.sa) (val32 q l w.sb) }).advance g.id)
    else
      checked s g q .lane (operandsOk q w.c [(.r32, w.sb)] 1 false false && !pmovMaskBad q w held)
        ((s.modSquad q.id fun _ => resultPut g q w.c 1 fun l =>
          (((q.lane l).p.setWidth 32 &&& val32 q l w.sb).toNat, 0)).advance g.id)

/-! ### Cross-lane instructions (R158 to R162) -/

/-- A cross-lane instruction: f reads every participant; a uniform destination is accepted where u holds, and its sources are
read in the lanes all the same (R103). -/
def crossOp (s : State) (c : Common) (srcs : List (OpKind × Src)) (k : Nat) (u p : Bool) (f : Squad → Lanes → Nat → Nat × Flags) :
    Result :=
  onGang s fun g q =>
    checked s g q .lane (guardFieldOk q c && dstOk q c k u p && srcs.all fun x => srcOk q false x.1 x.2)
      ((s.modSquad q.id fun _ => resultPut g q c k (f q (heldLanes c g q))).advance g.id)

/-- R159. -/
def voteFn (mode : Nat) (preds : List (Nat × Bool)) : Nat :=
  match mode with
  | 0 => boolNat (preds.any (·.2))
  | 1 => boolNat (preds.all (·.2))
  | 2 => (lanesMask ((preds.filter (·.2)).map (·.1))).toNat
  | _ => boolNat (preds.all (·.2) || !preds.any (·.2))

def execVote (w : FM) (s : State) : Result :=
  let mode := (w.mod.extractLsb' 0 2).toNat
  crossOp s w.c [(.pred, w.sa)] 1 true (mode != 2)
    fun q parts _ => (voteFn mode ((lanesOf parts).map fun l => (l, valPred q l w.sa)), 0)

/-- The source lane of R160; lane l itself when the index leaves the segment. -/
def shflSource (mode seg l b : Nat) : Nat :=
  let base := l - l % seg
  let i := l % seg
  match mode with
  | 0 => base + b % seg
  | 1 => if b ≤ i then base + (i - b) else l
  | 2 => if i + b < seg then base + (i + b) else l
  | _ => base + (i ^^^ (b % seg))

def execShfl (w : FM) (s : State) : Result :=
  let mode := (w.mod.extractLsb' 0 2).toNat
  let seg := 32 / 2 ^ (w.mod.extractLsb' 2 3).toNat
  crossOp s w.c [(.r32, w.sa), (.r32, w.sb)] 1 false false
    fun q parts l =>
      let k := shflSource mode seg l (val32 q l w.sb).toNat
      ((val32 q (if parts.getLsbD k then k else l) w.sa).toNat, 0)

/-- One step of a reduction or scan (R161). -/
def rducStep (op : Nat) (acc x : W32) : W32 × Flags :=
  match op with
  | 0 => (acc + x, 0)
  | 1 => add32 acc x
  | 2 => (BitVec.ofNat 32 (encodeInt 32 (min acc.toInt x.toInt)), 0)
  | 3 => (BitVec.ofNat 32 (encodeInt 32 (max acc.toInt x.toInt)), 0)
  | 4 => (BitVec.ofNat 32 (min acc.toNat x.toNat), 0)
  | 5 => (BitVec.ofNat 32 (max acc.toNat x.toNat), 0)
  | 6 => (acc &&& x, 0)
  | 7 => (acc ||| x, 0)
  | 8 => (acc ^^^ x, 0)
  | 9 => (let r := fMinMax .f32 false acc.toNat x.toNat; (BitVec.ofNat 32 r.1, r.2))
  | _ => (let r := fMinMax .f32 true acc.toNat x.toNat; (BitVec.ofNat 32 r.1, r.2))

/-- The identity of an operation (R161). -/
def rducIdentity (op : Nat) : W32 :=
  match op with
  | 2 => 0x7FFFFFFF
  | 3 => 0x80000000
  | 4 | 6 => 0xFFFFFFFF
  | 9 => 0x7F800000
  | 10 => 0xFF800000
  | _ => 0

/-- A single combined value of `.min.f32` or `.max.f32`: a NaN becomes canonical, with invalid when it signals (R161). -/
def rducFirst (op : Nat) (x : W32) : W32 × Flags :=
  let v := fvOf .f32 x.toNat
  if (op = 9 ∨ op = 10) ∧ v.isNaN then (BitVec.ofNat 32 (canonNaN .f32), snanFlag v)
  else if op = 1 then add32 0 x
  else (x, 0)

/-- The combination of values in lane order, and its flags (R161). -/
def rducFold (op : Nat) (xs : List W32) : W32 × Flags :=
  match xs with
  | [] => (rducIdentity op, 0)
  | x :: rest =>
    rest.foldl (fun a y => let r := rducStep op a.1 y; (r.1, a.2 ||| r.2)) (rducFirst op x)

def execRduc (w : FM) (s : State) : Result :=
  let op := (w.mod.extractLsb' 0 4).toNat
  let kind := (w.mod.extractLsb' 4 2).toNat
  crossOp s w.c [(.r32, w.sa)] 1 (kind == 0) false
    fun q parts l =>
      let all := lanesOf parts
      let use := match kind with
        | 0 => all
        | 1 => all.filter fun m => decide (m ≤ l)
        | _ => all.filter fun m => decide (m < l)
      let value (m : Nat) : W32 :=
        if op = 1 ∨ op = 9 ∨ op = 10 then BitVec.ofNat 32 (valFloat .f32 q m w.sa) else val32 q m w.sa
      ((rducFold op (use.map value)).1.toNat, (rducFold op (all.map value)).2)

def execMatchL (w : FM) (s : State) : Result :=
  let wide := w.mod.getLsbD 0
  crossOp s w.c [(if wide then .r64 else .r32, w.sa)] 1 false true
    fun q parts l =>
      let value (m : Nat) : Nat := if wide then (val64 q m w.sa).toNat else (val32 q m w.sa).toNat
      let m := lanesWhere parts fun x => value x == value l
      (if w.c.dk == .pred then boolNat (m == parts) else m.toNat, 0)

/-! ### Special registers (R163, R164) -/

def execSread (w : FM) (s : State) : Result :=
  let n := w.mod.toNat
  let k := if sregWide n then 2 else 1
  laneOp s .lane w.c (fun q => guardFieldOk q w.c && dstOk q w.c k true false) k
    fun s g q l => (sregRead s g q l n, 0)

/-- The write of a special register: %fflags per lane; a comparator takes the value of one of the writing lanes, which one is
a free value. -/
def sregWrite (s : State) (g : Gang) (q : Squad) (w : FM) : State :=
  let n := w.mod.toNat
  let held := heldLanes w.c g q
  match sregCmp n with
  | none => s.modSquad q.id fun _ => q.modLanes held fun l x => { x with ff := (val32 q l w.sa).setWidth 5 }
  | some k =>
    match lanesOf held with
    | [] => s
    | l0 :: ls =>
      let (r, s) := s.draw
      let l := (l0 :: ls).getD (r.toNat % (ls.length + 1)) l0
      s.modCmp q.core k (cmpWrite n (if n < 0x118 then val64 q l w.sa else (val32 q l w.sa).setWidth 64) q.launch)

def execSwrite (w : FM) (s : State) : Result :=
  let n := w.mod.toNat
  onGang s fun g q =>
    checked s g q .lane
      (guardFieldOk q w.c && sregRW n && srcOk q false (if sregWide n then .r64 else .r32) w.sa &&
        (match sregCmp n with | some k => !cmpForeign (s.cmp q.core k) q.launch | none => true))
      ((sregWrite s g q w).advance g.id)

/-! ### Hashing and byte search (R165 to R168) -/

def hash64Fn (a b : Word) : Word := mix64 (a + b + 0x6A1D3F85C2B74E19#64)

/-- One byte of CRC-32C (R166). -/
def crcByte (c : Nat) (b : Nat) : Nat :=
  (List.range 8).foldl (fun c _ => if c % 2 = 1 then (c / 2) ^^^ 0x82F63B78 else c / 2) (c ^^^ b)

def hcrcFn (bytes : Nat) (c : W32) (d : Nat) : Nat :=
  (List.range bytes).foldl (fun c i => crcByte c (d / 256 ^ i % 256)) c.toNat

/-- Data bytes of HCRC. -/
def hcrcBytes (m : BitVec 12) : Nat :=
  match (m.extractLsb' 0 2).toNat with
  | 0 => 4 | 1 => 1 | 2 => 2 | _ => 8

/-- The first byte position, from 0 to 15, at which f holds; 16 if none. -/
def firstByte (f : Nat → Bool) : Nat := ((List.range 16).find? f).getD 16
def lastByte (f : Nat → Bool) : Nat := ((List.range 16).reverse.find? f).getD 16

/-- R167. -/
def bcmpFn (mode a b : Nat) : Nat :=
  let differs := fun i => a / 256 ^ i % 256 != b / 256 ^ i % 256
  let i := firstByte differs
  match mode with
  | 0 => boolNat (i == 16)
  | 1 => if i = 16 then 0 else if a / 256 ^ i % 256 < b / 256 ^ i % 256 then 0xFFFFFFFF else 1
  | _ => i

/-- R168. -/
def bfindFn (mode a x : Nat) : Nat :=
  let hit := fun i => a / 256 ^ i % 256 == x
  match mode with
  | 0 => firstByte hit
  | 1 => lastByte hit
  | _ => ((List.range 16).map fun i => if hit i then 2 ^ i else 0).sum

def execHash64 (w : FM) (s : State) : Result :=
  pureOp s w.c (fun q => operandsOk q w.c [(.r64, w.sa), (.r64, w.sb)] 2 true false) 2
    fun q l => ((hash64Fn (val64 q l w.sa) (val64 q l w.sb)).toNat, 0)
def execHcrc (w : FM) (s : State) : Result :=
  let wide := hcrcBytes w.mod == 8
  pureOp s w.c (fun q => operandsOk q w.c [(.r32, w.sa), (if wide then .r64 else .r32, w.sb)] 1 true false) 1
    fun q l => (hcrcFn (hcrcBytes w.mod) (val32 q l w.sa)
      (if wide then (val64 q l w.sb).toNat else (val32 q l w.sb).toNat), 0)
def execBcmp (w : FM) (s : State) : Result :=
  pureOp s w.c (fun q => operandsOk q w.c [(.quad, w.sa), (.quad, w.sb)] 1 true false) 1
    fun q l => (bcmpFn (w.mod.extractLsb' 0 2).toNat (valQuad q l w.sa) (valQuad q l w.sb), 0)
def execBfind (w : FM) (s : State) : Result :=
  pureOp s w.c (fun q => operandsOk q w.c [(.quad, w.sa), (.r32, w.sb)] 1 true false) 1
    fun q l => (bfindFn (w.mod.extractLsb' 0 2).toNat (valQuad q l w.sa) ((val32 q l w.sb).toNat % 256), 0)

end Sys2Proof.Machine
end

