-- ==== Sys2Proof/Machine/MemPort.lean ====
section
/-!
DEFINITION. The memory port (R181 to R204): addresses, the decision on faults across a gang (R108), parking and departing lanes,
and the instructions LD, LDA, ST, STL, ATOM, RED, CAS, FENCE, PREF and CVTA.
-/
namespace Sys2Proof.Machine

/-! ### Fields of the MEM words -/

/-- Bytes and registers of a size code (R182, R183). -/
def szBytes (sz : Nat) : Nat := [1, 1, 2, 2, 4, 8, 16].getD sz 1
def szRegs (sz : Nat) : Nat := if sz = 6 then 4 else if sz = 5 then 2 else 1
def szSigned (sz : Nat) : Bool := sz == 1 || sz == 3
/-- SCOPE of LDA and STL (R182). -/
def faScope (m : BitVec 11) : Nat := (m.extractLsb' 5 3).toNat
/-- AOP, TY, SCOPE and ORD of ATOM, RED and RATOM (R190). -/
def atomAop (m : BitVec 12) : Nat := (m.extractLsb' 0 4).toNat
def atomTy (m : BitVec 12) : Nat := (m.extractLsb' 4 3).toNat
def atomScope (m : BitVec 12) : Nat := (m.extractLsb' 7 3).toNat
def atomOrd (m : BitVec 12) : Nat := (m.extractLsb' 10 2).toNat
/-- W64, SCOPE, FORD and SORD of CAS (R193). -/
def casW64 (m : BitVec 12) : Bool := m.getLsbD 6
def casScope (m : BitVec 12) : Nat := (m.extractLsb' 3 3).toNat
def casFacq (m : BitVec 12) : Bool := m.getLsbD 2
def casOrd (m : BitVec 12) : Nat := (m.extractLsb' 0 2).toNat
/-- Orderings: 1 and 3 acquire, 2 and 3 release. -/
def ordAcq (o : Nat) : Bool := o == 1 || o == 3
def ordRel (o : Nat) : Bool := o == 2 || o == 3

/-- The address of an FA access in lane l (R181). -/
def faAddr (w : FA) (q : Squad) (l : Nat) : Nat := (val64 q l w.base + w.off.signExtend 64).toNat

/-! ### What a MEM word accesses -/

/-- The access of one lane: its address, its size, and where it leads. -/
structure Acc where
  lane : Nat
  va : Nat
  spot : Spot
  deriving DecidableEq, Repr

/-- The accesses of a MEM or MIG word: size, whether it stores, reads and writes atomically, and needs W = 1, its base operand,
and its destination registers. -/
structure MemDesc where
  c : Common
  n : Nat
  store : Bool
  atomic : Bool
  /-- one access per gang (R185) -/
  uniform : Bool
  /-- no alignment applies and W does not matter (MIGR) -/
  plain : Bool := false
  base : Src
  /-- registers written -/
  regs : Nat
  addr : Squad → Nat → Nat
  ok : Squad → Bool

/-- Legality of a store's data register: read as a source of kind 00 or 01 (R183). -/
def storeOk (q : Squad) (c : Common) (base : Src) (k : Nat) : Bool :=
  guardFieldOk q c && srcOk q (c.dk == .uni) .base base &&
  match c.dk with
  | .vec => runOk c.dn.toNat k (vecLimit q)
  | .uni => runOk c.dn.toNat k (uniLimit q)
  | _ => false

def ldDesc (w : FA) : MemDesc :=
  { c := w.c, n := szBytes (szOf w.mod), store := false, atomic := false, uniform := w.c.dk == .uni, base := w.base,
    regs := szRegs (szOf w.mod), addr := faAddr w, ok := fun q => operandsOk q w.c [(.base, w.base)] (szRegs (szOf w.mod)) true false }
def stDesc (w : FA) : MemDesc :=
  { c := w.c, n := szBytes (szOf w.mod), store := true, atomic := false, uniform := w.c.dk == .uni, base := w.base, regs := 0,
    addr := faAddr w, ok := fun q => storeOk q w.c w.base (szRegs (szOf w.mod)) }
def atomDesc (w : FM) : MemDesc :=
  let n := tyBytes (atomTy w.mod)
  { c := w.c, n := n, store := false, atomic := true, uniform := w.c.dk == .uni, base := w.sa, regs := n / 4,
    addr := fun q l => (val64 q l w.sa).toNat,
    ok := fun q => operandsOk q w.c [(.base, w.sa), (if n = 8 then .r64 else .r32, w.sb)] (n / 4) true false }
def redDesc (w : FM) : MemDesc :=
  let n := tyBytes (atomTy w.mod)
  { c := w.c, n := n, store := true, atomic := true, uniform := false, base := w.sa, regs := 0,
    addr := fun q l => (val64 q l w.sa).toNat,
    ok := fun q => guardFieldOk q w.c && srcOk q false .base w.sa && srcOk q false (if n = 8 then .r64 else .r32) w.sb }
def casDesc (w : FM) : MemDesc :=
  let n := if casW64 w.mod then 8 else 4
  { c := w.c, n := n, store := false, atomic := true, uniform := w.c.dk == .uni, base := w.sa, regs := n / 4,
    addr := fun q l => (val64 q l w.sa).toNat,
    ok := fun q => operandsOk q w.c [(.base, w.sa), (if n = 8 then .quad else .base, w.sb)] (n / 4) true false }

/-- The accesses of an instruction of a MEM clause that R39 translates ahead. -/
def memDesc (i : Instr) : Option MemDesc :=
  match i with
  | .ld w => some (ldDesc w)
  | .lda w => some (ldDesc w)
  | .st w => some (stDesc w)
  | .stl w => some (stDesc w)
  | .atom w => some (atomDesc w)
  | .red w => some (redDesc w)
  | .cas w => some (casDesc w)
  | _ => none

/-- The home that MIGR finds (R252): in the lateral-vault aperture every offset of a vault names its core. -/
def plainSpot (s : State) (g : Gang) (q : Squad) (l a : Nat) : Spot :=
  match apertureOf a with
  | .lateral =>
    let core := dieOf q.core * 96 + (a - latBase) / 2 ^ 23
    if (s.fnOf q.launch).owns core then .vault (vaultHome core ((a - latBase) % 2 ^ 23)) core else .fault cAperture 5 7
  | _ => spotOf s g q l a 1

/-- The accesses of a gang under a description; a uniform access is made once, for the lowest lane whose guard holds. -/
def accsOf (s : State) (g : Gang) (q : Squad) (d : MemDesc) : List Acc :=
  let held := heldLanes d.c g q
  (if d.uniform then (lanesOf held).take 1 else lanesOf held).map fun l =>
    let a := d.addr q l
    { lane := l, va := a, spot := if d.plain then plainSpot s g q l a else spotOf s g q l a d.n }

/-! ### Look-ahead within a clause (R39) -/

/-- Registers that a word writes: vector or not, first, count. -/
def MemDesc.writes (d : MemDesc) : List (Bool × Nat × Nat) :=
  if d.c.nw || d.regs == 0 then [] else
  match d.c.dk with
  | .vec => [(true, d.c.dn.toNat, d.regs)]
  | .uni => [(false, d.c.dn.toNat, d.regs)]
  | _ => []

/-- Registers that a CVTA writes (R199). -/
def cvtaWrites (w : FM) : List (Bool × Nat × Nat) :=
  if w.c.nw then [] else
  match w.c.dk with
  | .vec => [(true, w.c.dn.toNat, 2)]
  | .uni => [(false, w.c.dn.toNat, 2)]
  | _ => []

/-- Whether the base pair of a word is among registers that are not yet written. -/
def baseUnknown (ws : List (Bool × Nat × Nat)) (x : Src) : Bool :=
  ws.any fun w =>
    match x with
    | .vec n => w.1 && decide (n.toNat < w.2.1 + w.2.2) && decide (w.2.1 < n.toNat + 2)
    | .uni n => !w.1 && decide (n.toNat < w.2.1 + w.2.2) && decide (w.2.1 < n.toNat + 2)
    | _ => true

/-- The result of a CVTA of an address (R199). -/
def cvtaFn (s : State) (q : Squad) (op : Nat) (a : Nat) : Nat :=
  let none64 := 2 ^ 64 - 1
  match op with
  | 0 => if a % 2 ^ 32 < 2 ^ 26 then scrBase + a % 2 ^ 32 else none64
  | 1 => if apertureOf a = .scratch then a - scrBase else none64
  | 2 =>
    if q.roam then none64
    else if apertureOf a = .scratch then
      match s.team? q.team with
      | some t =>
        if a - scrBase < t.scratch then
          let p := scratchSpot t (a - scrBase)
          latBase + posOf p.2 * 2 ^ 23 + homeOffset p.1
        else none64
      | none => none64
    else none64
  | _ => (apertureOf a).code

/-- The result of a CVTA in lane l. -/
def cvtaVal (s : State) (q : Squad) (w : FM) (l : Nat) : Nat :=
  let op := (w.mod.extractLsb' 0 3).toNat
  cvtaFn s q op (if op = 0 then (val32 q l w.sa).toNat else (val64 q l w.sa).toNat)

/-- The registers of a squad once a CVTA of the clause has run, when its operand is known, and the registers that are then not known. -/
def cvtaAhead (s : State) (g : Gang) (q : Squad) (w : FM) (ws : List (Bool × Nat × Nat)) : Squad × List (Bool × Nat × Nat) :=
  let n := if (w.mod.extractLsb' 0 3).toNat = 3 then 1 else 2
  let known := match w.sa with | .vec _ => !baseUnknown ws w.sa | .uni _ => !baseUnknown ws w.sa | .imm _ => true | .lat _ => false
  if known then
    (resultPut g q w.c n fun l => (cvtaVal s q w l, 0), ws.filter fun x => !(cvtaWrites w).any fun y =>
      x.1 == y.1 && decide (y.2.1 ≤ x.2.1) && decide (x.2.1 + x.2.2 ≤ y.2.1 + n))
  else (q, ws ++ cvtaWrites w)

/-- The accesses of fuel words of a clause from position k, with their positions: those whose addresses can be formed. A base that an earlier
load of the clause has yet to write is not known before that load has been performed (notes/assumptions/64.md). -/
def aheadFrom (s : State) (g : Gang) (q : Squad) (fuel k : Nat) (ws : List (Bool × Nat × Nat)) : List (Nat × MemDesc × Acc) :=
  match fuel with
  | 0 => []
  | f + 1 =>
    match g.header.classAt k with
    | some .mem =>
      match decodeWord .mem (g.header.isTailAt k) (g.words.getD (k - 1) 0) with
      | .ok i =>
        match memDesc i with
        | some d =>
          (if d.ok q && !baseUnknown ws d.base then (accsOf s g q d).map fun a => (k, d, a) else []) ++
            aheadFrom s g q f (k + 1) (ws ++ d.writes)
        | none =>
          match i with
          | .cvta w => let r := cvtaAhead s g q w ws; aheadFrom s g r.1 f (k + 1) r.2
          | _ => aheadFrom s g q f (k + 1) ws
      | .error _ => []
    | _ => []

/-- The later accesses of the clause (R39); a roaming thread's clause has none that translates (R98). -/
def lookAhead (s : State) (g : Gang) (q : Squad) (d : MemDesc) : List (Nat × MemDesc × Acc) :=
  if q.roam then []
  else aheadFrom s g q (g.header.len - g.pos) (g.pos + 1) (d.writes ++ g.pend.map fun p => (p.2.1, p.2.2.1, p.2.2.2))

/-! ### The decision across the gang (R108) -/

/-- The faults of an access: code, reason and level; PAGE_NOT_PRESENT is not among them. The level of a PERMISSION fault, which R64 does not
give, is 7 (notes/assumptions/16.md). -/
def accFaults (d : MemDesc) (x : Acc) : List (Nat × Nat × Nat) :=
  (match x.spot with
   | .fault c r l => if c = cPageNotPresent then [] else [(c, r, l)]
   | .page e _ => if (d.store || d.atomic) && !e.w && !d.plain then [(cPermission, 0, 7)] else []
   | _ => []) ++
  (if x.va % d.n = 0 ∨ d.plain = true then [] else [(cMisaligned, 0, 7)])

def Acc.absent (x : Acc) : Bool := match x.spot with | .fault c _ _ => c == cPageNotPresent | _ => false

/-- The record of a lane that parks (R200): its LANES names it alone. -/
def absentRec (g : Gang) (pos : Nat) (d : MemDesc) (x : Acc) (lane : Nat) : FaultRec :=
  let (r, l) := match x.spot with | .fault _ r l => (r, l) | _ => (0, 0)
  { code := cPageNotPresent, eng := g.header.eng.toNat, coff := pos, lanes := lanesMask [lane], pc := g.pc,
    addr := BitVec.ofNat 64 x.va, detail := memDetail r l (d.store && true) d.atomic false false }

/-- Walks begin for the pages that an instruction misses (R62), one for each page, and the instruction waits in place. -/
def State.startWalks (s : State) (g : Gang) (q : Squad) (vas : List Nat) : State :=
  let key := ascKey (s.spaceOf q.launch).1.id (s.spaceOf q.launch).2.id
  let pages := ((vas.map fun a => a / 4096).eraseDups).filter fun p =>
    !s.walks.any fun w => w.gang == g.id && !w.pref && w.va.toNat / 4096 == p
  let s := pages.foldl (fun s p =>
    let (n, s) := s.fresh
    { (s.modCore q.core fun c => { c with tlbmiss := c.tlbmiss + 1 }) with
      walks := s.walks ++ [{ id := n, core := q.core, asc := key, va := BitVec.ofNat 64 (p * 4096), gang := g.id, launch := q.launch,
                             part := q.part, since := s.now }] }) s
  s.stall g.id .walk

/-! ### Lanes that leave a roaming gang -/

/-- Lanes of a roaming gang that leave their slots; a gang without lanes ends, and its record goes with its last thread. -/
def State.vacate (s : State) (squad : Nat) (m : Lanes) : State :=
  let s := s.modSquad squad fun q => q.modLanes m fun _ _ => {}
  match s.squad? squad with
  | some q => if q.existing = 0 then { s with squads := s.squads.filter fun x => x.id != squad } else s
  | none => s

/-- Lanes leave the gang at g; without lanes it ends. -/
def State.shrink (s : State) (g : Nat) (m : Lanes) : State :=
  match s.gang? g with
  | some x => if x.lanes &&& ~~~m = 0 then { s with gangs := s.gangs.filter fun y => y.id != g }
              else s.modGang g fun y => { y with lanes := y.lanes &&& ~~~m }
  | none => s

/-- A leaf that cannot be used is discarded: the launch that its LAUNCH field names ends with UNCORRECTABLE_MEMORY, and the host hears of
it with no launch named when that field cannot be trusted (R236): in an event of function 0, for no rule names another (notes/assumptions/67.md). -/
def State.badLeaf (s : State) (core : Nat) (x : Leaf) (trusted : Bool) : State :=
  let r : FaultRec := { code := cUncorrectableMemory }
  if trusted && (s.launch? x.launch).isSome then
    (if s.launchEnded x.launch then s else s.fatal x.launch core 0 [r]).modLaunch x.launch fun l => { l with live := l.live - 1 }
  else s.report { fn := 0, kind := 1, die := dieOf core, core := core, frec := r }

/-- An entry leaves its ring, whose bytes are read: k has it, unless they hold an error that cannot be corrected (R236, R435). -/
def State.ringRead (s : State) (r : RingEnt) (k : State → State) : State :=
  let at0 := sliceHome r.core (ringBase (s.core r.core) + 128 * r.slot)
  match s.eccDouble at0 128 with
  | some w => (s.ringTake r.core r.slot).badLeaf r.core r.leaf (w != at0 + 24)
  | none => k ((s.eccCorrect at0 128).ringTake r.core r.slot)

/-- A roaming lane held with its fault record (R202, R245). -/
def State.ringHold (s : State) (core : Nat) (x : Leaf) (r : FaultRec) : State :=
  let x := { x with kind := 4, dcore := core }
  if s.ringOcc core < (s.core core).ringCap then s.ringPut core x (some r)
  else
    match s.rings.find? fun e => e.core == core && e.frec.isNone with
    | some e => (s.ringRead e fun s => s.toPool core e.leaf none).ringPut core x (some r)
    | none => s.toPool core x (some r)

/-- The travel context of a lane of a roaming gang with its cumulative set, bound for the core and the chip that it stands on. -/
def State.travel (s : State) (q : Squad) (l kind : Nat) (pc : Word) : Leaf :=
  { leafOf q l kind pc with
    dchip := (s.spaceOf q.launch).2.chip, seen := s.cumulative q l, got := (q.lane l).got, carry := (q.lane l).carry }

/-- Roaming lanes held with their records in a spill ring (R202, R245); each hold is a fault save of KIND 2, without a frame (R422;
notes/assumptions/48.md). -/
def State.holdRoaming (s : State) (g : Gang) (q : Squad) (rs : List (Nat × FaultRec)) : State :=
  let s := rs.foldl (fun s x => (s.ringHold q.core { s.travel q x.1 4 g.pc with own := s.ownWrites q x.1 } x.2).reportFault 2 q.launch q.core q.part 0 x.2) s
  (s.shrink g.id (lanesMask (rs.map (·.1)))).vacate q.id (lanesMask (rs.map (·.1)))

/-- The core and the chip to which an access of a roaming lane migrates it (R238). -/
def migrates (g : Gang) (q : Squad) (x : Acc) : Option (Nat × Nat) :=
  match x.spot with
  | .page e home =>
    if q.roam && !g.handler && !(q.lane x.lane).pin && e.w && !homeIsHost home && !(homeChip home == 0 && homeCore home == q.core) then
      some (homeCore home, homeChip home)
    else none
  | _ => none

/-- Lanes leave the gang for the migration engine (R239); each with the core and the chip that it is bound for. -/
def State.departing (s : State) (g : Gang) (q : Squad) (ts : List (Nat × Nat × Nat)) : State :=
  let s := s.modSquad q.id fun x => ts.foldl (fun (x : Squad) t =>
    x.modLane t.1 fun y => { y with st := .departing t.2.1 t.2.2 none, pc := g.pc }) x
  s.shrink g.id (lanesMask (ts.map (·.1)))

/-- The home of an access that has one. -/
def Spot.home? (x : Spot) : Option Nat :=
  match x with
  | .vault h _ => some h
  | .stack h => some h
  | .page _ h => some h
  | _ => none

/-- A write that must come before an access of lane l to one of n bytes from home is still on its way: an update that a thread of the core
has issued or that the thread's cumulative set holds (R272), or a write of that set that stands in the buffers of a core that it has left
(R75, R81). -/
def State.writePending (s : State) (q : Squad) (l home n : Nat) : Bool :=
  let mine := s.cumulative q l
  (s.upds.any fun u => u.op.isNone && (u.core == q.core || mine.contains u.id) && decide (u.home < home + n) &&
    decide (home < u.home + u.kind.span)) ||
  (let ids := s.elsewhere q.core mine
   s.ents.any fun e => ids.contains e.id && e.overlaps home n)

/-- Such a write, or a reduction of the core, must come before a read (R75). -/
def State.readPending (s : State) (q : Squad) (l home n : Nat) : Bool := s.writePending q l home n || s.redOut q.core s.nextId home n

/-- A write that is still on its way stands before an access: a read awaits the reductions of its core too, where it is performed as it
issues. -/
def State.updPending (s : State) (q : Squad) (d : MemDesc) (x : Acc) : Bool :=
  match x.spot.home? with
  | some home =>
    if d.store || d.atomic || d.plain || !homeIsVault home then s.writePending q x.lane home d.n else s.readPending q x.lane home d.n
  | none => false

/-- The memory port of the gang's partition is taken: by an instruction of the present cycle, by another gang's store that a full buffer stalls in
place, or by the instruction that stands at port 0 when the gang's stands at port 1 (R203). -/
def State.portBusy (s : State) (g : Gang) (q : Squad) : Bool :=
  let p := s.part q.core q.part
  let mate (x : Gang) : Bool := x.id != g.id && x.phase == .body && x.header.classAt x.pos == some .mem &&
    match s.squad? x.squad with | some y => y.core == q.core && y.part == q.part && y.shadow == q.shadow | none => false
  p.memAt == s.now + 1 ||
  (s.gangs.any fun x => mate x && (p.memHold == some x.id ||
    (x.wait == .none && x.active && x.port.any fun k => decide (k < g.port.getD 2))))

/-- An instruction of the gang takes the port in the present cycle. -/
def State.portTaken (s : State) (q : Squad) : State := s.modPart q.core q.part fun p => { p with memAt := s.now + 1 }

/-- The gang's instruction no longer holds the port in place. -/
def State.portFree (s : State) (g : Gang) (q : Squad) : State :=
  if (s.part q.core q.part).memHold = some g.id then s.modPart q.core q.part fun p => { p with memHold := none } else s

/-- An instruction of the port that accesses no memory: FENCE, PREF, CVTA. -/
def onPort (s : State) (g : Gang) (q : Squad) (k : State → State) : State :=
  if s.portBusy g q then s.stall g.id .port else k (s.portTaken q)

/-- THE STEPS OF AN INSTRUCTION OF MEMORY UP TO ITS ACCESSES (R98, R108, R39, R189). The continuation performs the accesses that
remain, in a gang whose other lanes have parked, been held or departed. first: the accesses for which a roaming thread's instruction
must stand first in its clause, else ILLEGAL_CLAUSE names every active lane and address 0, which R98 leaves open (DESIGN CHOICE,
notes/assumptions/73.md); port: it takes the memory port; goes: where an access migrates its lane to. -/
def memSettleBy (first : Acc → Bool) (port : Bool) (goes : Gang → Squad → Acc → Option (Nat × Nat))
    (s : State) (g : Gang) (q : Squad) (d : MemDesc) (k : State → Gang → Squad → List Acc → State) : State :=
  let held := heldLanes d.c g q
  let accs := accsOf s g q d
  if accs.isEmpty then (if port then s.portFree g q else s).advance g.id
  else if port && s.portBusy g q then s.stall g.id .port
  else if q.roam && g.pos != 1 && accs.any first then s.decodeTrap g cIllegalClause
  else
    let s := if port then s.portFree g q else s
    let later := lookAhead s g q d
    let misses := (accs.filter fun x => x.spot == .miss) ++ ((later.map fun x => x.2.2).filter fun x => x.spot == .miss)
    if !misses.isEmpty then s.startWalks g q (misses.map (·.va))
    else
      let fs := accs.map fun x => (x, accFaults d x)
      match ((fs.map (·.2)).flatten.map (·.1)).min? with
      | some code =>
        let bad := fs.filter fun x => x.2.any fun f => f.1 == code
        let mask := if d.uniform then held else lanesMask (bad.map fun x => x.1.lane)
        match bad with
        | (x, l) :: _ =>
          let f := (l.find? fun f => f.1 == code).getD (code, 0, 7)
          s.takeTrap g code mask (BitVec.ofNat 64 x.va) (memDetail f.2.1 f.2.2 d.store d.atomic false false)
        | [] => s
      | none =>
        let absent := ((accs.filter (·.absent)).map fun x => (g.pos, d, x)) ++ later.filter fun x => x.2.2.absent
        let lanesOfAcc (x : Nat × MemDesc × Acc) : List Nat :=
          if x.2.1.uniform then lanesOf (heldLanes x.2.1.c g q) else [x.2.2.lane]
        let parks := absent.foldl (fun acc x =>
          acc ++ ((lanesOfAcc x).filter fun l => !acc.any fun y => y.1 == l).map fun l => (l, absentRec g x.1 x.2.1 x.2.2 l))
          ([] : List (Nat × FaultRec))
        let gone := lanesMask (parks.map (·.1))
        if q.roam && s.loadsOut q gone then s.stall g.id .port else
        let s := if parks.isEmpty then s
                 else if q.roam then s.holdRoaming g q parks
                 else s.park g gone fun l => ((parks.find? fun y => y.1 == l).map (·.2)).getD {}
        let accs := accs.filter fun x => !gone.getLsbD x.lane
        let moving := (accs.map fun x => (if d.uniform then lanesOf held else [x.lane]).filterMap fun l =>
          (goes g q { x with lane := l }).map fun t => (l, t)).flatten
        let s := if moving.isEmpty then s else s.departing g q moving
        let stays (l : Nat) : Bool := !moving.any fun y => y.1 == l
        let accs := accs.filterMap fun x =>
          if d.uniform then ((lanesOf held).find? stays).map fun l => { x with lane := l }
          else if stays x.lane then some x else none
        if accs.any fun x => s.updPending q d x then s.stall g.id .port else
        match s.gang? g.id, s.squad? q.id with
        | some g', some q' =>
          if accs.isEmpty then s.advance g.id
          else k (if port then s.portTaken q else s) g' q' accs
        | _, _ => s

/-- A MEM instruction: in a roaming thread a global access stands first in its clause (R98), and a writable one of another slice
migrates (R238). -/
def memSettle (s : State) (g : Gang) (q : Squad) (d : MemDesc) (k : State → Gang → Squad → List Acc → State) : State :=
  memSettleBy (fun x => apertureOf x.va == .global) true migrates s g q d k

/-! ### Release fences before an instruction (R78, R186, R193) -/

/-- Performs k once a release fence of the lanes of m is complete; until then the gang waits (R197). -/
def withRelease (s : State) (g : Gang) (q : Squad) (m : Lanes) (need : Bool) (scope : Nat) (k : State → State) : State :=
  if !need || g.fenced || s.fenceReady q m 1 scope then k s
  else s.hold g.id (.fence 1 scope m)

/-- What a write of the lanes of m carries for R81: what their earlier release fences left, and at a release their cumulative sets. -/
def State.carried (s : State) (q : Squad) (m : Lanes) (release : Bool) (scope : Nat) : List Release :=
  ((lanesOf m).map fun l => s.liveReleases (q.lane l).carry ++ (if release then s.releaseOf q l scope else [])).flatten

/-- The lanes whose access an access is: all whose guard holds, when it is uniform (R185). -/
def Acc.lanes (x : Acc) (d : MemDesc) (held : Lanes) : Lanes := if d.uniform then held else lanesMask [x.lane]

/-! ### Error correction on a read (R435) -/

/-- A read of n bytes at home by a gang: single-bit errors are corrected; a double-bit error ends the launches that use it. -/
def eccRead (s : State) (g : Gang) (q : Squad) (homes : List (Nat × Nat)) (k : State → State) : State :=
  match (homes.filterMap fun h => s.eccDouble h.1 h.2) with
  | w :: _ => s.eccFatal q.launch q.core q.part g.header.eng.toNat g.pos g.lanes g.pc w
  | [] => k (homes.foldl (fun s h => s.eccCorrect h.1 h.2) s)

/-! ### Loads -/

/-- How an access is served (R188). -/
inductive Route where
  /-- at once, from a vault or a line of the read-only cache -/
  | now (v : Nat) (home : Nat)
  /-- by the slice controller of the own slice -/
  | own (home : Nat)
  /-- from another slice; blocking or not -/
  | remote (home : Nat) (blocks : Bool)
  | host (home : Nat)
  /-- a miss of the read-only cache: address space, line, home; whether the line is allocated -/
  | fill (home asc va : Nat) (alloc : Bool)
  deriving DecidableEq, Repr

/-- A line of the read-only cache of a core that holds an address (R66). -/
def State.roLine (s : State) (core asc va pa : Nat) : Option RcLine :=
  s.lines.find? fun x => x.core == core && x.asc == asc && x.va == va / 128 * 128 && x.pa == pa / 128 * 128

/-- The path of a load of n bytes (R66, R188). -/
def loadRoute (s : State) (q : Squad) (bypass noalloc : Bool) (n : Nat) (x : Acc) : Route :=
  match x.spot with
  | .vault home _ => .now ((s.view q.core).readN home n) home
  | .stack home => .own home
  | .page e home =>
    let key := ascKey (s.spaceOf q.launch).1.id (s.spaceOf q.launch).2.id
    let far : Route :=
      if homeIsHost home then .host home
      else if homeChip home = 0 ∧ homeCore home = q.core then .own home
      else .remote home e.w
    if !e.w && !e.noc && !bypass then
      match s.roLine q.core key x.va home with
      | some ln => .now (fieldAt ln.bytes (home % 128) n) home
      | none => .fill home key (x.va / 128 * 128) (!noalloc)
    else far
  | _ => .now 0 0

/-- Sign extension of a loaded value (R183). -/
def loadExt (n : Nat) (sx : Bool) (v : Nat) : Nat := if sx then encodeInt 32 (signedOf (8 * n) v) else v

/-- Writes n loaded bytes to the registers from reg of the destination, and to the latch. -/
def loadPut (q : Squad) (c : Common) (uni : Bool) (active : Lanes) (n reg lane v : Nat) : Squad :=
  let c := { c with dn := c.dn + BitVec.ofNat 9 reg }
  if uni then putUniform q c (max 1 (n / 4)) active v else putLane q c (max 1 (n / 4)) lane v

/-- The part of a key under which requests are told apart: path, and line or word (R203). -/
def Route.key (r : Route) : Nat × Nat × Nat :=
  match r with
  | .now _ _ => (0, 0, 0)
  | .own h => (1, h / 128, 0)
  | .remote h b => (2, h / 8, boolNat b)
  | .host h => (3, h / 8, 0)
  | .fill h a v al => (if al then 4 else 5, h / 128, a * 2 ^ 64 + v)

/-- The pieces of an access on its path: a remote or host access of 16 bytes takes two words. -/
def piecesOf (r : Route) (lane n : Nat) (b cmp : Word) : List (Route × Piece) :=
  let one (r : Route) (home n reg : Nat) : Route × Piece := (r, { lane := lane, home := home, n := n, reg := reg, b := b, cmp := cmp })
  match r with
  | .now _ _ => []
  | .own h => if n = 16 then [one r h 8 0, one r (h + 8) 8 2] else [one r h n 0]
  | .fill h _ _ _ => if n = 16 then [one r h 8 0, one r (h + 8) 8 2] else [one r h n 0]
  | .remote h w => if n = 16 then [one r h 8 0, one (.remote (h + 8) w) (h + 8) 8 2] else [one r h n 0]
  | .host h => if n = 16 then [one r h 8 0, one (.host (h + 8)) (h + 8) 8 2] else [one r h n 0]

/-- Sends requests, one for each key, and records what the gang waits for: registers, and its blocking (R70, R95). -/
def sendReqs (s : State) (g : Gang) (q : Squad) (d : MemDesc) (kind : ReqKind) (acquire : Bool) (scope : Nat) (blocks : Bool)
    (ps : List (Route × Piece)) : State :=
  let keys := (ps.map fun p => p.1.key).eraseDups
  keys.foldl (fun s k =>
    let mine := ps.filter fun p => p.1.key == k
    match mine with
    | [] => s
    | (r, p) :: _ =>
      let (n, s) := s.fresh
      let far := match r with | .remote _ _ => true | .host _ => true | .fill h _ _ _ => !(homeChip h == 0 && homeCore h == q.core)
                              | _ => false
      let blk := blocks || homeIsHost p.home || (match r with | .remote _ b => b | _ => false)
      let req : Req :=
        { id := n, kind := kind, gang := g.id, squad := q.id, launch := q.launch, core := q.core, part := q.part,
          owner := homeCore p.home, pieces := mine.map (·.2), c := d.c, width := d.regs, uni := d.uniform, active := g.lanes, held := heldLanes d.c g q,
          remote := far, host := homeIsHost p.home,
          fill := match r with | .fill h a v true => some (a, v, h / 128 * 128) | _ => none
          acquire := acquire, scope := scope, arrived := s.now }
      let s := match r with | .fill _ _ _ _ => s.modCore q.core fun c => { c with rcmiss := c.rcmiss + 1 } | _ => s
      ({ s with reqs := s.reqs ++ [req] }).modGang g.id fun y =>
        { y with
          pend := y.pend ++ (d.writes.map fun (w : Bool × Nat × Nat) => (n, w.1, w.2.1, w.2.2))
          block := if blk then y.block ++ [n] else y.block }) s

/-- Whether an entry of the run-ahead buffer is the load of an access at the gang's word. -/
def Gang.isAhead (g : Gang) (x : Acc) (r : Word × Nat × Nat × Word × List Byte) : Bool :=
  r.1 == g.pc && r.2.1 == g.pos && r.2.2.1 == x.lane && r.2.2.2.1.toNat == x.va

/-- Data of a run-ahead load that the gang now reaches (R117). -/
def Gang.runAhead (g : Gang) (x : Acc) : Option Nat := (g.ra.find? (g.isAhead x)).map fun r => ofBytes r.2.2.2.2

/-- What a read that returned writes and releases adds to the sets of lanes (R79); an acquire at a scope takes the releases (R80, R81). -/
def noteLanes (s : State) (squad : Nat) (m : Lanes) (ids : List Nat) (got : List Release) (acq : Option Nat) : State :=
  if ids.isEmpty && got.isEmpty then s
  else s.modSquad squad fun q => q.modLanes m fun l y =>
    let y := { y with seen := (y.seen ++ ids).eraseDups, got := (y.got ++ got).eraseDups }
    match acq with
    | some scope => s.takes q l scope got y
    | none => y

/-- What a read of n bytes at home by lanes, now, adds to their sets. -/
def noteRead (s : State) (q : Squad) (m : Lanes) (home n : Nat) (acq : Option Nat) : State :=
  let r := s.returned q.core s.nextId home n
  noteLanes s q.id m r.1 r.2 acq

/-- An acquire of lanes (R80). -/
def acquireLanes (s : State) (squad : Nat) (m : Lanes) (scope : Nat) : State :=
  match s.squad? squad with
  | some q => s.fenceDone q m 0 scope
  | none => s

/-- LD and LDA at home (R186). -/
def loadPerform (d : MemDesc) (sx bypass noalloc acquire : Bool) (scope : Nat) (s : State) (g : Gang) (q : Squad)
    (accs : List Acc) : State :=
  eccRead s g q (accs.filterMap fun x => (match x.spot with | .vault h _ => some (h, d.n) | _ => none)) fun s =>
  let rs := accs.map fun x => (x, match g.runAhead x with
    | some v => Route.now v (x.spot.home?.getD 0)
    | none => loadRoute s q bypass noalloc d.n x)
  let held := heldLanes d.c g q
  let s := rs.foldl (fun s r =>
    match r.2 with
    | .now v home =>
      let s := s.modSquad q.id fun x => loadPut x d.c d.uniform g.lanes d.n 0 r.1.lane (loadExt d.n sx v)
      if (g.runAhead r.1).isSome then s
      else noteRead s q (r.1.lanes d held) home d.n (if acquire then some scope else none)
    | _ => s) s
  let s := sendReqs s g q d (.load sx) acquire scope acquire ((rs.map fun r => piecesOf r.2 r.1.lane d.n 0 0).flatten)
  (s.modGang g.id fun y => { y with ra := y.ra.filter fun r => !accs.any fun x => g.isAhead x r }).advance g.id

def execLd (w : FA) (s : State) : Result :=
  onGang s fun g q => checked s g q .mem ((ldDesc w).ok q)
    (memSettle s g q (ldDesc w) (loadPerform (ldDesc w) (szSigned (szOf w.mod)) (hintOf w.mod == 2) (hintOf w.mod == 1) false 0))

def execLda (w : FA) (s : State) : Result :=
  onGang s fun g q => checked s g q .mem ((ldDesc w).ok q)
    (memSettle s g q (ldDesc w) (loadPerform (ldDesc w) (szSigned (szOf w.mod)) true true true (faScope w.mod)))

/-! ### Stores -/

/-- Whether a posted write to a home is counted in rm: another slice, another chip, host memory (R70, R188). -/
def postsRemote (q : Squad) (home : Nat) : Bool :=
  homeIsHost home || (!homeIsVault home && !(homeChip home == 0 && homeCore home == q.core))

/-- The request that a posted write is part of (R203). -/
def postKey (q : Squad) (home : Nat) : Nat × Nat :=
  if vaultPosted q.core home then (0, home / 128) else if postsRemote q home then (2, home / 8) else (1, home / 128)

/-- One posted write of a lane: home, what it does, what it carries, and its request. -/
structure Posting where
  lane : Nat
  home : Nat
  post : Post
  who : Lanes := 0
  rel : List Release := []
  key : Nat × Nat
  deriving DecidableEq, Repr

/-- The requests of postings of a kind: 0 to a vault of another core, 1 to the own slice and vault, 2 remote. -/
def postCount (ps : List Posting) (t : Nat) : Nat := (((ps.map (·.key)).filter fun k => k.1 == t).eraseDups).length

/-- Those among them to other cores' vaults that go to the vault of core v. -/
def postVault (ps : List Posting) (v : Nat) : Nat := postCount (ps.filter fun p => homeCore p.home == v) 0

/-- Whether the outbound remote queue has room for the requests of postings (R69, R203). -/
def State.remoteOk (s : State) (q : Squad) (ps : List Posting) : Bool :=
  decide (postCount ps 2 = 0 ∨ s.remoteOcc q.core + postCount ps 2 ≤ 128)

/-- Whether the store buffer and the vault write buffers have room for the requests of postings (R69, R203). -/
def State.buffersOk (s : State) (q : Squad) (ps : List Posting) : Bool :=
  (ps.all fun p => decide (postVault ps (homeCore p.home) = 0 ∨ s.vaultBufOcc q.core (homeCore p.home) + postVault ps (homeCore p.home) ≤ 32)) &&
  decide (postCount ps 1 = 0 ∨ s.storeBufOcc q.core + postCount ps 1 ≤ 64)

/-- The postings enter their buffers in order. -/
def State.post (s : State) (q : Squad) (uniform : Bool) (ps : List Posting) : State :=
  let keys := (ps.map (·.key)).eraseDups
  let base := s.nextId
  let s := { s with nextId := s.nextId + keys.length }
  let s := ps.foldl (fun s p =>
    let (n, s) := s.fresh
    let s := s.noteWritten p.home p.post.len
    { s with ents := s.ents ++ [{ id := n, grp := base + keys.idxOf p.key, core := q.core, squad := q.id, launch := q.launch,
                                  lane := if uniform then 32 else p.lane, home := p.home, post := p.post,
                                  rm := postsRemote q p.home, host := homeIsHost p.home, who := p.who, rel := p.rel, arrived := s.now }] }) s
  let remote := (keys.filter fun k => k.1 == 2).length
  if q.roam then s else s.modSquad q.id fun x => { x with cnt := { x.cnt with rm := x.cnt.rm + remote } }

/-- The high-water marks of the stacks that are written (R30). -/
def noteStack (s : State) (q : Squad) (n : Nat) (accs : List Acc) : State :=
  s.modSquad q.id fun x => accs.foldl (fun (x : Squad) a =>
    match a.spot with
    | .stack _ => x.modLane a.lane fun y => { y with hwm := max y.hwm (a.va - stkBase + n) }
    | _ => x) x

/-- The postings of a store or reduction are made, or the gang waits for room (R203) or for the rm counter (R269); a wait for an entry of a
buffer holds the port. -/
def postAll (d : MemDesc) (s : State) (g : Gang) (q : Squad) (accs : List Acc) (ps : List Posting) : State :=
  let remote := postCount ps 2
  if !s.buffersOk q ps then (s.modPart q.core q.part fun p => { p with memHold := some g.id }).stall g.id .buffer
  else if !s.remoteOk q ps then s.stall g.id .remote
  else if !q.roam && decide (0 < remote ∧ 65535 < q.cnt.rm + remote) then s.stall g.id (.limit .rm)
  else
    let s := noteStack (s.post q d.uniform ps) q d.n accs
    (s.modGang g.id fun y => { y with ra := y.ra.filter fun r =>
      !(ps.any fun p => match spotOf s g q r.2.2.1 r.2.2.2.1.toNat 1 with
        | .vault h _ => decide (h < p.home + p.post.len ∧ p.home < h + r.2.2.2.2.length)
        | .stack h => decide (h < p.home + p.post.len ∧ p.home < h + r.2.2.2.2.length)
        | .page _ h => decide (h < p.home + p.post.len ∧ p.home < h + r.2.2.2.2.length)
        | _ => false) }).advance g.id

/-- The bytes that a store writes in lane l (R183). -/
def storeBytes (q : Squad) (c : Common) (n k l : Nat) : List Byte := toBytes n (valRun q l c.dk c.dn.toNat k)

/-- The postings of a store by the lanes held: 16 bytes make two (R76). -/
def storePostings (s : State) (q : Squad) (held : Lanes) (d : MemDesc) (k : Nat) (release : Bool) (scope : Nat) (accs : List Acc) :
    List Posting :=
  (accs.map fun x =>
    match x.spot.home? with
    | none => []
    | some home =>
      let bs := storeBytes q d.c d.n k x.lane
      let who := x.lanes d held
      let rel := s.carried q who release scope
      if d.n = 16 then
        [{ lane := x.lane, home := home, post := .store (bs.take 8), who := who, rel := rel, key := postKey q home },
         { lane := x.lane, home := home + 8, post := .store (bs.drop 8), who := who, rel := rel, key := postKey q (home + 8) }]
      else [{ lane := x.lane, home := home, post := .store bs, who := who, rel := rel, key := postKey q home }]).flatten

/-- ST and STL (R186, R187). -/
def storePerform (d : MemDesc) (k : Nat) (release : Bool) (scope : Nat) (s : State) (g : Gang) (q : Squad) (accs : List Acc) : State :=
  withRelease s g q (heldLanes d.c g q) release scope fun s =>
    postAll d s g q accs (storePostings s q (heldLanes d.c g q) d k release scope accs)

def execSt (w : FA) (s : State) : Result :=
  onGang s fun g q => checked s g q .mem ((stDesc w).ok q)
    (memSettle s g q (stDesc w) (storePerform (stDesc w) (szRegs (szOf w.mod)) false 0))

def execStl (w : FA) (s : State) : Result :=
  onGang s fun g q => checked s g q .mem ((stDesc w).ok q)
    (memSettle s g q (stDesc w) (storePerform (stDesc w) (szRegs (szOf w.mod)) true (faScope w.mod)))

/-! ### Atomics -/

/-- One read-modify-write of a piece at its home: its result, the flags of an f32 add, and whether it wrote (R191, R193). -/
def rmwPiece (kind : ReqKind) (m : Memory) (p : Piece) : Nat × Flags × Option Nat :=
  let old := m.readN p.home p.n
  match kind with
  | .atom aop ty => let r := atomNew aop ty old p.b.toNat; (old, r.2, some r.1)
  | .cas _ => (old, 0, if old = p.cmp.toNat % 256 ^ p.n then some (p.b.toNat % 256 ^ p.n) else none)
  | _ => (old, 0, none)

/-- Pieces performed in order at their home, after the older posted writes of the core to it (R76, R191). -/
def State.rmwAll (s : State) (core before : Nat) (kind : ReqKind) (ps : List Piece) : State × List (Piece × Flags × Bool) :=
  ps.foldl (fun (acc : State × List (Piece × Flags × Bool)) p =>
    let s := acc.1.drainTo core before p.home p.n
    let (old, f, new) := rmwPiece kind s.mem p
    let s := match new with
      | some v => ((s.commit (s.mem.writeN p.home p.n v) p.home p.n true).noteWritten p.home p.n).tagHome p.home p.n true p.rel
      | none => s
    (s, acc.2 ++ [({ p with val := BitVec.ofNat 64 old }, f, new.isSome)])) (s, [])

/-- The result of a performed piece reaches its register, its latch and the flags of its lanes (R191); a write to the lane's stack raises
its mark (R30). -/
def rmwPut (s : State) (squad : Nat) (c : Common) (uni : Bool) (active held : Lanes) (x : Piece × Flags × Bool) : State :=
  s.modSquad squad fun q =>
    let q := loadPut q c uni active x.1.n x.1.reg x.1.lane x.1.val.toNat
    let q := if x.2.2 then q.modLane x.1.lane fun y => { y with hwm := max y.hwm x.1.stk } else q
    if uni then raiseLanes q held x.2.1 else raiseLane q x.1.lane x.2.1

/-- Whether an atomic that wrote or not is an acquire (R83): success is the ordering of a success. -/
def ReqKind.acquires (k : ReqKind) (success wrote : Bool) : Bool :=
  match k with
  | .cas facq => if wrote then success else facq
  | _ => success

/-- What the reads of performed pieces add to the sets of their lanes, each by its own outcome (R79, R83). -/
def rmwNote (s : State) (squad : Nat) (kind : ReqKind) (acquire uni : Bool) (held : Lanes) (scope : Nat)
    (done : List (Piece × Flags × Bool)) : State :=
  done.foldl (fun s x => noteLanes s squad (if uni then held else lanesMask [x.1.lane]) x.1.seen x.1.got
    (if kind.acquires acquire x.2.2 then some scope else none)) s

/-- The pieces with the writes and releases that their reads are about to return. -/
def State.withReturned (s : State) (core before : Nat) (ps : List Piece) : List Piece :=
  ps.map fun p => let r := s.returned core before p.home p.n; { p with seen := r.1, got := r.2 }

/-- The pieces of accesses at one address stand together, in ascending lane order. -/
def byAddress (ps : List (Nat × Piece)) : List (List Piece) :=
  ((ps.map (·.1)).eraseDups).map fun h => (ps.filter fun p => p.1 == h).map (·.2)

/-- ATOM, CAS and RATOM (R191, R193, R254): a vault's atomic is performed at once, every other when its request returns. -/
def atomPerform (d : MemDesc) (kind : ReqKind) (acquire release : Bool) (scope : Nat) (b cmp : Squad → Nat → Word)
    (s : State) (g : Gang) (q : Squad) (accs : List Acc) : State :=
  let held := heldLanes d.c g q
  withRelease s g q held release scope fun s =>
  eccRead s g q (accs.filterMap fun x => (match x.spot with | .vault h _ => some (h, d.n) | _ => none)) fun s =>
  let now := accs.filter fun x => match x.spot with | .vault _ _ => true | _ => false
  let later := accs.filter fun x => match x.spot with | .vault _ _ => false | _ => true
  let piece (x : Acc) : Piece :=
    { lane := x.lane, home := x.spot.home?.getD 0, n := d.n, b := b q x.lane, cmp := cmp q x.lane,
      stk := (match x.spot with | .stack _ => x.va - stkBase + d.n | _ => 0),
      rel := s.carried q (x.lanes d held) release scope }
  let (s, done) := s.rmwAll q.core s.nextId kind (s.withReturned q.core s.nextId (now.map piece))
  let s := rmwNote s q.id kind acquire d.uniform held scope done
  let s := done.foldl (fun s x => rmwPut s q.id d.c d.uniform g.lanes held x) s
  let quiet := d.c.dk == .none && !d.c.le
  let groups := byAddress (later.map fun x => (x.spot.home?.getD 0, piece x))
  let s := groups.foldl (fun s ps =>
    match ps with
    | [] => s
    | p :: _ =>
      let (n, s) := s.fresh
      let far := homeIsHost p.home || !(homeChip p.home == 0 && homeCore p.home == q.core)
      let req : Req :=
        { id := n, kind := kind, gang := g.id, squad := q.id, launch := q.launch, core := q.core, part := q.part,
          owner := homeCore p.home, pieces := ps, c := d.c, width := d.regs, uni := d.uniform, active := g.lanes, held := held,
          remote := far, host := homeIsHost p.home, acquire := acquire, scope := scope, arrived := s.now }
      ({ s with reqs := s.reqs ++ [req] }).modGang g.id fun y =>
        { y with
          pend := y.pend ++ (d.writes.map fun (w : Bool × Nat × Nat) => (n, w.1, w.2.1, w.2.2))
          block := if far || acquire || kind.acquires acquire false || quiet then y.block ++ [n] else y.block }) s
  s.advance g.id

/-- b of ATOM and RED (R190): an operand of its type, an immediate integer as its value in FP32 where the type is f32 (R104). -/
def atomB (w : FM) (q : Squad) (l : Nat) : Word :=
  if atomTy w.mod = 2 then BitVec.ofNat 64 (valFloat .f32 q l w.sb)
  else if tyBytes (atomTy w.mod) = 8 then val64 q l w.sb else (val32 q l w.sb).setWidth 64

def execAtom (w : FM) (s : State) : Result :=
  onGang s fun g q => checked s g q .mem ((atomDesc w).ok q)
    (memSettle s g q (atomDesc w) (atomPerform (atomDesc w) (.atom (atomAop w.mod) (atomTy w.mod)) (ordAcq (atomOrd w.mod))
      (ordRel (atomOrd w.mod)) (atomScope w.mod) (atomB w) fun _ _ => 0))

/-- RED (R192). -/
def redPerform (w : FM) (s : State) (g : Gang) (q : Squad) (accs : List Acc) : State :=
  let d := redDesc w
  let rel := ordRel (atomOrd w.mod)
  withRelease s g q (heldLanes w.c g q) rel (atomScope w.mod) fun s =>
    let ps := accs.filterMap fun x => x.spot.home?.map fun home =>
      ({ lane := x.lane, home := home, post := .red (atomAop w.mod) (atomTy w.mod) (atomB w q x.lane),
         who := lanesMask [x.lane], rel := s.carried q (lanesMask [x.lane]) rel (atomScope w.mod),
         key := ((postKey q home).1, x.lane) } : Posting)
    postAll d s g q accs ps

def execRed (w : FM) (s : State) : Result :=
  onGang s fun g q => checked s g q .mem ((redDesc w).ok q) (memSettle s g q (redDesc w) (redPerform w))

/-- The compare value and the new value of CAS (R193). -/
def casCmp (w : FM) (q : Squad) (l : Nat) : Word :=
  if casW64 w.mod then BitVec.ofNat 64 (valQuad q l w.sb) else (val64 q l w.sb).setWidth 32 |>.setWidth 64
def casNew (w : FM) (q : Squad) (l : Nat) : Word :=
  if casW64 w.mod then BitVec.ofNat 64 (valQuad q l w.sb / 2 ^ 64) else val64 q l w.sb >>> 32

def execCas (w : FM) (s : State) : Result :=
  onGang s fun g q => checked s g q .mem ((casDesc w).ok q)
    (memSettle s g q (casDesc w) (atomPerform (casDesc w) (.cas (casFacq w.mod)) (ordAcq (casOrd w.mod)) (ordRel (casOrd w.mod))
      (casScope w.mod) (casNew w) (casCmp w)))

/-! ### FENCE, PREF, CVTA -/

/-- FENCE (R195, R197). -/
def execFence (w : FM) (s : State) : Result :=
  onGang s fun g q => checked s g q .mem (guardFieldOk q w.c)
    (let held := heldLanes w.c g q
     let kind := (w.mod.extractLsb' 0 2).toNat
     let scope := (w.mod.extractLsb' 2 3).toNat
     if g.fenced then (s.fenceDone q held kind scope).advance g.id
     else onPort s g q fun s =>
       if held = 0 then s.advance g.id
       else if s.fenceReady q held kind scope then (s.fenceDone q held kind scope).advance g.id
       else s.hold g.id (.fence kind scope held))

/-- The line that a PREF of an address asks for under a page's translation (R198): W = 0 and NOC = 0, and not present. -/
def prefLine (s : State) (core key : Nat) (e : TlbEntry) (a : Nat) : Option (Nat × Nat) :=
  let home := e.pa + (a - e.va)
  if e.w || e.noc || s.reserved home then none
  else
    match s.roLine core key a home with
    | some _ => none
    | none => some (a / 128 * 128, home / 128 * 128)

/-- The lines that a PREF asks for at once (R198): of global addresses whose translation is in the TLB. -/
def prefLines (s : State) (q : Squad) (vas : List Nat) : List (Nat × Nat) :=
  let key := ascKey (s.spaceOf q.launch).1.id (s.spaceOf q.launch).2.id
  ((vas.filterMap fun a =>
    if apertureOf a != .global then none
    else (s.tlbFind q.core key a).bind fun e => prefLine s q.core key e a)).eraseDups

/-- The addresses of a PREF that miss the TLB, one for each line: a walk begins for each, and no gang waits for it. -/
def prefMisses (s : State) (q : Squad) (vas : List Nat) : List Nat :=
  let key := ascKey (s.spaceOf q.launch).1.id (s.spaceOf q.launch).2.id
  ((vas.filter fun a => apertureOf a == .global && (s.tlbFind q.core key a).isNone).map fun a => a / 128 * 128).eraseDups

/-- The fetch of a read-only line begins for a launch's thread on a core. -/
def State.askLine (s : State) (gang squad : Nat) (h : Word) (core part key : Nat) (x : Nat × Nat) : State :=
  let (n, s) := s.fresh
  { s with
    reqs := s.reqs ++ [{ id := n, kind := .line, gang := gang, squad := squad, launch := h, core := core, part := part,
                         owner := homeCore x.2, pieces := [{ lane := 32, home := x.2, n := 8 }],
                         c := { gp := 0, gn := false, dk := .none, dn := 0, nw := false, le := false, ln := 0 },
                         remote := !(homeChip x.2 == 0 && homeCore x.2 == core), host := homeIsHost x.2,
                         fill := some (key, x.1, x.2), arrived := s.now }] }

/-- PREF (R198): its place in a roaming clause is governed by R98. -/
def execPref (w : FA) (s : State) : Result :=
  onGang s fun g q => checked s g q .mem (guardFieldOk q w.c && srcOk q false .base w.base)
    (let vas := (lanesOf (heldLanes w.c g q)).map fun l => faAddr w q l
     if q.roam && g.pos != 1 && vas.any fun a => apertureOf a == .global then s.decodeTrap g cIllegalClause
     else onPort s g q fun s =>
       let key := ascKey (s.spaceOf q.launch).1.id (s.spaceOf q.launch).2.id
       let miss := prefMisses s q vas
       let s := (prefLines s q vas).foldl (fun s x => s.askLine g.id q.id q.launch q.core q.part key x) s
       let s := miss.foldl (fun s a =>
         let (n, s) := s.fresh
         { s with walks := s.walks ++ [{ id := n, core := q.core, asc := key, va := BitVec.ofNat 64 a, gang := g.id, launch := q.launch,
                                         part := q.part, pref := true, since := s.now }] }) s
       s.advance g.id)

def execCvta (w : FM) (s : State) : Result :=
  let op := (w.mod.extractLsb' 0 3).toNat
  let regs := if op = 3 then 1 else 2
  onGang s fun g q => checked s g q .mem (operandsOk q w.c [(if op = 0 then .r32 else .r64, w.sa)] regs true false)
    (onPort s g q fun s => (s.modSquad q.id fun _ => resultPut g q w.c regs fun l => (cvtaVal s q w l, 0)).advance g.id)

end Sys2Proof.Machine
end

