-- ==== Sys2Proof/Machine/MemEvents.lean ====
section
/-!
DEFINITION. The events of memory: walks, the slice controllers, posted writes at home, acknowledgements, returns to the issuing
gang, completed fences, stalled ports, and run-ahead loads.
-/
namespace Sys2Proof.Machine

/-! ### Waits that end -/

/-- The gang becomes ready. -/
def State.unhold (s : State) (g : Gang) : State := s.modGang g.id fun x => { x with wait := .none, ready := s.now }

/-- Gangs that a full queue, or a counter at its limit, holds present their word again (R44, R269, R285). -/
def State.wakeWaits (s : State) (pick : Gang → Squad → Bool) : State :=
  (s.gangs.filter fun (g : Gang) => match s.squad? g.squad with | some q => pick g q | none => false).foldl
    (fun (s : State) (g : Gang) => s.unhold g) s

/-- The meaning of an event of the current gang that needs a condition on its wait. -/
def onWait (s : State) (ok : Gang → Squad → Bool) (k : Gang → Squad → State) : Result :=
  match s.here? with
  | some (g, q) => if ok g q then .next (k g q) else .next s
  | none => .next s

/-! ### Walks (R62) -/

/-- Two misses of one page of one address space (R62). -/
def Walk.joins (x y : Walk) : Bool := x.asc == y.asc && x.va.toNat / 4096 == y.va.toNat / 4096

/-- The misses that take one of the walker's 64 slots, in arrival order: one that joins a walk takes none. -/
def walkSlots (ws : List Walk) : List Walk :=
  ws.foldl (fun acc w => if acc.any w.joins || decide (64 ≤ acc.length) then acc else acc ++ [w]) []

/-- The misses of a die whose walk runs: its own, or the one that it has joined. The 256 that come next stand in the die's queue, and
those after them wait at their cores; all of them advance in the order of their arrival. -/
def State.walking (s : State) (d : Nat) : List Walk :=
  let ws := s.walks.filter fun w => dieOf w.core == d
  ws.filter fun w => (walkSlots ws).any w.joins

/-- A gang whose walks have all ended forms its accesses again, or fetches its clause again. -/
def State.walksEnded (s : State) : State :=
  { s with gangs := s.gangs.map fun (g : Gang) =>
      if g.wait = .walk ∧ !(s.walks.any fun w => w.gang == g.id && !w.pref) then
        { g with wait := if g.phase = .body then .none else .fetch, ready := s.now }
      else g }

/-- A double-bit error in a table entry that a walk reads ends the launches that use it, with a record of the word that missed (R435). -/
def State.walkEcc (s : State) (w : Walk) (word : Nat) : State :=
  match s.gang? w.gang, s.ops.find? fun o => some o.id == w.op with
  | some g, _ => s.eccFatal w.launch w.core w.part g.header.eng.toNat g.pos g.lanes g.pc word
  | none, some o => s.eccFatal w.launch w.core w.part 5 o.pos o.lanes o.pc word
  | none, none => s.eccFatal w.launch w.core w.part 0 0 0 0 word

/-- What a walk of an engine's access has found reaches its operation or its stream: a translation, or a fault of the page at va. -/
def State.walkFound (s : State) (w : Walk) (e : Option TlbEntry) (fault : List (Word × Nat × Nat)) : State :=
  match w.op with
  | none => s
  | some n => { s with
      ops := s.ops.map fun (o : EngOp) =>
        if o.id = n then { o with tr := o.tr ++ (e.map fun x => { x with core := w.core }).toList, wfault := o.wfault ++ fault } else o
      streams := s.streams.map fun (x : Stream) =>
        if x.id = n then { x with tr := x.tr ++ (e.map fun y => { y with core := w.core }).toList, wfault := x.wfault ++ fault } else x }

/-- PAGE_WALK: a walk that runs ends. Its four entries are read at that instant (notes/assumptions/53.md), behind the requests that their slices
had before it (R68), and every miss of the die that the new entry covers completes with it. A fault is never held in a TLB; the gangs and
operations that joined the walk take it, and a PREF drops it. -/
def execPageWalk (n : Nat) (s : State) : Result :=
  match s.walks.find? fun w => w.id == n with
  | none => .next s
  | some w =>
    if !(s.walking (dieOf w.core)).any fun x => x.id == n then .next s
    else
      let (f, a) := s.spaceOf w.launch
      let reads := walkReads s f a w.va.toNat
      if s.queued w.core w.since reads then .next s else
      match s.eccPieces reads with
      | some x =>
        .next (({ s with walks := s.walks.filter fun x => x.id != n }).walkEcc w x).walksEnded
      | none =>
      let s := (s.eccFix reads).sliceReads w.core w.since reads
      match walk s f a w.core w.va.toNat with
      | .leaf e =>
        let done := s.walks.filter fun x => dieOf x.core == dieOf w.core &&
          (x.joins w || x.asc == w.asc && decide (e.va ≤ x.va.toNat) && decide (x.va.toNat < e.va + e.size))
        let s := done.foldl (fun s x => (s.tlbAdd { e with core := x.core }).walkFound x (some e) []) s
        let s := { s with walks := s.walks.filter fun x => !done.any fun y => y.id == x.id }
        let s := (done.filter (·.pref)).foldl (fun (s : State) x =>
          match prefLine s x.core x.asc e x.va.toNat with
          | some ln => s.askLine x.gang 0 x.launch x.core x.part x.asc ln
          | none => s) s
        .next s.walksEnded
      | .fault r l =>
        let joined := s.walks.filter fun x => dieOf x.core == dieOf w.core && x.joins w
        let s := joined.foldl (fun s x => s.walkFound x none [(w.va >>> 12, r, l)]) s
        let s := { s with
          walks := s.walks.filter fun x => !(joined.any fun y => y.id == x.id)
          gangs := s.gangs.map fun (g : Gang) =>
            if joined.any fun y => y.gang == g.id && !y.pref then { g with wfault := g.wfault ++ [(w.va >>> 12, r, l)] } else g }
        .next s.walksEnded

/-! ### Slice controllers (R68) -/

/-- The values that a load request reads, in the view of its core at its place in program order. -/
def State.sample (s : State) (r : Req) : Req :=
  let m := s.viewBefore r.core r.id
  { r with
    accepted := true
    pieces := (s.withReturned r.core r.id r.pieces).map fun p => { p with val := BitVec.ofNat 64 (m.readN p.home p.n) } }

/-- Slots that a request takes: one for each lane of an atomic (R203). -/
def Req.slots (r : Req) : Nat := if r.isAtomic then r.pieces.length else 1

/-- A double-bit error under a request ends the launches that use the word (R435). -/
def State.reqEcc (s : State) (r : Req) (k : State → State) : State :=
  let reads := (r.pieces.map fun p => (p.home, p.n)) ++ (r.fill.map fun f => (f.2.2, 128)).toList
  match reads.filterMap fun p => s.eccDouble p.1 p.2 with
  | w :: _ =>
    ({ s with reqs := s.reqs.filter fun x => x.id != r.id }).eccFatal r.launch r.core r.part 2 0 (lanesMask (List.map Piece.lane r.pieces)) 0 w
  | [] => k (s.eccFix reads)

/-- A request that its slice could accept now: it reaches it (R429), and a load waits for an accepted atomic to its location, and for the older reductions of its core
to it (R75). -/
def State.canAccept (s : State) (r : Req) : Bool :=
  (r.pieces.all fun p => s.reaches r.core p.home) && !(s.reqs.any fun x => x.accepted && x.isAtomic && r.pieces.any fun p => x.overlaps p.home p.n) &&
  (r.isAtomic || !r.pieces.any fun p => s.redOut r.core r.id p.home p.n)

/-- The request that a slice accepts next: of those that may stand at the head of its queue one that it could accept; which, is open. -/
def State.nextRequest (s : State) (core : Nat) : Option Req × State :=
  match (s.sliceHeads core).filter s.canAccept with
  | [] => (none, s)
  | [r] => (some r, s)
  | r :: rs => let (x, s) := s.draw; ((r :: rs)[x.toNat % (rs.length + 1)]?, s)

/-- A request takes a slot: a load reads then. -/
def State.acceptReq (s : State) (r : Req) : State :=
  let r' := if r.isAtomic then { r with accepted := true } else s.sample r
  { s with reqs := s.reqs.map fun (x : Req) => if x.id = r.id then r' else x }

/-- SLICE_ACCEPT: a request at the head of the queue takes a slot. Those beyond the 64 that the queue holds wait for room in the order of their
issue (notes/assumptions/12.md). -/
def execSliceAccept (core : Nat) (s : State) : Result :=
  match s.nextRequest core with
  | (none, s) => .next s
  | (some r, s) =>
    let (n, s) := s.occupancy core
    let s := (s.stay r.core (some core) false (s.now - r.arrived)).modCore core fun c =>
      { c with sqacc := c.sqacc + r.slots, sqhwm := max c.sqhwm n }
    .next (s.reqEcc r fun s => s.acceptReq r)

/-! ### Interlocks (R95) -/

/-- Registers that a LANE or SFU word may write: all that its destination field can name. -/
def destUnknown (w : Word) : List (Bool × Nat × Nat) :=
  let c := Common.ofWord w
  match c.dk with
  | .vec => [(true, c.dn.toNat, 4)]
  | .uni => [(false, c.dn.toNat, 4)]
  | _ => []

/-- The register that a source field may begin at, with three more. -/
def srcRegs (b : BitVec 11) : List (Bool × Nat × Nat) :=
  match Src.ofBits b with
  | .ok (.vec n) => [(true, n.toNat, 4)]
  | .ok (.uni n) => [(false, n.toNat, 4)]
  | _ => []

/-- The source fields of a word, by the format of its opcode. -/
def srcFields (e : Eng) (w : Word) : List (BitVec 11) :=
  match Sys2Proof.shapeOf e (opBits w) with
  | some (.f3 _) => [w.extractLsb' 23 11, w.extractLsb' 12 11, w.extractLsb' 1 11]
  | some (.fm _) => [w.extractLsb' 23 11, w.extractLsb' 12 11]
  | some (.fi _) => [w.extractLsb' 23 11]
  | some (.fa _) => [w.extractLsb' 23 11]
  | _ => []

/-- The registers that a word reads without a source field: the count of a loop instruction (R218), and the travel context that SPAWN
copies (R256). -/
def hiddenRegs (e : Eng) (w : Word) : List (Bool × Nat × Nat) :=
  if e = .ctl ∧ (opBits w = 13 ∨ opBits w = 14) then [(!w.getLsbD 7, (w.extractLsb' 0 7).toNat, 1)]
  else match Sys2Proof.shapeOf e (opBits w) with
    | some (.fm mk) => (match FM.ofWord w with | .ok f => (match mk f with | .spawn _ => [(true, 0, 16)] | _ => []) | .error _ => [])
    | _ => []

/-- Whether a word reads or writes a latch. -/
def usesLatch (e : Eng) (w : Word) : Bool :=
  (Common.ofWord w).le || (srcFields e w).any fun b => match Src.ofBits b with | .ok (.lat _) => true | _ => false

/-- The base registers of the later accesses of a MEM clause that no word from position k on writes first. -/
def Gang.basesFrom (g : Gang) (fuel k : Nat) (ws : List (Bool × Nat × Nat)) : List (Bool × Nat × Nat) :=
  match fuel with
  | 0 => []
  | f + 1 =>
    match decodeWord .mem (g.header.isTailAt k) (g.words.getD (k - 1) 0) with
    | .ok i =>
      match memDesc i with
      | some d =>
        (match d.base with
         | .vec n => if baseUnknown ws d.base then [] else [(true, n.toNat, 2)]
         | .uni n => if baseUnknown ws d.base then [] else [(false, n.toNat, 2)]
         | _ => []) ++ g.basesFrom f (k + 1) (ws ++ d.writes)
      | none => g.basesFrom f (k + 1) (match i with | .cvta w => ws ++ cvtaWrites w | _ => ws)
    | .error _ => []

/-- The registers that the look-ahead of a word that writes memory needs (R39): those that form the addresses of the later accesses of its
clause. The word waits until they stand, so that all those accesses are translated before it takes effect. -/
def Gang.aheadRegs (g : Gang) (e : Eng) (w : Word) : List (Bool × Nat × Nat) :=
  if e != .mem then [] else
  match decodeWord .mem (g.header.isTailAt g.pos) w with
  | .ok i =>
    match memDesc i with
    | some d => if d.store || d.atomic then g.basesFrom (g.header.len - g.pos) (g.pos + 1) d.writes else []
    | none => []
  | .error _ => []

/-- The results that a word names, or its look-ahead, and that have not arrived. -/
def Gang.needs (g : Gang) (e : Eng) (w : Word) : List (Nat × Bool × Nat × Nat) :=
  let rs := (srcFields e w).flatMap srcRegs ++ destUnknown w ++ hiddenRegs e w ++ g.aheadRegs e w
  g.pend.filter fun p => rs.any fun r => r.1 == p.2.1 && decide (r.2.1 < p.2.2.1 + p.2.2.2) && decide (p.2.2.1 < r.2.1 + r.2.2)

/-- A register or latch that the word names has not arrived. -/
def State.interlocked (s : State) (g : Gang) (e : Eng) (w : Word) : Bool :=
  !(g.needs e w).isEmpty ||
  (usesLatch e w && ((s.reqs.any fun r => r.gang == g.id && r.c.le) || s.ops.any fun o => o.gang == g.id && o.gang != 0 && o.cls == .mx &&
    match o.i with | .acrd w => w.c.le | _ => false))

/-- The word depends on a result of memory that has not arrived, the long-latency dependence of R211. -/
def State.awaitsLoad (s : State) (g : Gang) (e : Eng) (w : Word) : Bool :=
  (g.needs e w).any (fun p => s.reqs.any fun r => r.id == p.1) || (usesLatch e w && s.reqs.any fun r => r.gang == g.id && r.c.le)

/-! ### Returns -/

/-- The gang blocks on a result, or the word that it will issue next names it: at a clause head that is the first of the clause. -/
def Gang.hangsOn (g : Gang) (id : Nat) : Bool :=
  let pos := if g.phase = .body then g.pos else max 1 g.resume
  g.block.contains id ||
  match g.header.classAt pos with
  | some e => !g.words.isEmpty && (g.needs e (g.words.getD (pos - 1) 0)).any fun p => p.1 == id
  | none => false

/-- A request is gone, and no gang waits for it; one that its word or its block held back is ready from now on. -/
def State.reqDone (s : State) (r : Req) : State :=
  { s with
    reqs := s.reqs.filter fun x => x.id != r.id
    gangs := s.gangs.map fun (g : Gang) =>
      if g.squad = r.squad then
        { g with pend := g.pend.filter fun p => p.1 != r.id, block := g.block.filter fun b => b != r.id,
                 ready := if g.hangsOn r.id then s.now else g.ready }
      else g }

/-- A line is allocated in the read-only cache of a core (R2, R66): 16 ways, and the set of a line is open (Config.lineSet). When the lines
of its set are in use, the one that makes room is a free choice. -/
def State.lineAdd (s : State) (x : RcLine) : State :=
  if s.lines.any fun y => y.core == x.core && y.asc == x.asc && y.va == x.va && y.pa == x.pa then s
  else
    let mine := s.lines.filter fun y => y.core == x.core && lineSet y.pa == lineSet x.pa
    if mine.length < 16 then { s with lines := s.lines ++ [x] }
    else
      let (r, s) := s.draw
      let out := mine.getD (r.toNat % 16) x
      { s with lines := (s.lines.filter fun y => y != out) ++ [x] }

/-- A load returns its data. -/
def State.loadReturn (s : State) (r : Req) : State :=
  let s := match r.fill with
    | some (a, v, h) => s.lineAdd { core := r.core, pa := h, asc := a, va := v, bytes := s.mem.readBytes h 128 }
    | none => s
  match r.kind with
  | .load sx =>
    let s := if r.uni then s.landing r.squad r.gang r.arrived else s
    let s := r.pieces.foldl (fun s p =>
      s.modSquad r.squad fun q => loadPut q r.c r.uni r.active p.n p.reg p.lane (loadExt p.n sx p.val.toNat)) s
    let s := r.pieces.foldl (fun s p =>
      noteLanes s r.squad (if r.uni then r.held else lanesMask [p.lane]) p.seen p.got (if r.acquire then some r.scope else none)) s
    s.reqDone r
  | _ => s.reqDone r

/-- An atomic is performed and returns its old values (R191, R193). -/
def State.atomReturn (s : State) (r : Req) : State :=
  let (s, done) := s.rmwAll r.core r.id r.kind (s.withReturned r.core r.id r.pieces)
  let s := rmwNote s r.squad r.kind r.acquire r.uni r.held r.scope done
  let s := if r.uni then s.landing r.squad r.gang r.arrived else s
  let s := done.foldl (fun s x => rmwPut s r.squad r.c r.uni r.active r.held x) s
  s.reqDone r

/-- Whether a request goes to another chip, whose slice controller is not part of this package. -/
def Req.otherChip (r : Req) : Bool := match r.pieces with | p :: _ => !r.host && homeChip p.home != 0 | [] => false

/-- Runs k on the request of a number. -/
def onReq (s : State) (n : Nat) (ok : Req → Bool) (k : Req → State) : Result :=
  match s.reqs.find? fun r => r.id == n with
  | some r => if ok r then .next (k r) else .next s
  | none => .next s

/-- SLICE_LOAD_RETURN: a load accepted by the own slice. -/
def execSliceLoadReturn (n : Nat) (s : State) : Result :=
  onReq s n (fun r => r.accepted && !r.isAtomic && !r.remote && !r.host) fun r => s.loadReturn r

/-- ATOMIC_RETURN: an atomic accepted by a slice of the package, in the order of acceptance at a location. -/
def execAtomicReturn (n : Nat) (s : State) : Result :=
  onReq s n (fun r => r.accepted && r.isAtomic && !r.host &&
    !(s.reqs.any fun x => x.accepted && x.isAtomic && decide (x.id < r.id) && r.pieces.any fun p => x.overlaps p.home p.n))
    fun r => s.reqEcc r fun s => s.atomReturn r

/-- An older request of the core to one of the bytes of a request has not been performed (R75, R77). -/
def State.olderReq (s : State) (r : Req) : Bool :=
  s.reqs.any fun x => x.core == r.core && decide (x.id < r.id) && (!x.accepted || x.isAtomic) && x.kind != .line &&
    r.pieces.any fun p => x.overlaps p.home p.n

/-- REMOTE_LOAD_RETURN: a word or line of another slice; an access to another chip is performed at its home on the way, after the older
ones of its core to the location. -/
def execRemoteLoadReturn (n : Nat) (s : State) : Result :=
  onReq s n (fun r => r.remote && !r.host && (r.otherChip && !s.olderReq r && s.canAccept r || !r.otherChip && r.accepted && !r.isAtomic)) fun r =>
    if r.otherChip then
      let s := s.stay r.core none false (s.now - r.arrived)
      if r.isAtomic then s.atomReturn r else s.loadReturn (s.sample r)
    else s.loadReturn r

/-- An atomic of host memory that the host does not complete (R194). -/
def Req.refused (r : Req) : Bool := r.isAtomic && r.pieces.any fun p => Config.atomicUnsupported (p.home % 2 ^ 51)

/-- HOST_ACCESS_COMPLETE: a read or an atomic of host memory (R194), not before an older one of its core to the location. -/
def execHostAccessComplete (n : Nat) (s : State) : Result :=
  onReq s n (fun r => r.host && s.canAccept r &&
    !(s.reqs.any fun x => x.host && x.core == r.core && decide (x.id < r.id) && r.pieces.any fun p => x.overlaps p.home p.n)) fun r =>
    if r.refused then
      { s with reqs := s.reqs.filter fun x => x.id != r.id }.atomicRefused r.launch r.core r.part
        (if r.uni then r.held else lanesMask (r.pieces.map Piece.lane)) ((r.pieces.head?.map Piece.home).getD 0)
    else
      let s := s.stay r.core none false (s.now - r.arrived)
      if r.isAtomic then s.atomReturn r else s.loadReturn (s.sample r)

/-! ### Posted writes -/

/-- A posted write stands behind requests in the queue of its slice (R68): older ones of its core and of the slice's own. -/
def State.behind (s : State) (e : Ent) : Bool :=
  inSlice e.home &&
  (s.sliceQueue (homeCore e.home)).any fun r => decide (r.id < e.id) && (r.core == e.core || r.core == homeCore e.home)

/-- WRITE_AT_HOME (R74, R75). -/
def execWriteAtHome (n : Nat) (s : State) : Result :=
  match s.ents.find? fun e => e.id == n with
  | none => .next s
  | some e =>
    if e.athome || !s.entFree e || s.behind e then .next s else .next (s.entHome e)

/-- REMOTE_ACK: acknowledgements lower rm in order of issue (R16, R70). -/
def execRemoteAck (n : Nat) (s : State) : Result :=
  match s.ents.find? fun e => e.id == n with
  | none => .next s
  | some e =>
    if !e.rm || !e.athome || s.ents.any fun x => x.rm && x.squad == e.squad && decide (x.id < e.id) then .next s
    else
      let s := { s with ents := s.ents.filter fun x => x.id != n }
      if s.ents.any fun x => x.grp == e.grp then .next s
      else .next (s.modSquad e.squad fun q => { q with cnt := { q.cnt with rm := q.cnt.rm - 1 } })

/-! ### Fences and stalled ports -/

/-- FENCE_COMPLETE (R197): the gang's instruction goes on when the earlier loads of its lanes have returned and the cumulative sets, with what
those loads have added to them, are at home. -/
def execFenceComplete (s : State) : Result :=
  onWait s (fun g q => match g.wait with
      | .fence kind scope m => s.fenceReady q m kind scope
      | _ => false)
    fun g _ => (s.unhold g).modGang g.id fun x => { x with fenced := true }

/-- MEMORY_PORT_ACCEPT (R203): a stalled MEM instruction presents itself again. -/
def execMemoryPortAccept (s : State) : Result :=
  match s.here? with
  | none => .next s
  | some (g, q) =>
    match g.wait with
    | .port => if s.portBusy g q then .next s else .next (s.unhold g)
    | .buffer => .next (s.unhold g)
    | .remote => .next (s.unhold g)
    | .limit .rm => .next (s.unhold g)
    | _ => .next s

/-- An SFU word of the gang's partition stands at a lower port than the one given, stalled in place or about to be accepted. -/
def State.sfuBefore (s : State) (g : Gang) (q : Squad) (port : Nat) : Bool :=
  s.gangs.any fun x => x.id != g.id && x.phase == .body && x.active && (x.wait == .sfu || x.wait == .none) && x.header.classAt x.pos == some .sfu &&
    (x.port.any fun k => decide (k < port)) &&
    match s.squad? x.squad with | some y => y.core == q.core && y.part == q.part && y.shadow == q.shadow | none => false

/-- SFU_ACCEPT (R179, R180): the unit is free, and no word at a lower port comes first. -/
def execSfuAccept (s : State) : Result :=
  onWait s (fun g q => g.wait == .sfu && decide ((s.part q.core q.part).sfuFree ≤ s.now) && !s.sfuBefore g q (g.port.getD 0)) fun g _ =>
    s.unhold g

/-! ### Run-ahead (R117) -/

/-- What the scan has seen: registers unknown, byte ranges of stores, the loads issued, and for each its lanes, home and bytes; and the reads of
slices, with the lines that miss the read-only cache: context, address, home, and whether the line is allocated. -/
structure Scan where
  unknown : List (Bool × Nat × Nat) := []
  stored : List (Nat × Nat) := []
  out : List (Word × Nat × Nat × Word × List Byte) := []
  reads : List (Lanes × Nat × Nat) := []
  slots : List (Nat × Nat) := []
  misses : List (Nat × Nat × Nat × Bool) := []
  deriving DecidableEq, Repr

/-- A run-ahead load of one lane: its home, its bytes, what it reads of a slice, and the line that it misses. -/
structure Ahead where
  home : Nat
  bytes : List Byte
  slot : List (Nat × Nat) := []
  missed : List (Nat × Nat × Nat × Bool) := []
  deriving DecidableEq, Repr

/-- A run-ahead load of one lane by its hint, when its target allows it (none ends the scan) and nothing faults. An access that overlaps a
store passed over, or an older load of the core that has not read yet, is left to its place in program order (R75). -/
def scanLoad (s : State) (q : Squad) (d : MemDesc) (hint : Nat) (x : Acc) (stored : List (Nat × Nat)) : Option (Option Ahead) :=
  let free (home : Nat) : Bool := x.va % d.n == 0 && !(stored.any fun r => decide (r.1 < home + d.n) && decide (home < r.1 + r.2)) &&
    !(s.reqs.any fun r => r.core == q.core && (!r.accepted || r.isAtomic) && r.overlaps home d.n) && !s.readPending q x.lane home d.n
  let take (a : Ahead) : Option (Option Ahead) :=
    some (if free a.home && (s.eccPieces ((a.home, d.n) :: a.slot)).isNone then some a else none)
  let view (home : Nat) : List Byte := (s.view q.core).readBytes home d.n
  match x.spot with
  | .vault home core => if core != q.core then none else take { home := home, bytes := view home }
  | .page e home =>
    let cached := !e.w && !e.noc
    if !cached && !(inSlice home && homeCore home == q.core) then none
    else
      let key := ascKey (s.spaceOf q.launch).1.id (s.spaceOf q.launch).2.id
      let line := home / 128 * 128
      if !cached || hint == 2 then take { home := home, bytes := view home, slot := [(home, d.n)] }
      else
        (match s.roLine q.core key x.va home with
         | some ln => take { home := home, bytes := (ln.bytes.drop (home % 128)).take d.n }
         | none => take { home := home, bytes := view home, slot := [(line, 128)], missed := [(key, x.va / 128 * 128, line, hint == 0)] })
  | .stack home => take { home := home, bytes := view home, slot := [(home, d.n)] }
  | _ => some none

/-- A store that the scan may pass: own vault, stack, or a page of the own slice in the TLB. -/
def scanStore (q : Squad) (x : Acc) : Option Nat :=
  match x.spot with
  | .vault home core => if core = q.core then some home else none
  | .stack home => some home
  | .page _ home => if !homeIsHost home && homeChip home == 0 && homeCore home == q.core then some home else none
  | _ => none

/-- One word of the scan; none ends it. -/
def scanWord (s : State) (g : Gang) (q : Squad) (pc : Word) (pos : Nat) (cls : Option Eng) (tail : Bool) (w : Word) (z : Scan) :
    Option Scan :=
  match cls with
  | some .lane => some { z with unknown := z.unknown ++ destUnknown w }
  | some .sfu => some { z with unknown := z.unknown ++ destUnknown w }
  | some .mem =>
    match decodeWord .mem tail w with
    | .ok (.ld f) =>
      let d := ldDesc f
      if !d.ok q then none
      else if baseUnknown z.unknown d.base then some { z with unknown := z.unknown ++ d.writes }
      else
        let rs := (accsOf s g q d).map fun x => (x, scanLoad s q d (hintOf f.mod) x z.stored)
        let got := rs.filterMap fun r => match r.2 with | some (some a) => some (r.1, a) | _ => none
        if rs.any fun r => r.2.isNone then none
        else
          some { z with
            unknown := z.unknown ++ d.writes
            out := z.out ++ got.map fun r => (pc, pos, r.1.lane, BitVec.ofNat 64 r.1.va, r.2.bytes)
            reads := z.reads ++ got.map fun r => (r.1.lanes d (heldLanes d.c g q), r.2.home, d.n)
            slots := (z.slots ++ got.flatMap fun r => r.2.slot).eraseDups
            misses := (z.misses ++ got.flatMap fun r => r.2.missed).eraseDups }
    | .ok (.pref _) => some z
    | .ok (.st f) =>
      let d := stDesc f
      if !d.ok q || baseUnknown z.unknown d.base then none
      else
        let rs := (accsOf s g q d).map fun x => scanStore q x
        if rs.any fun r => r.isNone then none
        else some { z with stored := z.stored ++ rs.filterMap fun r => r.map fun h => (h, d.n) }
    | _ => none
  | _ => none

/-- The words of the clause at pc from a position, n in all at most; whether the clause's end was reached. -/
def scanClause (s : State) (g : Gang) (q : Squad) (pc : Word) (h : Header) (ws : List Word) (n pos : Nat) (z : Scan) :
    Scan × Nat × Bool :=
  match n with
  | 0 => (z, 0, false)
  | k + 1 =>
    if pos > h.len then (z, k + 1, true)
    else
      match scanWord s g q pc pos (h.classAt pos) (h.isTailAt pos) (ws.getD (pos - 1) 0) z with
      | none => (z, 0, false)
      | some z => scanClause s g q pc h ws k (pos + 1) z

/-- The gang is stalled at its word, and what it waits for are loads of its own that its own slice serves (R117). -/
def State.stalledOnLoad (s : State) (g : Gang) (e : Eng) : Bool :=
  g.phase == .body && g.wait == .none && g.block.isEmpty && s.interlocked g e g.word &&
  ((g.needs e g.word).all fun p => s.reqs.any fun r => r.id == p.1 && !r.isAtomic && !r.acquire && !r.remote && !r.host) &&
  (!usesLatch e g.word || (s.reqs.filter fun r => r.gang == g.id && r.c.le).all fun r => !r.isAtomic && !r.acquire && !r.remote && !r.host) &&
  !s.ops.any fun o => o.gang == g.id && o.gang != 0

/-- The stalled word is passed over as the scan passes words; a CVTA there, and an operation of an engine that orders no later access, are passed
too. An ordering point there, or a store that cannot be shown to be the gang's own, lets nothing run ahead (R91). -/
def stalledWord (s : State) (g : Gang) (q : Squad) (e : Eng) (z : Scan) : Option Scan :=
  match e with
  | .copy | .mtx | .row | .sig => some z
  | _ =>
    match decodeWord e (g.header.isTailAt g.pos) g.word with
    | .ok (.cvta w) => some { z with unknown := z.unknown ++ cvtaWrites w }
    | _ => scanWord s g q g.pc g.pos (some e) (g.header.isTailAt g.pos) g.word z

/-- A word of a clause that follows, as a fetch would give it now; none when it is not translated or faults. -/
def peekWord (s : State) (q : Squad) (va : Nat) : Option Word :=
  let key := ascKey (s.spaceOf q.launch).1.id (s.spaceOf q.launch).2.id
  if apertureOf va != .global then none else
  match s.tlbFind q.core key va with
  | none => none
  | some e =>
    let home := e.pa + (va - e.va)
    if s.reserved home || !e.x || e.w || (s.eccDouble home 8).isSome then none
    else some (match if e.noc then none else s.roLine q.core key va home with
      | some ln => BitVec.ofNat 64 (fieldAt ln.bytes (va % 128) 8)
      | none => BitVec.ofNat 64 (s.mem.readN home 8))

/-- The clause that follows by fall-through, when the scan may cross into it: its RA is 1 and its WAITZ 0. -/
def nextAhead (s : State) (g : Gang) (q : Squad) : Option (Header × List Word) :=
  match peekWord s q g.nextClause.toNat with
  | none => none
  | some hw =>
    let h := Header.ofWord hw
    if !h.ok || !h.ra || h.waitz != 0 then none
    else
      match (List.range h.len).mapM fun k => peekWord s q (g.nextClause + 8 * BitVec.ofNat 64 (k + 1)).toNat with
      | some ws => some (h, ws)
      | none => none

/-- What a scan has read is read now: by its lanes, at the slices, and through the read-only cache (R66, R69, R91). -/
def State.ranAhead (s : State) (q : Squad) (z : Scan) : State :=
  let s := z.reads.foldl (fun s r => noteRead s q r.1 r.2.1 r.2.2 none) s
  let s := (s.eccFix (z.slots ++ z.reads.map fun r => (r.2.1, r.2.2))).sliceReads q.core s.now z.slots
  z.misses.foldl (fun (s : State) m =>
    let s := s.modCore q.core fun c => { c with rcmiss := c.rcmiss + 1 }
    if m.2.2.2 then s.lineAdd { core := q.core, pa := m.2.2.1, asc := m.1, va := m.2.1, bytes := s.mem.readBytes m.2.2.1 128 } else s) s

/-- RUN_AHEAD: a gang in a clause with RA = 1, stalled on a load that its own slice serves, scans the words that follow, at most 16, and into
the clause that follows by fall-through. -/
def execRunAhead (s : State) : Result :=
  match s.here? with
  | none => .next s
  | some (g, q) =>
    match g.header.classAt g.pos with
    | none => .next s
    | some e =>
      if !g.header.ra || !g.ra.isEmpty || !s.stalledOnLoad g e then .next s
      else
        match stalledWord s g q e { unknown := g.pend.map fun p => (p.2.1, p.2.2.1, p.2.2.2) } with
        | none => .next s
        | some z0 =>
          let (z, left, ended) := scanClause s g q g.pc g.header g.words 16 (g.pos + 1)
            { z0 with out := [], reads := [], slots := [], misses := [] }
          let z := match if ended && left != 0 then nextAhead s g q else none with
            | some (h, ws) => (scanClause s g q g.nextClause h ws left 1 z).1
            | none => z
          .next ((s.ranAhead q z).modGang g.id fun x => { x with ra := z.out })

end Sys2Proof.Machine
end

