-- ==== Sys2Proof/Machine/Barriers.lean ====
section
/-!
DEFINITION. Named barriers (R264, R265) and rejoin masks (R219 to R223): arrivals, the completion of a round, and its release.
-/
namespace Sys2Proof.Machine

/-! ### Named barriers -/

/-- The threads of a team that exist and have not exited. -/
def State.teamLive (s : State) (team : Nat) : Nat :=
  ((s.squads.filter fun q => q.team == team && !q.roam).map fun q => (lanesOf q.liveLanes).length).sum

def Team.bar (t : Team) (b : Nat) : Barrier := t.bars.getD b {}

/-- A round is complete (R264). -/
def Barrier.full (b : Barrier) (live : Nat) : Bool :=
  b.isOpen && (match b.expect with | some n => b.arrived == n | none => b.arrived == live)

def State.modBar (s : State) (team b : Nat) (f : Barrier → Barrier) : State :=
  s.modTeam team fun t => { t with bars := (List.range 16).map fun k => if k = b then f (t.bar k) else t.bar k }

/-- The completion of a round: it closes, and every gang that waits in it waits for one round less. -/
def State.barComplete (s : State) (team b : Nat) : State :=
  match s.team? team with
  | none => s
  | some t =>
    let r := (t.bar b).round
    let s := s.modBar team b fun x => { round := x.round + 1 }
    let mine := (s.squads.filter fun q => q.team == team && !q.roam).map (·.id)
    { s with gangs := s.gangs.map fun (g : Gang) =>
        match g.wait with
        | .barrier b' rs p => if b' = b ∧ mine.contains g.squad then { g with wait := .barrier b' (rs.filter fun x => x != r) p } else g
        | _ => g }

/-- One arrival: the first of a round opens it with its count operand; a full round completes. The round joined is answered. -/
def State.barArrive (s : State) (team b n : Nat) : State × Nat :=
  match s.team? team with
  | none => (s, 0)
  | some t =>
    let x := t.bar b
    let x := if x.isOpen then x else { x with isOpen := true, arrived := 0, expect := if n = 0 then none else some n }
    let x := { x with arrived := x.arrived + 1 }
    let s := s.modBar team b fun _ => x
    (s, x.round)

/-- A round that is full completes (an arrival under EXPECT, or an arrival or an exit under ALL). -/
def State.barCheck (s : State) (team b : Nat) : State :=
  match s.team? team with
  | none => s
  | some t => if (t.bar b).full (s.teamLive team) then s.barComplete team b else s

/-- After an exit the rounds under ALL may be full. -/
def State.barExit (s : State) (team : Nat) : State :=
  (List.range 16).foldl (fun s b => match s.team? team with
    | some t => if (t.bar b).expect.isNone then s.barCheck team b else s
    | none => s) s

/-- BARRIER_ARRIVAL: the lanes of one instruction reach the barrier's core together and are counted in ascending order. An arrival
whose count differs from EXPECT of an open round raises ILLEGAL_OPERAND in its gang, which makes no arrival. When no gang holds a lane of a BARARV
any more, the model raises no trap, which R264 leaves open (DESIGN CHOICE, notes/assumptions/23.md). -/
def execBarrierArrival (n : Nat) (s : State) : Result :=
  match s.arrs.find? fun a => a.id == n with
  | none => .next s
  | some a =>
    let s := { s with arrs := s.arrs.filter fun x => x.id != n }
    match s.team? a.team with
    | none => .next s
    | some t =>
      let x := t.bar a.b
      if x.isOpen && x.expect != (if a.n = 0 then none else some a.n) then
        match s.gangs.find? fun g => g.squad == a.squad && (g.id == a.gang || g.lanes &&& a.lanes != 0) with
        | some g =>
          let g := { g with pc := a.pc, pos := a.pos, hdr := a.hdr, words := List.replicate (a.pos - 1) 0 ++ [a.word], wait := .none }
          let s := s.modGang g.id fun y => { y with wait := .none }
          .next (s.takeTrap g cIllegalOperand (a.lanes &&& g.lanes) 0 a.word)
        | none => .next s
      else
        let (s, rs) := (lanesOf a.lanes).foldl (fun (acc : State × List Nat) _ =>
          let (s, r) := acc.1.barArrive a.team a.b a.n
          let s' := s.barCheck a.team a.b
          let closed := match s'.team? a.team with | some t => (t.bar a.b).round != r | none => true
          (s', (if closed then acc.2.filter fun y => y != r else acc.2 ++ [r]))) (s, [])
        if a.waits then
          .next (s.modGang a.gang fun g => match g.wait with
            | .barrier b old true => { g with wait := .barrier b (old ++ rs) false }
            | _ => g)
        else .next s

/-- BARRIER_RELEASE: every round that the gang's lanes joined has completed; its BAR ends with the acquire of R273. -/
def execBarrierRelease (s : State) : Result :=
  onWait s (fun g _ => match g.wait with | .barrier _ [] false => true | _ => false) fun g q =>
    let s := (acquireLanes s q.id g.lanes 2).settled g
    (s.unhold g).advance g.id

/-! ### Rejoin masks -/

def Squad.mask (q : Squad) (j : Nat) : RjMask := q.rj.getD j {}
def Squad.modMask (q : Squad) (j : Nat) (f : RjMask → RjMask) : Squad :=
  { q with rj := (List.range 8).map fun k => if k = j then f (q.mask k) else q.mask k }

/-- Whether a lane waits at an RJWAIT on mask j, and on another. -/
def Squad.waitsOn (q : Squad) (j l : Nat) : Bool :=
  match (q.lane l).st with | .rejoin k _ _ _ _ _ => k == j && !((q.mask j).fired.getLsbD l) | _ => false
def Squad.waitsElsewhere (q : Squad) (j l : Nat) : Bool :=
  match (q.lane l).st with | .rejoin k _ _ _ _ _ => k != j && !((q.mask k).fired.getLsbD l) | _ => false

/-- The current round of mask j is complete (R221). -/
def Squad.roundDone (q : Squad) (j : Nat) : Bool :=
  let m := q.mask j
  (m.a != 0 || m.n != 0) &&
  (lanesOf m.e).all fun l =>
    (q.lane l).st != .parked && (m.a.getLsbD l || (q.lane l).st == .exited || q.waitsElsewhere j l)

/-- Completion of a round: the lanes that wait in it are released, and those of N wait in the new one. -/
def Squad.completeRound (q : Squad) (j : Nat) : Squad :=
  let out := lanesWhere q.existing fun l => match (q.lane l).st with
    | .rejoin k _ _ _ true _ => k == j && !((q.mask j).fired.getLsbD l)
    | _ => false
  let set := (q.mask j).set
  let q := q.modMask j fun m => { m with a := m.n, n := 0, fired := m.fired ||| out, set := m.set ++ m.setN, setN := [] }
  let q := q.modLanes out fun _ x => { x with seen := (x.seen ++ set).eraseDups }
  q.modLanes (q.existing &&& ~~~out) fun _ x =>
    match x.st with
    | .rejoin k c p n false t => if k = j then { x with st := .rejoin k c p n true t } else x
    | _ => x

/-- Rounds complete while one can (R221): those whose conditions hold at one instant complete together (R222). -/
def Squad.rejoins (q : Squad) (fuel : Nat) : Squad :=
  match fuel with
  | 0 => q
  | k + 1 =>
    match (List.range 8).filter fun j => q.roundDone j with
    | [] => q
    | js => Squad.rejoins (js.foldl Squad.completeRound q) k

/-- The rounds of a squad are evaluated (R221). Each completion ends a round with an arrival, so that 32 passes for each mask
suffice. -/
def State.rejoinEval (s : State) (squad : Nat) : State := s.modSquad squad fun q => q.rejoins 256

/-- The released lanes of one RJWAIT: those of its clause and position, in one handler or in none. -/
def rejoinGroups (q : Squad) (m : Lanes) : List ((Word × Nat × Word × Option TrapCtx) × Lanes) :=
  (lanesOf m).foldl (fun acc l =>
    match (q.lane l).st with
    | .rejoin _ c p n _ _ =>
      let k := (c, p, n, (q.lane l).htrap)
      if acc.any fun y => y.1 == k then acc.map fun y => if y.1 == k then (y.1, y.2 ||| lanesMask [l]) else y
      else acc ++ [(k, lanesMask [l])]
    | _ => acc) []

/-- Results that had not arrived when lanes left their gangs, and that have still not (R95). -/
def State.stillPending (s : State) (q : Squad) (m : Lanes) : List (Nat × Bool × Nat × Nat) :=
  (((lanesOf m).map fun l => (q.lane l).pend).flatten.eraseDups).filter fun p =>
    (s.reqs.any fun r => r.id == p.1) || s.ops.any fun o => o.id == p.1 && !o.done

/-- The entry that a squad keeps for the lanes of an RJWAIT of a NOSW clause (R212): the earliest, while it is still free. -/
def State.keptEntry (s : State) (q : Squad) (mask : Nat) (pc : Word) (pos : Nat) : Option Nat :=
  let used := (s.gangs.filter fun g => g.active && match s.squad? g.squad with
    | some y => y.core == q.core && y.part == q.part && y.shadow == q.shadow
    | none => false).length
  if 8 ≤ used then none
  else ((q.kept.filter fun k => k.1 == mask && k.2.1 == pc && k.2.2.1 == pos).map fun k => k.2.2.2).min?

/-- REJOIN_RELEASE (R222): each group of the released lanes of a mask becomes one gang at the clause that follows its RJWAIT, after
an acqrel fence at squad scope (R223); in the entry that a NOSW clause has kept for it (R212), else pending. -/
def execRejoinRelease (squad mask : Nat) (s : State) : Result :=
  match s.squad? squad with
  | none => .next s
  | some q =>
    let m := (q.mask mask).fired
    if m = 0 || s.loadsOut q m || q.place != .resident then .next s
    else
      let gs := rejoinGroups q m
      let s := s.fenceDone q m 2 1
      let s := s.modSquad squad fun q =>
        (q.modMask mask fun x => { x with fired := 0 }).modLanes m fun _ x => { x with st := .run, lat := [], htrap := none, pend := [] }
      .next (gs.foldl (fun s g =>
        let (n, s) := s.fresh
        let e := s.keptEntry q mask g.1.1 g.1.2.1
        let s := s.modSquad squad fun y =>
          { y with kept := y.kept.filter fun k => !(k.1 == mask && k.2.1 == g.1.1 && k.2.2.1 == g.1.2.1) }
        { s with gangs := s.gangs ++ [{ id := n, squad := squad, lanes := g.2, pc := g.1.2.2.1, entry := e.getD s.now, active := e.isSome,
                                        ready := s.now, pend := s.stillPending q g.2,
                                        handler := g.1.2.2.2.isSome, trap := g.1.2.2.2.getD {} }] }) s)

end Sys2Proof.Machine
end

