-- ==== Sys2Proof/Machine/Ctl.lean ====
section
/-!
DEFINITION. The CTL instructions (R116, R213 to R218, R220): branches and the split of a gang, EXIT, YIELD, traps and the return from
a handler, rejoin masks, loops.
-/
namespace Sys2Proof.Machine

/-- A CTL instruction whose operands are checked. -/
def ctlOp (s : State) (ok : Squad → Bool) (k : Gang → Squad → State) : Result :=
  onGang s fun g q => checked s g q .ctl (ok q) (k g q)

/-! ### Transfers of control (R97, R207, R215) -/

/-- The fault of a target: APERTURE outside the global aperture, MISALIGNED off an 8-byte boundary. -/
def targetFault (t : Word) : Option Nat :=
  if apertureOf t.toNat != .global then some cAperture else if t.toNat % 8 != 0 then some cMisaligned else none

/-- The lanes go to their targets, or the gang traps before any lane moves (R97). Lanes without a target go to the next clause. -/
def State.transfer (s : State) (g : Gang) (ts : List (Nat × Word)) : State :=
  let bad := ts.filterMap fun t => (targetFault t.2).map fun c => (t.1, t.2, c)
  match (bad.map fun b => b.2.2).min? with
  | some code =>
    let mine := bad.filter fun b => b.2.2 == code
    let addr := match mine with | b :: _ => b.2.1 | [] => 0
    s.takeTrap g code (lanesMask (mine.map (·.1))) addr (memDetail 0 7 false false true false)
  | none =>
    s.split g ((lanesOf g.lanes).map fun l =>
      (l, (match ts.find? fun t => t.1 == l with | some t => t.2 | none => g.nextClause), g.handler))

/-- self + 8 × OFF26 (R105). -/
def fcTarget (g : Gang) (w : FC) : Word := g.pc + (w.off.signExtend 64) <<< 3

/-- The targets of the lanes whose guard holds. -/
def targets (g : Gang) (q : Squad) (c : Common) (f : Nat → Word) : List (Nat × Word) :=
  (lanesOf (heldLanes c g q)).map fun l => (l, f l)

def execBra (w : FC) (s : State) : Result :=
  ctlOp s (fun q => guardFieldOk q w.c) fun g q => s.transfer g (targets g q w.c fun _ => fcTarget g w)

def execBrx (w : FM) (s : State) : Result :=
  ctlOp s (fun q => guardFieldOk q w.c && srcOk q false .base w.sa && srcOk q false .r32 w.sb) fun g q =>
    s.transfer g (targets g q w.c fun l => val64 q l w.sa + ((val32 q l w.sb).signExtend 64) <<< 3)

def execRet (w : FM) (s : State) : Result :=
  ctlOp s (fun q => guardFieldOk q w.c && srcOk q false .base w.sa) fun g q =>
    s.transfer g (targets g q w.c fun l => val64 q l w.sa)

/-- CALL writes its link pair only when no target faults (R215). -/
def execCall (w : FC) (s : State) : Result :=
  ctlOp s (fun q => guardFieldOk q w.c && (w.c.dk == .vec || w.c.dk == .uni) && dstOk q w.c 2 true false) fun g q =>
    let ts := targets g q w.c fun _ => fcTarget g w
    let held := heldLanes w.c g q
    let s := if held = 0 || ts.any (fun t => (targetFault t.2).isSome) then s
      else s.modSquad q.id fun x =>
        match w.c.dk with
        | .uni => putUniform x w.c 2 g.lanes g.nextClause.toNat
        | _ => (lanesOf held).foldl (fun x l => putLane x w.c 2 l g.nextClause.toNat) x
    s.transfer g ts

/-! ### LOOP and LBRK (R218) -/

/-- The count register: uniform or vector, and its number. -/
def loopUni (w : FC) : Bool := w.aux.getLsbD 7
def loopReg (w : FC) : Nat := (w.aux.extractLsb' 0 7).toNat
def loopOk (w : FC) (q : Squad) : Bool :=
  guardFieldOk q w.c && if loopUni w then !q.roam && decide (loopReg w < q.sregs) else decide (loopReg w < vecLimit q)

/-- The count of a lane, and its new value with whether the lane goes back. -/
def loopCount (w : FC) (q : Squad) (l : Nat) : Nat :=
  (if loopUni w then q.uni (loopReg w) else regGet (q.lane l).v (loopReg w)).toNat

/-- Writes counts: once for a uniform register, per lane otherwise. -/
def loopPut (w : FC) (q : Squad) (ls : List Nat) (f : Nat → Nat) : Squad :=
  if loopUni w then
    match ls with
    | l :: _ => q.setUni (loopReg w) 1 (f (loopCount w q l))
    | [] => q
  else
    let new := ls.map fun l => (l, f (loopCount w q l))
    new.foldl (fun q x => q.modLane x.1 fun y => { y with v := regSet y.v (loopReg w) (BitVec.ofNat 32 x.2) }) q

/-- The words from the loop head to a LOOP that is taken are kept when they number at most 64 (R218). -/
def State.loopTaken (s : State) (g : Gang) (head : Nat) : State :=
  let last := (g.pc + 8#64 * BitVec.ofNat 64 g.pos).toNat
  s.modGang g.id fun x => { x with loop := if head ≤ last ∧ (last - head) / 8 + 1 ≤ 64 then some (head, last) else none }

/-- The lanes of a loop instruction move when no target faults. -/
def loopMove (w : FC) (loops : Bool) (s : State) (g : Gang) (q : Squad) (back : Nat → Bool) (f : Nat → Nat) : State :=
  let ls := lanesOf (heldLanes w.c g q)
  let ts := (ls.filter fun l => back (loopCount w q l)).map fun l => (l, fcTarget g w)
  let bad := ts.any fun t => (targetFault t.2).isSome
  let s := if bad then s else s.modSquad q.id fun x => loopPut w x ls f
  let s := if loops && !bad && !ts.isEmpty then s.loopTaken g (fcTarget g w).toNat else s
  s.transfer g ts


def execLoop (w : FC) (s : State) : Result :=
  ctlOp s (loopOk w) fun g q => loopMove w true s g q (fun c => decide (1 < c)) fun c => if 1 < c then c - 1 else 0

def execLbrk (w : FC) (s : State) : Result :=
  ctlOp s (loopOk w) fun g q => loopMove w false s g q (fun _ => true) fun _ => 0

/-! ### EXIT, NOP, YIELD (R216, R217) -/

/-- Gangs that are held at the head of a collective clause test it again (R227). -/
def State.retest (s : State) (squad : Nat) : State :=
  { s with gangs := s.gangs.map fun (g : Gang) => if g.squad = squad ∧ g.wait = .collective then { g with wait := .none } else g }

/-- EXIT: an exited lane counts for its rejoin masks and barriers; a roaming thread leaves its slot and its launch's live count. -/
def execExit (w : FM) (s : State) : Result :=
  ctlOp s (fun q => guardFieldOk q w.c) fun g q =>
    let held := heldLanes w.c g q
    let rest := (lanesOf (g.lanes &&& ~~~held)).map fun l => (l, g.nextClause, g.handler)
    let s := s.split g rest
    if q.roam then
      (s.modLaunch q.launch fun l => { l with live := l.live - (lanesOf held).length }).vacate q.id held
    else
      let s := s.modSquad q.id fun x => x.modLanes held fun _ y => { y with st := .exited, pc := 0, coff := 0, htrap := none }
      ((s.rejoinEval q.id).barExit q.team).retest q.id

def execNop (w : FM) (s : State) : Result := ctlOp s (fun q => guardFieldOk q w.c) fun g _ => s.advance g.id

def execYield (w : FM) (s : State) : Result :=
  ctlOp s (fun q => guardFieldOk q w.c) fun g q =>
    (if heldLanes w.c g q = 0 then s else s.modGang g.id fun x => { x with yielded := true }).advance g.id

/-! ### TRAP, BKPT, TRET (R116) -/

/-- A user trap in the lanes whose guard holds. R113 gives DETAIL for neither code: it is 0 (notes/assumptions/68.md). -/
def userTrap (w : FI) (code : Nat) (s : State) : Result :=
  ctlOp s (fun q => guardFieldOk q w.c) fun g q =>
    let held := heldLanes w.c g q
    if held = 0 then s.advance g.id else s.takeTrap g code held 0 0

def execTrap (w : FI) (s : State) : Result := userTrap w cTrap s
def execBkpt (w : FI) (s : State) : Result := userTrap w cBreakpoint s

/-- Where TRET resumes: clause and position; position 0 is the clause's head. -/
def tretPoint (t : TrapCtx) (again : Bool) : Word × Nat :=
  if again then (t.pc, t.pos)
  else if t.last then (t.pc + 8#64 * BitVec.ofNat 64 ((Header.ofWord t.hdr).cnt.toNat + 2), 0)
  else (t.pc, t.pos + 1)

/-- THE RETURN FROM A HANDLER (R116): the lanes whose guard holds resume, and the others go on in the handler. A YIELD of the clause takes effect at
its end; when a plain TRET resumes past the clause's last word the model takes that end to have gone by, and the YIELD has none
(notes/assumptions/69.md). -/
def State.leaveHandler (s : State) (g : Gang) (go : Lanes) (again : Bool) : State :=
  let (pc, pos) := tretPoint g.trap again
  let s := s.split g ((lanesOf g.lanes).map fun l => if go.getLsbD l then (l, pc, false) else (l, g.nextClause, true))
  { s with gangs := s.gangs.map fun (x : Gang) =>
      if x.squad = g.squad ∧ x.lanes = go then
        { x with phase := .head, resume := pos, skipCmp := again && g.trap.regs.xcode.toNat == cBreakpoint,
                 yielded := g.trap.yielded && decide (0 < pos), nosw := false,
                 block := (x.block ++ s.accessesOut g.squad go).eraseDups }
      else x }

def execTret (w : FC) (s : State) : Result :=
  ctlOp s (fun q => guardFieldOk q w.c) fun g q =>
    if !g.handler then s.decodeTrap g cIllegalOperand
    else
      let go := heldLanes w.c g q
      if go = 0 then s.split g ((lanesOf g.lanes).map fun l => (l, g.nextClause, true))
      else s.leaveHandler g go (w.aux.getLsbD 0)

/-! ### Rejoin masks (R220) -/

def execRjset (w : FM) (s : State) : Result :=
  ctlOp s (fun q => guardFieldOk q w.c && srcOk q false .rejoin w.sa) fun g q =>
    let j := srcNum w.sa
    let held := heldLanes w.c g q
    if held = 0 then s.advance g.id
    else if (lanesOf q.existing).any fun l => q.waitsOn j l then s.decodeTrap g cIllegalOperand
    else (s.modSquad q.id fun x => x.modMask j fun m => { m with e := held, a := 0, n := 0, set := [], setN := [] }).advance g.id

/-- RJARV is a rel fence at squad scope for its lanes (R223). -/
def execRjarv (w : FM) (s : State) : Result :=
  ctlOp s (fun q => guardFieldOk q w.c && srcOk q false .rejoin w.sa) fun g q =>
    let held := heldLanes w.c g q
    if held = 0 then s.advance g.id
    else withRelease s g q held true 1 fun s =>
      let s := s.fenceDone q held 1 1
      let set := s.cumulativeOf q held
      let s := s.modSquad q.id fun x => x.modMask (srcNum w.sa) fun m => { m with a := m.a ||| held, set := (s.livePosts m.set ++ set).eraseDups }
      (s.rejoinEval q.id).advance g.id

/-- RJWAIT: a lane that has arrived waits for the next round, another one in the current round. When a NOSW clause ends in it and all its lanes
wait, they keep the entry (R212). -/
def execRjwait (w : FM) (s : State) : Result :=
  ctlOp s (fun q => guardFieldOk q w.c && srcOk q false .rejoin w.sa) fun g q =>
    let j := srcNum w.sa
    let held := heldLanes w.c g q
    let old := (q.mask j).a
    let set := s.cumulativeOf q (held &&& ~~~old)
    let setN := s.cumulativeOf q (held &&& old)
    let rest := (lanesOf (g.lanes &&& ~~~held)).map fun l => (l, g.nextClause, g.handler)
    let s := s.split g rest
    let keeps := g.active && g.header.nosw && rest.isEmpty
    let s := s.modSquad q.id fun x =>
      ({ x with kept := if keeps then x.kept ++ [(j, g.pc, g.pos, g.entry)] else x.kept }.modMask j fun m =>
        { m with a := m.a ||| held, n := m.n ||| (held &&& old), set := (s.livePosts m.set ++ set).eraseDups,
                 setN := (s.livePosts m.setN ++ setN).eraseDups }).modLanes held fun l y =>
        { y with st := .rejoin j g.pc g.pos g.nextClause (!old.getLsbD l) s.now, pc := g.pc, coff := g.pos, pend := g.pend,
                 htrap := if g.handler then some g.trap else none }
    s.rejoinEval q.id

/-! ### An unassigned opcode (R109) -/

def execUnassignedOpcode (_eng : BitVec 4) (_tail : Bool) (_word : Word) (s : State) : Result :=
  onGang s fun g _ => s.decodeTrap g cIllegalEncoding

end Sys2Proof.Machine
end

