-- ==== Sys2Proof/Machine/Sequencer.lean ====
section
/-!
DEFINITION. The sequencer (R31, R32, R35, R92 to R97, R205 to R212, R216, R227, R229, R269, R270): clause fetch and clause start, the
active set, the release of counter waits, the retirement of engine operations and of squads.
-/
namespace Sys2Proof.Machine

/-! ### Counters (R16, R269, R270) -/

def Counters.get (c : Counters) (k : CounterClass) : Nat :=
  match k with | .cp => c.cp | .mx => c.mx | .rw => c.rw | .sg => c.sg | .rm => c.rm | .xp => c.xp

def Counters.put (c : Counters) (k : CounterClass) (n : Nat) : Counters :=
  match k with
  | .cp => { c with cp := n }
  | .mx => { c with mx := n }
  | .rw => { c with rw := n }
  | .sg => { c with sg := n }
  | .rm => { c with rm := n }
  | .xp => { c with xp := n }

def classCode (k : CounterClass) : Nat := match k with | .cp => 0 | .mx => 1 | .rw => 2 | .sg => 3 | .rm => 4 | .xp => 5

/-- Class codes of R271. -/
def classOf (n : Nat) : CounterClass :=
  match n with | 0 => .cp | 1 => .mx | 2 => .rw | 3 => .sg | 4 => .rm | _ => .xp

/-- The classes that WAITZ names (R93). -/
def waitzClasses (z : BitVec 6) : List CounterClass :=
  ((List.range 6).filter fun k => z.getLsbD (5 - k)).map classOf

/-- The floating-point flags of retired operations of the classes join %fflags of every lane that exists and has not exited. -/
def mergeFlags (q : Squad) (cs : List CounterClass) : Squad :=
  let f := (if cs.contains .mx then q.mxFlags else 0) ||| (if cs.contains .rw then q.rwFlags else 0) |||
    (if cs.contains .sg then q.sgFlags else 0)
  let q := { q with
    mxFlags := if cs.contains .mx then 0 else q.mxFlags
    rwFlags := if cs.contains .rw then 0 else q.rwFlags
    sgFlags := if cs.contains .sg then 0 else q.sgFlags }
  raiseLanes q q.liveLanes f

/-- THE RELEASE OF A COUNTER WAIT (R270): the ordering of R84, the merged flags, and the oldest engine fault held with a retired
operation of the classes, which is delivered to the gang; otherwise k. -/
def State.counterRelease (s : State) (g : Gang) (cs : List CounterClass) (k : State → State) : State :=
  let s := s.joinEngine g.squad
  let s := s.modSquad g.squad fun q => mergeFlags q cs
  match s.squad? g.squad with
  | none => s
  | some q =>
    match q.held.find? fun h => cs.contains h.1 with
    | some h => (s.modSquad q.id fun x => { x with held := x.held.erase h }).deliver g h.2
    | none => k s

/-- The command processor lowers the xp count in the frame of a saved squad (R37). -/
def State.frameXp (s : State) (q : Squad) (frame : Nat) : State :=
  match engRange s q.launch none none (dieOf q.core) { scratch := false, lateral := false } true (frame + 0x3A) 2 with
  | .ok ((home, _) :: _) => s.writeHome home (toBytes 2 (q.cnt.xp - 1)) false
  | _ => s

/-- Writes of an operation that are not at home. -/
def State.opPosts (s : State) (o : EngOp) : Bool := s.ents.any fun e => e.op == some o.id && e.pending

/-- OPERATION_RETIRE (R16): the oldest operation of a class of a squad retires once it is complete and its updates are performed; the writes
of a copy and of a pass are then at home (R285, R378), and those of another operation are performed at core scope (R84), and reach home later. Its fault is held for the covering wait (R111), and its flags await
their merge. -/
def execOperationRetire (squad : Nat) (cls : CounterClass) (s : State) : Result :=
  match s.ops.find? fun o => o.squad == squad && o.cls == cls with
  | none => .next s
  | some o =>
    if !o.done || o.upds != 0 || ((cls == .cp || o.isRoute) && s.opPosts o) then .next s
    else
      let s := { s with ops := s.ops.filter fun x => x.id != o.id }
      let s := s.modCore o.core fun c =>
        match cls with
        | .cp => { c with cpops := c.cpops + 1, cpbytes := c.cpbytes + o.bytes }
        | .mx => { c with mxops := (List.range 3).map fun k => c.mxops.getD k 0 + boolNat (k == engineOf o.part) }
        | .rw => { c with rwops := c.rwops + 1 }
        | .sg => { c with sgops := c.sgops + 1 }
        | _ => c
      let s := s.modDie (dieOf o.core) fun d =>
        if o.isRoute then { d with rtops := d.rtops + 1 } else if o.isCb then { d with cbops := d.cbops + 1 } else d
      let s := s.wakeWaits fun g _ => g.squad == squad && g.wait == .limit cls
      let s := s.wakeWaits fun g q => g.wait == .queue && g.header.eng != 9 && dieOf q.core == dieOf o.core
      let s := match s.squad? squad, cls with
        | some q, .xp => (match q.place with
          | .saved _ frame => s.frameXp q frame.toNat
          | .resident => s)
        | _, _ => s
      .next (s.modSquad squad fun q =>
        let q := { q with cnt := q.cnt.put cls (q.cnt.get cls - 1) }
        let q := match o.fault with | some f => { q with held := q.held ++ [(cls, f)] } | none => q
        match cls with
        | .mx => { q with mxFlags := q.mxFlags ||| o.flags }
        | .rw => { q with rwFlags := q.rwFlags ||| o.flags }
        | .sg => { q with sgFlags := q.sgFlags ||| o.flags }
        | _ => q)

/-- COUNTER_WAIT_RELEASE: the WAITE or WAITZ on which the gang waits releases (R270). -/
def execCounterWaitRelease (s : State) : Result :=
  match s.here? with
  | none => .next s
  | some (g, q) =>
    match g.wait with
    | .counter c n =>
      if n.toNat < q.cnt.get c || q.saving.isSome then .next s
      else .next ((s.unhold g).counterRelease g [c] fun s => s.advance g.id)
    | .waitz =>
      let cs := waitzClasses g.header.waitz
      if q.saving.isSome || cs.any fun c => q.cnt.get c != 0 then .next s
      else .next ((s.unhold g).counterRelease g cs fun s => s.modGang g.id fun x => { x with fenced := true })
    | _ => .next s

/-! ### The fetch of clauses (R65, R97, R209) -/

/-- A word of a clause in the read-only cache of the core, through the TLB. -/
def cachedWord (s : State) (q : Squad) (va : Nat) : Option Word :=
  let key := ascKey (s.spaceOf q.launch).1.id (s.spaceOf q.launch).2.id
  match s.tlbFind q.core key va with
  | none => none
  | some e =>
    if !e.x || e.w || e.noc || apertureOf va != .global then none
    else (s.roLine q.core key va (e.pa + (va - e.va))).map fun ln => BitVec.ofNat 64 (fieldAt ln.bytes (va % 128) 8)

/-- A whole clause in the read-only cache. A header that fails its check stands alone. -/
def cachedClause (s : State) (q : Squad) (pc : Word) : Option (Word × List Word) :=
  match cachedWord s q pc.toNat with
  | none => none
  | some h =>
    if !(Header.ofWord h).ok then some (h, [0])
    else
      let ws := (List.range (Header.ofWord h).len).map fun k => cachedWord s q ((pc + 8 * BitVec.ofNat 64 (k + 1)).toNat)
      if ws.all Option.isSome then some (h, ws.filterMap id) else none

/-- Why a word of a clause is not fetched: a fault with its reason and walk level, an error of the word in memory that cannot be corrected, or a
miss of the TLB. -/
inductive NoFetch where
  | fault (code reason level : Nat)
  | error (word : Nat)
  | miss
  /-- it stands behind the requests that came to the slice before it (R68) -/
  | queued
  deriving DecidableEq, Repr

/-- Fetches one word from home for a gang: through the TLB, or with the fault that a walk for the gang has met; its page must be executable
and read-only, and its line is allocated. -/
def fetchWord (s : State) (g : Gang) (q : Squad) (va : Nat) : State × Except NoFetch Word :=
  let (f, a) := s.spaceOf q.launch
  let key := ascKey f.id a.id
  if apertureOf va != .global then (s, .error (.fault cAperture 0 7))
  else if va % 8 != 0 then (s, .error (.fault cMisaligned 0 7))
  else
    match s.tlbFind q.core key va with
    | none =>
      match g.wfault.find? fun w => w.1.toNat == va / 4096 with
      | some w => (s, .error (.fault cPageNotPresent w.2.1 w.2.2))
      | none => (s, .error .miss)
    | some e =>
      let home := e.pa + (va - e.va)
      if s.reserved home then (s, .error (.fault cPageNotPresent 2 e.level))
      else if !e.x || e.w then (s, .error (.fault cPermission 1 7))
      else
        match if e.noc then none else s.roLine q.core key va home, s.eccPieces [if e.noc then (home, 8) else (home / 128 * 128, 128)] with
        | some ln, _ => (s, .ok (BitVec.ofNat 64 (fieldAt ln.bytes (va % 128) 8)))
        | none, some w => (s, .error (.error w))
        | none, none =>
          let read := if e.noc then (home, 8) else (home / 128 * 128, 128)
          if s.queued q.core g.since [read] then (s, .error .queued) else
          if e.noc then ((s.eccFix [(home, 8)]).sliceReads q.core g.since [(home, 8)], .ok (BitVec.ofNat 64 (s.mem.readN home 8)))
          else
          let s := s.eccFix [(home / 128 * 128, 128)]
          let s := (s.modCore q.core fun c => { c with rcmiss := c.rcmiss + 1 }).sliceReads q.core g.since [(home / 128 * 128, 128)]
          let bytes := s.mem.readBytes (home / 128 * 128) 128
          (s.lineAdd { core := q.core, pa := home / 128 * 128, asc := key, va := va / 128 * 128, bytes := bytes },
           .ok (BitVec.ofNat 64 (fieldAt bytes (home % 128) 8)))

/-- Fetches n words; the address of the first that fails comes with its reason. -/
def fetchWords (s : State) (g : Gang) (q : Squad) (pc : Word) (n : Nat) : State × Except (NoFetch × Nat) (List Word) :=
  (List.range n).foldl (fun acc k =>
    match acc.2 with
    | .error e => (acc.1, .error e)
    | .ok ws =>
      let va := (pc + 8 * BitVec.ofNat 64 k).toNat
      match fetchWord acc.1 g q va with
      | (s, .ok w) => (s, .ok (ws ++ [w]))
      | (s, .error e) => (s, .error (e, va))) (s, .ok [])

/-- The fault of a clause fetch: PAGE_NOT_PRESENT parks every lane, any other is delivered at the header (R97). -/
def State.fetchFault (s : State) (g : Gang) (q : Squad) (code reason level va : Nat) : State :=
  let rec1 (m : Lanes) : FaultRec :=
    { code := code, eng := 0xF0, coff := 0, lanes := m, pc := g.pc, addr := BitVec.ofNat 64 va,
      detail := memDetail reason level false false true false }
  let g := { g with pos := 0 }
  if code = cPageNotPresent then
    if q.roam then s.holdRoaming g q ((lanesOf g.lanes).map fun l => (l, rec1 (lanesMask [l])))
    else s.park g g.lanes fun l => rec1 (lanesMask [l])
  else s.deliver g (rec1 g.lanes)

/-- A word of a clause that is not fetched: a miss goes to the walker of the die (R62), and a fault to the gang (R97); the lanes of a
roaming gang are held once their loads have returned (R245). -/
def State.noFetch (s : State) (g : Gang) (q : Squad) (e : NoFetch) (va : Nat) : State :=
  match e with
  | .error w => (s.unhold g).eccFatal q.launch q.core q.part 0xF0 0 g.lanes g.pc w
  | .fault c r l => if q.roam && c == cPageNotPresent && s.loadsOut q g.lanes then s else (s.unhold g).fetchFault g q c r l va
  | .miss => s.startWalks g q [va]
  | .queued => s

/-- CLAUSE_FETCH: a missed clause fetch returns its words, misses the TLB, or faults (R97). -/
def execClauseFetch (s : State) : Result :=
  onWait s (fun g _ => g.wait == .fetch) fun g q =>
    match fetchWord s g q g.pc.toNat with
    | (s, .error e) => s.noFetch g q e g.pc.toNat
    | (s, .ok h) =>
      if !(Header.ofWord h).ok then (s.unhold g).modGang g.id fun x => { x with hdr := h, words := [0], wfault := [] }
      else
        match fetchWords s g q (g.pc + 8) (Header.ofWord h).len with
        | (s, .error e) => s.noFetch g q e.1 e.2
        | (s, .ok ws) => (s.unhold g).modGang g.id fun x => { x with hdr := h, words := ws, wfault := [] }

/-! ### The active set (R31, R32, R35) -/

/-- The class rank of a gang: 0 load, 1 store, 2 the rest; ageing lowers it (R32). -/
def classRank (g : Gang) (q : Squad) : Nat :=
  (match q.role with | some .load => 0 | some .store => 1 | _ => 2) - g.boost

/-- No gang of a squad issues: it is not resident, or its bank does not run (R36). -/
def State.frozen (s : State) (q : Squad) : Bool :=
  q.place != .resident || (s.part q.core q.part).shadow != q.shadow || decide (s.now < (s.part q.core q.part).swapAt)

/-- Whether the issue of a squad is stopped: so, or a save of it has begun (R37, R363). A gang within a clause runs to that clause's
end or to a wait, where its place can be recorded (notes/assumptions/40.md). -/
def State.stopped (s : State) (q : Squad) : Bool := s.frozen q || q.saving.isSome

/-- Nothing but a result that has not arrived holds the gang. -/
def State.gangReady (s : State) (g : Gang) (q : Squad) : Bool :=
  g.wait == .none && g.block.isEmpty && !s.stopped q

/-- The word at a position of a clause depends on a long-latency result of the gang (R211). -/
def State.firstAwaits (s : State) (g : Gang) (h : Header) (ws : List Word) (pos : Nat) : Bool :=
  match h.classAt pos with | some e => s.awaitsLoad g e (ws.getD (pos - 1) 0) | none => false

/-- A gang is ready (R31, R210): nothing holds it, within a clause its word is not interlocked, and at a clause head the first word that it
will issue does not depend on a long-latency result. -/
def State.isReady (s : State) (g : Gang) (q : Squad) : Bool :=
  s.gangReady g q &&
  match g.phase with
  | .body => (match g.header.classAt g.pos with | some e => !s.interlocked g e g.word | none => true)
  | _ => !(!g.words.isEmpty && s.firstAwaits g g.header g.words (max 1 g.resume))

/-- Some lane of a squad stands parked: the squad counts as neither ready nor blocked for R35 (R39). -/
def Squad.hasParked (q : Squad) : Bool := (List.range 32).any fun l => (q.lane l).st == .parked

/-- The gangs of a partition in one bank, with their squads. -/
def State.gangsOf (s : State) (core part : Nat) (shadow : Bool) : List (Gang × Squad) :=
  s.gangs.filterMap fun g =>
    match s.squad? g.squad with
    | some q => if q.core = core ∧ q.part = part ∧ q.shadow = shadow then some (g, q) else none
    | none => none

/-- Earlier in the order of R32. -/
def before32 (a b : Gang × Squad) : Bool :=
  let ra := classRank a.1 a.2
  let rb := classRank b.1 b.2
  decide (ra < rb) || (ra == rb && (decide (a.1.entry < b.1.entry) || (a.1.entry == b.1.entry && decide (a.1.id < b.1.id))))

/-- The first of a list in an order. -/
def firstBy {α : Type} (lt : α → α → Bool) (l : List α) : Option α :=
  l.foldl (fun acc x => match acc with | none => some x | some y => if lt x y then some x else some y) none

/-- The role of a ready pending gang is missing from the active set (R35). -/
def roleMissing (active : List (Gang × Squad)) (x : Gang × Squad) : Bool :=
  x.2.role.isSome && !x.2.hasParked && !(active.any fun y => y.2.team == x.2.team && y.2.role == x.2.role)

/-- Entries of a partition that RJWAITs of NOSW clauses keep (R212); after 4,096 cy one gives way to a ready pending gang. -/
def State.keptEntries (s : State) (core part : Nat) (shadow : Bool) : Nat :=
  ((s.squads.filter fun q => q.core == core && q.part == part && q.shadow == shadow && q.place == .resident).map fun q =>
    (q.kept.filter fun k => decide (s.now < k.2.2.2 + 4096)).length).sum

/-- The gang that takes the next free entry of a partition. -/
def State.nextEntry (s : State) (core part : Nat) (shadow : Bool) : Option Gang :=
  let all := s.gangsOf core part shadow
  let active := all.filter fun x => x.1.active
  let ready := all.filter fun x => !x.1.active && s.isReady x.1 x.2
  let used := active.length + s.keptEntries core part shadow
  if 8 ≤ used then none
  else
    let missing := if used = 7 then ready.filter (roleMissing active) else []
    (if missing.isEmpty then firstBy before32 ready
     else firstBy (fun a b => decide (a.1.ready < b.1.ready)) missing).map (·.1)

/-- GANG_ENTER_ACTIVE. -/
def execGangEnterActive (s : State) : Result :=
  onWait s (fun g q => match s.nextEntry q.core q.part q.shadow with | some x => x.id == g.id | none => false) fun g q =>
    (s.modPart q.core q.part fun p => { p with swapcnt := p.swapcnt + 1 }).modGang g.id fun x =>
      { x with active := true, entry := s.now }

/-- CLASS_AGEING: ready for 256 cy without issuing, a gang rises one class, not above load; and again after 256 cy more. -/
def execClassAgeing (s : State) : Result :=
  onWait s (fun g q => s.isReady g q && decide (max g.ready g.aged + 256 ≤ s.now) && decide (0 < classRank g q)) fun g _ =>
    s.modGang g.id fun x => { x with boost := x.boost + 1, aged := s.now }

/-- Another gang of the partition is ready and pending. -/
def State.othersPend (s : State) (g : Gang) (q : Squad) : Bool :=
  (s.gangsOf q.core q.part q.shadow).any fun x => x.1.id != g.id && !x.1.active && s.isReady x.1 x.2

/-- The gang waits at the last word of its clause, for a cause that would take it from its entry but for NOSW (R211, R212). -/
def Gang.waitsLast (g : Gang) : Bool :=
  g.phase == .body && g.atLast && g.header.nosw &&
  !g.wait.inPlace && match g.wait with | .none => false | .walk => false | .queue => false | .limit _ => false | _ => true

/-- ENTRY_TIME_LIMIT (R211): at a clause boundary, after 4,096 cy in its entry, a gang makes room for a ready pending gang; NOSW does not
keep it there (R212), and a wait at the clause head, or at the last word of a NOSW clause, goes on outside the entry. -/
def execEntryTimeLimit (s : State) : Result :=
  onWait s (fun g q => g.active && (g.phase != .body || g.waitsLast) && decide (g.entry + 4096 ≤ s.now) && s.othersPend g q)
    fun g _ => s.modGang g.id fun x =>
      { x.leave with phase := if x.phase = .body then .body else .head, ready := if x.wait = .none then s.now else x.ready }

/-- Whether the header of the next clause names a counter that is not zero. -/
def waitzUnmet (q : Squad) (h : Header) : Bool := !q.roam && (waitzClasses h.waitz).any fun c => q.cnt.get c != 0

/-! ### Fusion (R208) -/

/-- A wait at a clause head, or none. -/
def Wait.atHead (w : Wait) : Bool := match w with | .none => true | .walk => true | .fetch => true | .waitz => true | .collective => true | _ => false

/-- A gang that is ready at a clause head (R208): it has finished the clause before, is not in its handler, and resumes inside no clause. A
gang whose YIELD has still to take effect has not finished its clause. -/
def fusable (s : State) (squad : Nat) (pc : Word) (g : Gang) : Bool :=
  g.squad == squad && g.pc == pc && g.phase != .body && g.wait.atHead && !g.handler && g.resume == 0 && !g.yielded &&
  (match s.squad? squad with | some q => !q.roam | none => false)

/-- Fusion: the gangs that are ready at the clause head become one, which keeps the entry with the earliest entry time; with no entry among them
its class and entry time are those of the gang whose event fuses them, which R208 leaves open (notes/assumptions/70.md). What each was waiting
for there is tested anew; a header that one of them has met in a comparator does not match again (R230). No load of a clause that one has
ended writes a latch, and what one of them has come to see of the uniform registers the fused gang sees (R223). -/
def State.fuse (s : State) (g : Gang) : State × Nat :=
  let all := s.gangs.filter fun x => x.id == g.id || fusable s g.squad g.pc x
  if !fusable s g.squad g.pc g || all.length ≤ 1 then (s, g.id)
  else
    let keep := ((firstBy (fun (a b : Gang) => decide (a.entry < b.entry)) (all.filter (·.active))).getD g).id
    let lanes := all.foldl (fun (m : Lanes) x => m ||| x.lanes) 0
    let pend := (all.map (·.pend)).flatten
    let block := (all.map (·.block)).flatten.eraseDups
    let gone := (all.filter fun x => x.id != keep).map (·.id)
    let s := all.foldl (fun s x => s.clearLatches x) s
    let unseen (x : USet) := x.gangs.contains keep && all.all fun y => x.gangs.contains y.id
    let narrow (x : USet) : USet := if unseen x then x else { x with gangs := x.gangs.filter fun i => i != keep }
    let s := s.modSquad g.squad fun q => { q with us := { q.us with recent := q.us.recent.map narrow } }
    let s := { s with
      gangs := s.gangs.filter fun x => !gone.contains x.id
      walks := s.walks.map fun (w : Walk) => if gone.contains w.gang then { w with gang := keep } else w }
    ((s.modGang keep fun x => { x with lanes := lanes, pend := pend, block := block, ra := [], wait := .none, fenced := false, stats := all.flatMap (·.stats),
                                       skipCmp := all.any (·.skipCmp) }), keep)

/-! ### Clause boundaries (R211) -/

/-- The gang leaves its entry, but for NOSW of the clause that it has ended (R212), which gives way to the limit of 4,096 cy. -/
def Gang.leaveBut (g : Gang) (limit : Bool) : Gang := if g.nosw && !limit then g else g.leave

/-- The position of a terminal instruction that does not stand last in a CTL clause (R96). -/
def misplaced (h : Header) (ws : List Word) : Option Nat :=
  if h.eng = 11 then
    ((List.range (h.len - 1)).find? fun k => ctlTerminal (opBits (ws.getD k 0)).toNat).map (· + 1)
  else none

/-- A clause at its head: from the loop buffer of the gang, when a taken LOOP has come back into its range (R218), else through the read-only
cache. -/
def State.clauseAt (s : State) (g : Gang) (q : Squad) : Option (Word × List Word) :=
  match g.loop, g.trail.find? fun x => x.1 == g.pc with
  | some (lo, hi), some c => if lo ≤ g.pc.toNat ∧ g.pc.toNat ≤ hi then some c.2 else cachedClause s q g.pc
  | _, _ => cachedClause s q g.pc

/-- The clause that a gang starts joins those of its entry; those more than 64 words away, outside the range of its loop, go. -/
def Gang.tread (g : Gang) : Gang :=
  let near (x : Word × Word × List Word) : Bool :=
    x.1 != g.pc && ((decide (x.1.toNat ≤ g.pc.toNat) && decide (g.pc.toNat - x.1.toNat < 512)) ||
      g.loop.any fun r => decide (r.1 ≤ x.1.toNat) && decide (x.1.toNat ≤ r.2))
  { g with trail := g.trail.filter near ++ [(g.pc, g.hdr, g.words)] }

/-- CLAUSE_BOUNDARY: fusion at the clause head (R208), then the rows of R211 in order, with R212. A YIELD reloads the budget of the squad's job
slice (R359). -/
def execClauseBoundary (s : State) : Result :=
  onWait s (fun g _ => g.phase == .boundary) fun g q =>
    if g.yielded then
      let budget := match s.launch? q.launch with | some l => l.r.budget | none => 0
      (s.modSquad q.id fun x => { x with budget := budget }).modGang g.id fun x =>
        { x.leave with phase := .head, yielded := false, ready := s.now, words := [] }
    else
      let (s, id) := if g.resume = 0 then s.fuse g else (s, g.id)
      match s.gang? id with
      | none => s
      | some g =>
        if g.phase = .head then s
        else
          let limit := decide (g.entry + 4096 ≤ s.now) && s.othersPend g q
          match s.clauseAt g q with
          | none =>
            s.modGang g.id fun x => { x.leaveBut limit with phase := .head, wait := .fetch, since := s.now, words := [] }
          | some (h, ws) =>
            if !(Header.ofWord h).ok || (misplaced (Header.ofWord h) ws).isSome then
              s.modGang g.id fun x => { (if limit then x.leave else x) with phase := .head, hdr := h, words := ws }
            else if g.resume = 0 && waitzUnmet q (Header.ofWord h) then
              s.modGang g.id fun x => { x.leaveBut limit with phase := .head, wait := .waitz, since := s.now, hdr := h, words := ws }
            else if !g.block.isEmpty || s.firstAwaits g (Header.ofWord h) ws (max 1 g.resume) || limit then
              s.modGang g.id fun x => { x.leave with phase := .head, hdr := h, words := ws, ready := s.now }
            else s.modGang g.id fun x => { x with phase := .head, hdr := h, words := ws }

/-! ### Clause start (R209, R227) -/

/-- The lanes of a squad that R227 wants in a collective clause and that the gang does not hold. -/
def missingLanes (g : Gang) (q : Squad) : Lanes := q.liveLanes &&& ~~~g.lanes

/-- The lanes for which a gang waits at the head of a collective clause: parked ones, and those for which it has waited there
before, until they fuse with it or exit. -/
def awaited (g : Gang) (q : Squad) : Lanes :=
  (lanesWhere q.existing fun l => (q.lane l).st == .parked) |||
  (if g.handler then 0
   else (lanesOf g.lanes).foldl (fun m l => if (q.lane l).due.1 = g.pc then m ||| (q.lane l).due.2 else m) 0)

/-- The collective hold of R227. -/
def heldCollective (g : Gang) (q : Squad) : Bool :=
  !q.roam && (g.header.eng == 6 || g.header.eng == 7 || g.header.eng == 8) &&
  missingLanes g q != 0 && missingLanes g q &&& ~~~(awaited g q) == 0

/-- The comparators of a core that match a word of a gang (R228, R229). -/
def State.matching (s : State) (g : Gang) (q : Squad) (va : Word) : List Nat :=
  if g.handler || g.skipCmp then []
  else (List.range 8).filter fun k =>
    let c := s.cmp q.core k
    c.en && c.owner == q.launch && c.bpa == va

/-- A breakpoint test of the word at va (R229): every matching comparator counts; one trap results, or k. -/
def State.breakTest (s : State) (g : Gang) (q : Squad) (va : Word) (k : State → State) : State :=
  let ms := s.matching g q va
  let s := ms.foldl (fun s c => s.modCmp q.core c fun x => { x with bpn := x.bpn + 1 }) s
  if ms.any fun c => !(s.cmp q.core c).cntOnly && decide ((s.cmp q.core c).skip < (s.cmp q.core c).bpn.toNat) then
    s.takeTrap g cBreakpoint g.lanes 0 0
  else k s

/-- Step 5 of R209: latches are cleared and the first word becomes eligible. -/
def State.enterClause (s : State) (g : Gang) (pos : Nat) : State :=
  (s.clearLatches g).modGang g.id fun x =>
    { x.tread with phase := .body, pos := pos, fenced := false, resume := 0, skipCmp := x.skipCmp && decide (0 < x.resume) }

/-- CLAUSE_START: the steps of R209 for a gang in its entry at a clause head; a resumption inside the clause takes none of them
again (R230). -/
def execClauseStart (s : State) : Result :=
  onWait s (fun g q => g.phase == .head && g.active && s.gangReady g q) fun g q =>
    let (s, id) := if g.resume = 0 then s.fuse g else (s, g.id)
    match s.gang? id with
    | none => s
    | some g =>
      let limit := decide (g.entry + 4096 ≤ s.now) && s.othersPend g q
      if g.phase ≠ .head then s
      else if !g.block.isEmpty then s.modGang g.id fun x => { x.leave with ready := s.now }
      else
      match (if g.words.isEmpty then s.clauseAt g q else some (g.hdr, g.words)) with
      | none => s.modGang g.id fun x => { x.leaveBut limit with wait := .fetch, since := s.now }
      | some (h, ws) =>
        let g := { g with hdr := h, words := ws, pos := 0 }
        let s := s.modGang g.id fun x => { x with hdr := h, words := ws, pos := 0 }
        if !g.header.ok then s.decodeTrap g cIllegalClause
        else if 0 < g.resume then s.enterClause g g.resume
        else
          match misplaced g.header ws with
          | some k => s.decodeTrap { g with pos := k } cIllegalClause
          | none =>
            if !g.fenced && waitzUnmet q g.header then
              s.modGang g.id fun x => { x.leaveBut limit with wait := .waitz, since := s.now }
            else if s.firstAwaits g g.header ws 1 then s.modGang g.id fun x => { x.leave with ready := s.now }
            else
              let go (s : State) : State :=
                if heldCollective g q then
                  (s.modSquad q.id fun x => x.modLanes g.lanes fun _ y => { y with due := (g.pc, missingLanes g q) }).modGang g.id
                    fun x => { x.leave with wait := .collective, since := s.now, fenced := true }
                else
                  s.breakTest g q g.pc fun s =>
                    (s.modSquad q.id fun x => x.modLanes g.lanes fun _ y => { y with due := (0, 0) }).enterClause g 1
              if g.fenced || g.header.waitz = 0 || q.roam then go s
              else s.counterRelease g (waitzClasses g.header.waitz) go

/-! ### Retirement of a squad (R216, R357) -/

/-- Writes of a squad's threads and engine operations, and of their cumulative sets, that are not at home: posted ones, and updates of
sync words. -/
def State.squadPosts (s : State) (q : Squad) : Bool :=
  (s.ents.any fun e => e.squad == q.id && e.pending) || (s.upds.any fun u => u.op.isNone && u.squad == q.id) ||
  (List.range 32).any fun l => !(s.livePosts (q.lane l).seen).isEmpty

/-- The counters that drain (R37, R216): all but xp. -/
def Counters.drained (c : Counters) : Bool := c.cp == 0 && c.mx == 0 && c.rw == 0 && c.sg == 0 && c.rm == 0

end Sys2Proof.Machine
end

