-- ==== Sys2Proof/Machine/Sync.lean ====
section
/-!
DEFINITION. The sync engine (R260 to R274, R437): sync words, stage rings, barriers and counters, the updates on their way, and the
release of their waiters.
-/
namespace Sys2Proof.Machine

/-! ### Addresses of sync objects (R260) -/

/-- The home of a sync object of n bytes, or the code and reason of its fault, in the order of R108. R260 gives reason 4 for the stack aperture,
and R64 reason 2 for a roaming thread there: the model answers a roaming thread with 2 (notes/assumptions/54.md). -/
def syncObj (s : State) (q : Squad) (va n align : Nat) : Except (Nat × Nat) Nat :=
  let mis (h : Nat) : Except (Nat × Nat) Nat := if va % align = 0 then .ok h else .error (cMisaligned, 0)
  match apertureOf va with
  | .none => .error (cAperture, 0)
  | .global => .error (cAperture, 4)
  | .stack => .error (cAperture, if q.roam then 2 else 4)
  | .scratch =>
    if q.roam then .error (cAperture, 2)
    else
      match s.team? q.team with
      | none => .error (cAperture, 1)
      | some t => if t.scratch < va - scrBase + n then .error (cAperture, 1) else mis (scratchSpot t (va - scrBase)).1
  | .lateral =>
    match latSpot s q.launch (dieOf q.core) (va - latBase) with
    | .vault home _ => mis home
    | _ => .error (cAperture, 5)

/-- A SYNC instruction that acts once per gang on the object at an address. One that reads it does so after the thread's earlier writes to it
(R75, R77): updates on their way first, and posted stores of its core, which travel the same way before it. It may meet an error in the word, or in the first 16
bytes of the block (R435). -/
def onObj (s : State) (g : Gang) (q : Squad) (held : Lanes) (va n align : Nat) (write : Bool)
    (k : State → Nat → State) : State :=
  match syncObj s q va n align with
  | .error (c, r) => s.takeTrap g c held (BitVec.ofNat 64 va) (memDetail r 7 write false false true)
  | .ok home =>
    if write then k s home
    else if (lanesOf held).any fun l => s.readPending q l home n then s.stall g.id .port
    else eccRead (s.drainTo q.core s.nextId home n) g q [(home, 16)] fun s => k s home

/-- A SYNC instruction whose operands are checked, when its guard holds in some lane. -/
def syncOp (s : State) (c : Common) (ok : Squad → Bool) (k : Gang → Squad → Lanes → Nat → State) : Result :=
  onGang s fun g q => checked s g q .sync (guardFieldOk q c && ok q)
    (let held := heldLanes c g q
     if held = 0 then s.advance g.id else k g q held (lowest held))

/-- A result of r registers reaches the destination (R101 to R103). -/
def State.result (s : State) (g : Gang) (c : Common) (r v : Nat) : State :=
  s.modSquad g.squad fun q => resultPut g q c r fun _ => (v, 0)

/-! ### Updates on their way (R261, R272) -/

/-- An update is sent. -/
def State.sendUpd (s : State) (u : Upd) : State :=
  let (n, s) := s.fresh
  { s with upds := s.upds ++ [{ u with id := n, arrived := s.now }] }

/-- A program's update: a write of the lanes held (R272). -/
def progUpd (q : Squad) (held : Lanes) (kind : UpdKind) (home va : Nat) : Upd :=
  { id := 0, kind := kind, home := home, va := BitVec.ofNat 64 va, team := q.team, core := q.core, squad := q.id, lanes := held,
    launch := q.launch }

/-- SWINIT and SWARM: a target is a pair, or an immediate that is not negative (R271). -/
def targetOk (q : Squad) (x : Src) : Bool :=
  srcOk q true .r64 x && match x with | .imm v => !v.msb | _ => true
def targetOf (q : Squad) (x : Src) : BitVec 40 := (val64 q 0 x).setWidth 40

def execSwinit (w : FM) (s : State) : Result :=
  syncOp s w.c (fun q => srcOk q true .uni64 w.sa && targetOk q w.sb) fun g q held l =>
    let va := (val64 q l w.sa).toNat
    onObj s g q held va 16 16 true fun s home =>
      (s.sendUpd (progUpd q held (.init (targetOf q w.sb) (w.mod.getLsbD 0) (w.mod.getLsbD 1)) home va)).advance g.id

def execSwarm (w : FM) (s : State) : Result :=
  syncOp s w.c (fun q => srcOk q true .uni64 w.sa && targetOk q w.sb) fun g q held l =>
    let va := (val64 q l w.sa).toNat
    onObj s g q held va 16 16 true fun s home =>
      (s.sendUpd (progUpd q held (.arm (targetOf q w.sb) (w.mod.getLsbD 0)) home va)).advance g.id

/-- SWADD: a rel fence at die scope, then the update. -/
def execSwadd (w : FI) (s : State) : Result :=
  syncOp s w.c (fun q => srcOk q true .uni64 w.sa) fun g q held l =>
    let va := (val64 q l w.sa).toNat
    onObj s g q held va 16 16 true fun s home =>
      withRelease s g q held true 4 fun s => (s.sendUpd (progUpd q held (.add w.imm.toNat) home va)).advance g.id

/-- RPUT: a rel fence at die scope, then the flip. -/
def execRput (w : FM) (s : State) : Result :=
  syncOp s w.c (fun q => srcOk q true .uni64 w.sa && srcOk q true .r32 w.sb) fun g q held l =>
    let va := (val64 q l w.sa).toNat
    onObj s g q held va 256 256 true fun s home =>
      withRelease s g q held true 4 fun s =>
        (s.sendUpd (progUpd q held (.flip ((val32 q l w.sb).toNat % 1024)) home va)).advance g.id

/-! ### The performance of an update (R261, R262, R437) -/

/-- The home at which an update is performed now; a saved team's word is its copy in the team frame, a global word is translated.
A window that exists no longer has none. -/
def State.updHome (s : State) (u : Upd) : Except EngFault (Option Nat) :=
  let space : Fn × Asc :=
    match s.launch? u.launch with
    | some _ => s.spaceOf u.launch
    | none => ((s.fn? u.fn).getD { id := u.fn }, (s.asc? u.fn u.asc).getD { id := u.asc })
  let page (va : Nat) : Except EngFault (Option Nat) :=
    match pageNow s space.1 space.2 va with
    | .miss => .ok none
    | .ok home w => if w then .ok (some home) else .error { code := cPermission, reason := 0, addr := va }
    | .fault c r l => .error { code := c, reason := r, level := l, addr := va }
  match apertureOf u.va.toNat with
  | .scratch =>
    match s.team? u.team with
    | none => .ok none
    | some t =>
      match t.saved with
      | some frame => page (frame.toNat + 0x700 + (u.va.toNat - scrBase))
      | none => if t.retired then .ok none else .ok (some (scratchSpot t (u.va.toNat - scrBase)).1)
  | .global => page u.va.toNat
  | _ => .ok (some u.home)

def UpdKind.isWrite (k : UpdKind) : Bool := match k with | .write _ => true | _ => false

/-- The number of slots of a control block. -/
def blockSlots (m : Memory) (home : Nat) : Nat := ringSlots (m.readN home 2)

/-- What an update writes: the address, and the bytes (R261, R272, R364). -/
def updBytes (m : Memory) (k : UpdKind) (home : Nat) : Nat × List Byte :=
  let w := m.readN home 16
  match k with
  | .add n => (home, toBytes 16 (swAdd w n))
  | .arrive rows bytes => (home, toBytes 16 (swAdd w (if swRows w then rows else bytes)))
  | .init t o r => (home, toBytes 16 (swPut w t.toNat 0 o r false 0))
  | .arm t o => (home, toBytes 16 (swEvaluate (swPut w t.toNat (swCount w) o (swRows w) false (swGen w))))
  | .armTasks nt =>
    if nt = 0 then (home, toBytes 16 (swAdd (swPut w 1 (swCount w) (swOneshot w) (swRows w) (bitOf w 82) (swGen w)) 1))
    else (home, toBytes 16 (swEvaluate (swPut w nt (swCount w) (swOneshot w) (swRows w) false (swGen w))))
  | .write bs => (home, bs)
  | .flip i =>
    let i := i % blockSlots m home
    let b := m.read (home + 64 + i / 8)
    (home + 64 + i / 8, [b ^^^ BitVec.ofNat 8 (2 ^ (i % 8))])

/-- An update's evaluate matches, so that it changes GEN (R261). -/
def updMoves (m : Memory) (k : UpdKind) (home : Nat) : Bool :=
  let w := m.readN home 16
  match k with
  | .add n => swMatches (swBump w n)
  | .arrive rows bytes => swMatches (swBump w (if swRows w then rows else bytes))
  | .arm t o => swMatches (swPut w t.toNat (swCount w) o (swRows w) false (swGen w))
  | .armTasks nt => decide (nt = 0) || swMatches (swPut w nt (swCount w) (swOneshot w) (swRows w) false (swGen w))
  | _ => false

/-- An update has been performed, or has no word left: its operation has one less to report, and no gang waits for it. -/
def State.updGone (s : State) (u : Upd) : State :=
  let s := match u.op with | some o => s.modOp o fun x => { x with upds := x.upds - 1 } | none => s
  ({ s with upds := s.upds.filter fun x => x.id != u.id }).unblock u.id

/-- The update is performed in one step at its word: after the older posted writes of its core to it, and, as a release, after the
engine writes that it reports (R85). -/
def State.performUpd (s : State) (u : Upd) (home : Nat) : State :=
  let s := s.drainTo u.core u.id home u.kind.span
  let s := match u.op with
    | some o => (s.ents.filter fun (e : Ent) => e.op == some o && e.pending).foldl (fun (s : State) (e : Ent) =>
        (s.passesBefore e).foldl (fun (s : State) (x : Ent) => s.entHome x) s |>.entHome e) s
    | none => s
  let (a, bs) := updBytes s.mem u.kind home
  let s := s.writeHome a bs false (updMoves s.mem u.kind home)
  let s := if homeIsVault home && !u.kind.isWrite then s.modCore (homeCore home) fun c => { c with syncops := c.syncops + 1 } else s
  let s := s.noteWritten a bs.length
  let s := if apertureOf u.va.toNat = .scratch then s.modTeam u.team fun t =>
      if t.saved.isSome then { t with written := (t.written ++ [(u.va.toNat - scrBase) / 4096]).eraseDups } else t
    else s
  s.updGone u

/-- The record of a held update. -/
def EngFault.updRec (e : EngFault) : FaultRec :=
  { code := e.code, addr := BitVec.ofNat 64 e.addr, detail := memDetail e.reason e.level true false false true }

/-- The die of an update: its core's, that of the combine context whose write it is, or that of the launch. -/
def State.updDie (s : State) (u : Upd) : Nat :=
  if u.core < 384 then dieOf u.core
  else
    match (List.range 4).find? fun d => u.op.isSome && (s.die d).ctxs.any fun x => u.op == some x.2.tag with
    | some d => d
    | none => match s.launch? u.launch with | some l => l.die | none => 0

/-- Tries to perform an update; a fault holds it, and the first one is reported (R437). -/
def State.tryUpd (s : State) (u : Upd) : State :=
  match s.updHome u with
  | .ok (some home) =>
    let ps := if u.kind.isWrite then [] else [(home, u.kind.span)]
    match s.eccPieces ps with
    | some w => (s.updGone u).eccLaunch u.launch u.core 0
        { code := cUncorrectableMemory, addr := BitVec.ofNat 64 (w % 2 ^ 52) }
    | none => (s.eccFix ps).performUpd u home
  | .ok none => s.updGone u
  | .error e =>
    let s := { s with upds := s.upds.map fun (x : Upd) => if x.id = u.id then { x with held := some e.updRec, retry := false } else x }
    if u.held.isSome then s
    else s.report { fn := match s.launch? u.launch with | some l => l.fn | none => u.fn
                    kind := 2, die := s.updDie u, core := if u.core < 384 then u.core else 0xFFFF, handle := u.launch, frec := e.updRec }

/-- Two updates are of one word: of one address in one team's window, or of one home. -/
def Upd.sameWord (x u : Upd) : Bool :=
  if apertureOf x.va.toNat == .scratch && apertureOf u.va.toNat == .scratch then x.team == u.team && x.va == u.va else x.home == u.home

/-- An update waits for an older one: for one of its sender to the same word that is still on its way or held, since those of one sender are performed in
order, whatever address names the word; for any held one of its word, when it is held itself (R437); and one that reports the writes of a combine
buffer follows them. So it does while no link leads to its word (R429). -/
def State.olderUpd (s : State) (u : Upd) : Bool :=
  !s.reaches u.core u.home || s.upds.any fun x => decide (x.id < u.id) &&
    ((x.held.isSome && u.held.isSome && x.sameWord u) || x.core == u.core && ((x.va == u.va && x.team == u.team && x.home == u.home) ||
      (x.held.isNone && homeIsVault x.home && homeIsVault u.home && decide (x.home < u.home + u.kind.span) &&
        decide (u.home < x.home + x.kind.span))) ||
     (x.kind.isWrite && x.op == u.op && x.op.isSome))

/-- SYNC_WORD_UPDATE. -/
def execSyncWordUpdate (n : Nat) (s : State) : Result :=
  match s.upds.find? fun u => u.id == n with
  | none => .next s
  | some u =>
    if u.held.isSome || s.olderUpd u then .next s else .next (s.tryUpd u)

/-- HELD_UPDATE_RETRY: after a RESUME or INVALIDATE of the context, or a freed frame of its area (R437). -/
def execHeldUpdateRetry (n : Nat) (s : State) : Result :=
  match s.upds.find? fun u => u.id == n with
  | none => .next s
  | some u => if u.held.isNone || !u.retry || s.olderUpd u then .next s else .next (s.tryUpd u)

/-! ### SWWAIT and RGET (R266, R268) -/

/-- The vault's engine applies evaluate to a word, as an update when it changes it (R266). -/
def State.evalWord (s : State) (home : Nat) : State :=
  let w := s.mem.readN home 16
  if swEvaluate w = w then s
  else
    (s.writeHome home (toBytes 16 (swEvaluate w)) false true).modCore (homeCore home) fun c => { c with syncops := c.syncops + 1 }

/-- A wait on n bytes from home ends as an acquire at package scope of what it read (R85). -/
def State.waitAcquire (s : State) (g : Gang) (q : Squad) (home n : Nat) : State :=
  acquireLanes (noteRead s q g.lanes home n (some 5)) q.id g.lanes 5

/-- So it ends with its result. -/
def State.endWait (s : State) (g : Gang) (q : Squad) (home n : Nat) (c : Common) (r v : Nat) : State :=
  ((((s.waitAcquire g q home n).settled g).landing g.squad g.id g.since).result g c r v).advance g.id

def execSwwait (w : FM) (s : State) : Result :=
  syncOp s w.c (fun q => srcOk q true .uni64 w.sa && srcOk q true .r32 w.sb && dstOk q w.c 1 true false) fun g q held l =>
    let va := (val64 q l w.sa).toNat
    let gen := val32 q l w.sb
    onObj s g q held va 16 16 false fun s home =>
      let s := s.evalWord home
      let now := BitVec.ofNat 32 (swGen (s.mem.readN home 16))
      if now != gen then s.endWait g q home 16 w.c 1 now.toNat
      else s.hold g.id (.sync home (BitVec.ofNat 64 va) gen none)

/-- The address of a slot (R272), from the control block as it stands. -/
def slotOf (m : Memory) (block i : Nat) : Nat := ringSlotAddr (m.readN (block + 2) 2) (m.readN (block + 8) 8) i

def execRget (w : FM) (s : State) : Result :=
  syncOp s w.c (fun q => srcOk q true .uni64 w.sa && srcOk q true .r32 w.sb && dstOk q w.c 2 true false) fun g q held l =>
    let va := (val64 q l w.sa).toNat
    let sel := val32 q l w.sb
    onObj s g q held va 256 256 false fun s home =>
      let i := sel.toNat % 1024 % blockSlots s.mem home
      let ph := sel.getLsbD 16
      eccRead s g q [(home + 64 + i / 8, 1)] fun s =>
      if ringPhase s.mem home i = ph then s.endWait g q (home + 64 + i / 8) 1 w.c 2 (slotOf s.mem home i)
      else s.hold g.id (.ring home (BitVec.ofNat 64 va) i ph sel false)

/-- SYNC_WAITER_RELEASE (R266). -/
def execSyncWaiterRelease (s : State) : Result :=
  onWait s (fun g _ => match g.wait with | .sync _ _ _ (some _) => true | _ => false) fun g q =>
    match g.wait with
    | .sync home _ _ (some v) => (s.unhold g).endWait g q home 16 (Common.ofWord g.word) 1 v.toNat
    | _ => s

/-- RING_WAITER_RELEASE (R268). -/
def execRingWaiterRelease (s : State) : Result :=
  onWait s (fun g _ => match g.wait with | .ring _ _ _ _ _ true => true | _ => false) fun g q =>
    match g.wait with
    | .ring block _ i _ _ true =>
      (s.unhold g).endWait g q (block + 64 + i / 8) 1 (Common.ofWord g.word) 2 (slotOf s.mem block i)
    | _ => s

/-! ### Barriers (R264, R271) -/

/-- A number or count in range; an immediate is judged whatever the guard holds. -/
def barOk (q : Squad) (b n : Src) : Bool :=
  let le (x : Src) (k : Nat) : Bool := match x with | .imm v => !v.msb && decide (v.toNat ≤ k) | _ => true
  !q.roam && srcOk q true .r32 b && srcOk q true .r32 n && le b 15 && le n 6144

/-- An arrival is sent to the barrier's core; a BAR waits. -/
def barOp (w : FM) (waits : Bool) (s : State) : Result :=
  syncOp s w.c (fun q => barOk q w.sa w.sb) fun g q held l =>
    let b := (val32 q l w.sa).toNat
    let n := (val32 q l w.sb).toNat
    if 15 < b ∨ 6144 < n then s.decodeTrap g cIllegalOperand
    else
      withRelease s g q held true 2 fun s =>
        let (k, s) := s.fresh
        let a : BarArr := { id := k, team := q.team, b := b, gang := g.id, squad := q.id, lanes := held, n := n, waits := waits,
                            core := q.core, pc := g.pc, pos := g.pos, hdr := g.hdr, word := g.word }
        let s := { s with arrs := s.arrs ++ [a] }
        if waits then s.hold g.id (.barrier b [] true) else s.advance g.id

def execBar (w : FM) (s : State) : Result := barOp w true s
def execBararv (w : FM) (s : State) : Result := barOp w false s

/-! ### WAITE and CNTRD (R269, R270, R274) -/

def execWaite (w : FM) (s : State) : Result :=
  syncOp s w.c (fun q => srcOk q true .r32 w.sa) fun g q _ l =>
    let c := classOf (w.mod.extractLsb' 0 3).toNat
    let n := val32 q l w.sa
    if q.roam then s.advance g.id
    else if q.cnt.get c ≤ n.toNat then s.counterRelease g [c] fun s => s.advance g.id
    else s.hold g.id (.counter c n)

def execCntrd (w : FM) (s : State) : Result :=
  syncOp s w.c (fun q => destNamed w.c && dstOk q w.c 1 true false) fun g q _ _ =>
    (s.result g w.c 1 (if q.roam then 0 else q.cnt.get (classOf (w.mod.extractLsb' 0 3).toNat))).advance g.id

end Sys2Proof.Machine
end

