-- ==== Sys2Proof/Machine/Engine.lean ====
section
/-!
DEFINITION. What the queued engines share (R16, R44, R269, R285, R303): an operation enters its engine's queue at issue, its objects
are found and checked at its start, and its faults are held, park it, or end the launch.
-/
namespace Sys2Proof.Machine

/-! ### Issue -/

/-- An operation enters the queues of its core: in the order of issue, and among those of one cycle in the order of their partitions (R299, R322,
R337). -/
def queueOp (ops : List EngOp) (o : EngOp) : List EngOp :=
  let later (x : EngOp) : Bool := x.core == o.core && x.cls == o.cls && x.arrived == o.arrived && decide (o.part < x.part) && !x.started
  ops.takeWhile (fun x => !later x) ++ o :: ops.dropWhile fun x => !later x

/-- What a read of the lanes of m behind an sc fence at core scope comes after, but for the stores that stand in the buffers of its own core and that
the view of the core holds: accesses of theirs that have not returned, and the updates, reductions and writes of their cumulative sets, with
those of the releases that they have read (R294, R317, R333, R346, R379, R403). -/
def State.fenceSet (s : State) (q : Squad) (m : Lanes) : List Nat :=
  let seen := s.cumulativeOf (q.modLanes m fun l x => s.fenceLane q 3 3 l x) m
  ((s.reqs.filter fun r => r.squad == q.id && r.kind != .line &&
      ((r.uni && r.held &&& m != 0) || r.pieces.any fun p => decide (p.lane < 32) && m.getLsbD p.lane)).map (·.id)) ++
  ((s.ents.filter fun e => e.pending && (e.isRed || e.core != q.core) && seen.contains e.id).map (·.id)) ++
  (s.upds.filter fun u => seen.contains u.id).map (·.id)

/-- An operation of the gang enters a queue, and raises its squad's counter. A CBOPEN or a CBPUT follows the accesses of every active lane (R403). -/
def State.enterOp (s : State) (g : Gang) (q : Squad) (o : EngOp) : State :=
  let after := s.fenceSet q (if o.isCb then g.lanes else o.lanes)
  let (n, s) := s.fresh
  let o := { o with after := after, id := n, squad := q.id, team := q.team, core := q.core, part := q.part, launch := q.launch, pc := g.pc, pos := g.pos,
                    gang := g.id, arrived := s.now }
  { s with ops := queueOp s.ops o }.modSquad q.id fun x => { x with cnt := x.cnt.put o.cls (x.cnt.get o.cls + 1) }

/-- The instruction of the gang enters a queue as an operation of its squad; a full queue, or a counter at 65,535, stalls the gang at
its word instead (R44, R269). -/
def State.enqueue (s : State) (g : Gang) (q : Squad) (full : Bool) (o : EngOp) : State :=
  if full then s.stall g.id .queue
  else if 65535 ≤ q.cnt.get o.cls then s.stall g.id (.limit o.cls)
  else (s.enterOp g q o).advance g.id

/-- Gangs of a core that a full queue of an engine class holds present their word again. -/
def State.wakeEngine (s : State) (eng : BitVec 4) (pick : Squad → Bool) : State :=
  s.wakeWaits fun g q => g.wait == .queue && g.header.eng == eng && pick q

/-- An access that an operation follows has not been performed: the operation starts after it (R294, R317, R333, R346). -/
def State.opFenced (s : State) (o : EngOp) : Bool :=
  (s.reqs.any fun r => o.after.contains r.id) || (s.ents.any fun e => e.pending && o.after.contains e.id) ||
  s.upds.any fun u => o.after.contains u.id

/-- An operation at the head of a queue may start: every operation that issues in its cycle has entered (R299, R322, R337), and the accesses
that it follows are performed. -/
def State.mayStart (s : State) (o : EngOp) : Bool := decide (o.arrived < s.now) && !s.opFenced o

/-! ### Objects of an operation -/

/-- The team of an operation. -/
def State.opTeam (_s : State) (o : EngOp) : Option Nat := some o.team

/-- Where an operation's accesses find their translations. -/
def EngOp.look (o : EngOp) : Look := { core := o.core, tr := o.tr, faults := o.wfault }

/-- The record of a fault of an operation (R295, R319, R334, R347). -/
def EngOp.faultRec (o : EngOp) (eng code : Nat) (addr : Nat) (detail : Word) : FaultRec :=
  { code := code, eng := eng, coff := o.pos, lanes := o.lanes, pc := o.pc, addr := BitVec.ofNat 64 addr, detail := detail }

/-- What is read of slices stands behind the requests that they had before the operation came (R68). -/
def inTurn (s : State) (o : EngOp) (write : Bool) (va : Nat) (r : Except EngFault (List (Nat × Nat))) : Except EngFault (List (Nat × Nat)) :=
  match r with
  | .ok ps => if !write && s.queued o.core o.arrived ps then .error { code := 0, reason := 1, addr := va } else .ok ps
  | .error e => .error e

/-- A range of an operation with its alignment: APERTURE and PERMISSION stand before MISALIGNED, and PAGE_NOT_PRESENT after it
(R108); the address of a misaligned object is its own. -/
def engObj (s : State) (o : EngOp) (eng : Nat) (al : Allow) (die : Nat) (write : Bool) (va n align : Nat) :
    Except FaultRec (List (Nat × Nat)) :=
  let bad (e : EngFault) : Except FaultRec (List (Nat × Nat)) := .error (e.toRec eng o.pos o.lanes o.pc write)
  let r := eccChecked s write (inTurn s o write va (engRange s o.launch (s.opTeam o) (some o.look) die al write va n))
  if va % align = 0 then (match r with | .ok ps => .ok ps | .error e => bad e)
  else
    match r with
    | .error e => if e.code = cPageNotPresent then bad { code := cMisaligned, addr := va } else bad e
    | .ok _ => bad { code := cMisaligned, addr := va }

/-- A sync word that an operation names (R260). -/
def engSyncWord (s : State) (o : EngOp) (eng : Nat) (va : Nat) : Except FaultRec Nat :=
  match engObj s o eng { global := false } (dieOf o.core) true va 16 16 with
  | .ok ((h, _) :: _) => .ok h
  | .ok [] => .ok 0
  | .error f => .error f

/-! ### Faults of an operation (R111, R295, R296) -/

/-- A walk begins for the page that an access of an operation, or of a stream, has missed (R62); it joins one that runs. A wait for a slice starts
none. -/
def State.engWalk (s : State) (core part : Nat) (h : Word) (op : Nat) (f : FaultRec) : State :=
  if f.detail.toNat % 16 != 0 then s
  else
    let (n, s) := s.fresh
    { (s.modCore core fun c => { c with tlbmiss := c.tlbmiss + 1 }) with
      walks := s.walks ++ [{ id := n, core := core, asc := ascKey (s.spaceOf h).1.id (s.spaceOf h).2.id,
                             va := BitVec.ofNat 64 (f.addr.toNat / 4096 * 4096), gang := 0, launch := h, part := part, op := some op,
                             since := s.now }] }

/-- A walk for an operation or a stream runs. -/
def State.walksFor (s : State) (op : Nat) : Bool := s.walks.any fun w => w.op == some op

/-- The operation waits in its set-up for a walk or a slice, and forms its accesses again (code 0); or it ends at once: PAGE_NOT_PRESENT holds it, with a report to the driver; PERMISSION ends the launch, and an error in memory those
that use it; any other fault is held with it until it retires. -/
def State.opFault (s : State) (o : EngOp) (f : FaultRec) : State :=
  if f.code = 0 then (s.modOp o.id fun x => { x with setup := true, again := false }).engWalk o.core o.part o.launch o.id f
  else if f.code = cPageNotPresent then
    (s.modOp o.id fun x => { x with held := some f, again := false, setup := false, arrived := s.now }).reportFault 2 o.launch o.core o.part 0 f
  else if f.code = cPermission then s.fatal o.launch o.core o.part [f]
  else if f.code = cUncorrectableMemory then s.eccLaunch o.launch o.core o.part f
  else s.modOp o.id fun x => { x with done := true, fault := some f }

/-- The operation holds a place among those in progress (R285): until its writes are at home, when its counter alone still holds it. -/
def State.inPlace (s : State) (o : EngOp) : Bool := o.started && o.held.isNone && !o.again && (!o.done || s.opPosts o)

/-- The operation takes part in its engine's work: started, not held, not waiting to start again, its set-up ended. -/
def EngOp.inProgress (o : EngOp) : Bool := o.started && !o.done && o.held.isNone && !o.again && !o.setup

end Sys2Proof.Machine
end

