-- ==== Sys2Proof/Machine/Cmds.lean ====
section
/-!
DEFINITION. What the command processor writes to the host (R413, R414, R422, R423): completion records, event records, and the
resolution of a graph's nodes (R418).
-/
namespace Sys2Proof.Machine

/-! ### Completion records (R413, R414) -/

def State.queue? (s : State) (f q : Nat) : Option Queue := (s.fn? f).bind fun x => x.queues.find? fun y => y.q == q

def State.modQueue (s : State) (f q : Nat) (k : Queue → Queue) : State :=
  s.modFn f fun x => { x with queues := x.queues.map fun y => if y.q = q then k y else y }

/-- The 16 bytes of a completion record. -/
def recordBytes (tag : BitVec 16) (status : Nat) (phase : Bool) (head detail : Nat) : List Byte :=
  toBytes 2 tag.toNat ++ toBytes 1 status ++ toBytes 1 (boolNat phase) ++ toBytes 4 head ++ toBytes 8 detail

/-- A completion record enters the ring of its queue; the phase of the first pass is 1. -/
def State.putRecord (s : State) (f q : Nat) (tag : BitVec 16) (irq : Bool) (status head detail : Nat) : State :=
  match s.queue? f q with
  | none => s
  | some x =>
    let n := 2 ^ x.log
    let s := s.writeHome (hostHome (x.cring + 16 * (x.ctail % n))) (recordBytes tag status (x.ctail / n % 2 == 0) head detail) false
    let s := s.modQueue f q fun y => { y with ctail := y.ctail + 1 }
    if irq then { s with irqs := s.irqs ++ [(f, some q)] } else s

/-! ### Graphs (R418) -/

/-- Fields of node i of a graph. -/
def nodeField (g : List Byte) (i off n : Nat) : Nat := fieldAt g (64 * i + off) n
def nodeKind (g : List Byte) (i : Nat) : Nat := nodeField g i 0 1
def nodePreds (g : List Byte) (i : Nat) : Nat := nodeField g i 2 2 % 8192
def nodeSucc (g : List Byte) (i : Nat) : List Nat :=
  ((List.range 8).map fun k => nodeField g i (0x20 + 2 * k) 2).filter fun x => x != 0xFFFF
def nodeFsucc (g : List Byte) (i : Nat) : List Nat :=
  ((List.range 8).map fun k => nodeField g i (0x30 + 2 * k) 2).filter fun x => x != 0xFFFF

/-- Edges to a list of nodes resolve, taken or not. -/
def Cmd.edges (c : Cmd) (dst : List Nat) (taken : Bool) : Cmd :=
  { c with nodes := c.nodes.mapIdx fun k x =>
      let n := (dst.filter fun t => t == k).length
      (x.1, x.2.1 + n, x.2.2 + (if taken then n else 0)) }

def Cmd.setNode (c : Cmd) (i : Nat) (st : NodeSt) : Cmd :=
  { c with nodes := c.nodes.mapIdx fun k x => if k = i then (st, x.2) else x }

/-- A node with predecessors, all skipped, is skipped, and so on. -/
def Cmd.skips (c : Cmd) (fuel : Nat) : Cmd :=
  match fuel with
  | 0 => c
  | k + 1 =>
    match (List.range c.nodes.length).find? fun i =>
      match c.nodes.getD i (.skipped, 0, 0) with
      | (.waiting, r, t) => decide (0 < nodePreds c.graph i) && r == nodePreds c.graph i && t == 0
      | _ => false with
    | some i => Cmd.skips (((c.setNode i .skipped).edges (nodeSucc c.graph i) false).edges (nodeFsucc c.graph i) false) k
    | none => c

/-- Node i completes; value is the predicate of a conditional node. An error skips every node that has not started. -/
def Cmd.nodeDone (c : Cmd) (i : Nat) (ok value : Bool) : Cmd :=
  if !ok then
    { (c.setNode i .completed) with
      failed := some (c.failed.getD i)
      nodes := (c.setNode i .completed).nodes.map fun x => if x.1 = .waiting then (.skipped, x.2) else x }
  else
    let c := c.setNode i .completed
    let c := if nodeKind c.graph i = 2 then (c.edges (nodeSucc c.graph i) value).edges (nodeFsucc c.graph i) !value
             else c.edges (nodeSucc c.graph i) true
    c.skips c.nodes.length

/-- Every node has resolved. -/
def Cmd.graphDone (c : Cmd) : Bool := c.nodes.all fun x => x.1 == .completed || x.1 == .skipped

/-! ### The completion of a command -/

def State.cmd? (s : State) (n : Nat) : Option Cmd := s.cmds.find? fun c => c.id == n
def State.modCmd (s : State) (n : Nat) (f : Cmd → Cmd) : State :=
  { s with cmds := s.cmds.map fun c => if c.id = n then f c else c }

/-- A command of a queue is removed with its record. Every DELETE of the queue completes with the last command of it. -/
def State.closeCmd (s : State) (c : Cmd) (status detail : Nat) : State :=
  let s := { s with cmds := s.cmds.filter fun x => x.id != c.id }
  let s := s.putRecord c.fn c.q c.tag c.irq status c.head detail
  let of (d : Cmd) : Bool := d.fn == c.fn && d.op == 0x11 && (d.p.getD 0 0).toNat % 32 == c.q
  if !s.cmds.any of || s.cmds.any (fun x => x.fn == c.fn && x.q == c.q) then s
  else
    let ds := s.cmds.filter of
    let s := { s with cmds := s.cmds.filter fun x => !of x }
    let s := s.modFn c.fn fun x => { x with queues := x.queues.filter fun y => y.q != c.q }
    ds.foldl (fun s d => s.putRecord d.fn d.q d.tag d.irq 0 d.head 0) s

/-- A graph whose nodes have all resolved completes: DETAIL is the index of the failing node, or 0xFFFF. -/
def State.graphCheck (s : State) (n : Nat) : State :=
  match s.cmd? n with
  | some c => if c.graphDone then s.closeCmd c (if c.failed.isSome then 1 else 0) (c.failed.getD 0xFFFF) else s
  | none => s

/-- A started command completes: a node's command resolves its node. -/
def State.finishCmd (s : State) (n status detail : Nat) : State :=
  match s.cmd? n with
  | none => s
  | some c =>
    match c.parent with
    | none => s.closeCmd c status detail
    | some (g, node) =>
      let s := { s with cmds := s.cmds.filter fun x => x.id != n }
      (s.modCmd g fun x => x.nodeDone node (status == 0) false).graphCheck g

/-- PREEMPT commands wait no longer for a team, which they count when it was saved; with none left, a command completes, and the
teams that are still to be placed may be placed again unless it had HOLD (R421). -/
def State.preemptDone (s : State) (team : Nat) (saved : Bool) : State :=
  (s.cmds.filter fun c => c.op == 0x08 && c.waits.contains team).foldl (fun s c =>
    let s := s.modCmd c.id fun x => { x with waits := x.waits.erase team, count := x.count + boolNat saved }
    match s.cmd? c.id with
    | some x =>
      if x.waits.isEmpty then
        (s.modLaunch (x.p.getD 0 0) fun l => { l with stopped := (x.p.getD 1 0).getLsbD 0 }).finishCmd c.id 0 x.count
      else s
    | none => s) s

/-- The PREEMPT commands of a launch that completes. -/
def State.preemptEnd (s : State) (h : Word) : State :=
  (s.cmds.filter fun c => c.op == 0x08 && c.p.getD 0 0 == h).foldl (fun s c => s.finishCmd c.id 0 c.count) s

/-! ### Events (R422, R423) -/

/-- The 32 bytes of a fault record (R113). -/
def FaultRec.bytes (r : FaultRec) : List Byte :=
  toBytes 1 r.code ++ toBytes 1 r.eng ++ toBytes 2 r.coff ++ toBytes 4 r.lanes.toNat ++ toBytes 8 r.pc.toNat ++
  toBytes 8 r.addr.toNat ++ toBytes 8 r.detail.toNat

/-- The fault record in 32 bytes. -/
def FaultRec.ofBytes (bs : List Byte) : FaultRec :=
  { code := fieldAt bs 0 1, eng := fieldAt bs 1 1, coff := fieldAt bs 2 2, lanes := BitVec.ofNat 32 (fieldAt bs 4 4),
    pc := BitVec.ofNat 64 (fieldAt bs 8 8), addr := BitVec.ofNat 64 (fieldAt bs 16 8), detail := BitVec.ofNat 64 (fieldAt bs 24 8) }

/-- Continuation entries of an event. -/
def Event.more (e : Event) : Nat := if e.kind = 3 then e.extra.length / 64 else 0

/-- The 64-byte record of an event; that of a no-progress event stands before its continuation entries, and its header in extra's
first 32 bytes. -/
def Event.bytes (e : Event) (core : Nat) : List Byte :=
  toBytes 1 e.kind ++ toBytes 1 e.die ++ toBytes 2 core ++ toBytes 4 e.part ++ toBytes 8 e.handle.toNat ++
  toBytes 8 (if e.kind = 3 then e.more else e.frame.toNat) ++ toBytes 8 0 ++
  (match e.kind with
   | 3 => e.extra.take 32
   | 5 => toBytes 32 0
   | 6 => toBytes 32 0
   | _ => e.frec.bytes)

/-- Entries of a function's event ring that are free: the ring is full when EVTAIL + 1 = EVHEAD, modulo 2^EVLOG. -/
def Fn.evFree (f : Fn) : Nat :=
  let n := 2 ^ f.evlog.toNat
  (f.evhead.toNat + n - 1 - f.evtail.toNat % n) % n

/-- EVENT_WRITE: the oldest event of a function is written when its entries are free, and MSI-X vector 0 follows. -/
def execEventWrite (fn : Nat) (s : State) : Result :=
  match s.fn? fn, s.events.find? fun e => e.fn == fn with
  | some f, some e =>
    if f.evFree < 1 + e.more then .next s
    else
      let n := 2 ^ f.evlog.toNat
      let core := if e.core = 0xFFFF then 0xFFFF else f.virtCore e.core
      let entries := e.bytes core :: (List.range e.more).map fun k => (e.extra.drop (32 + 64 * k)).take 64
      let s := (List.range entries.length).foldl (fun (s : State) k =>
        s.writeHome (hostHome (f.evbase.toNat + 64 * ((f.evtail.toNat + k) % n))) (entries.getD k []) false) s
      let s := s.modFn fn fun x => { x with evtail := x.evtail + BitVec.ofNat 32 entries.length }
      .next { s with events := s.events.erase e, irqs := s.irqs ++ [(fn, none)] }
  | _, _ => .next s

/-- A launch still has an event of its end to be written (R422). -/
def State.endEvent (s : State) (h : Word) : Bool := s.events.any fun e => e.handle == h && (e.kind == 1 || e.kind == 4)

end Sys2Proof.Machine
end

