-- ==== Sys2Proof/Machine/Task.lean ====
section
/-!
DEFINITION. The TASK instructions (R360 to R366): launches, joins, task lists, slices, posts and swap-outs as a program issues them.
-/
namespace Sys2Proof.Machine

/-! ### Operands and addresses (R360) -/

/-- A TASK instruction whose operands are checked, when its guard holds in some lane: it acts once per gang. -/
def taskOp (s : State) (c : Common) (ok : Squad → Bool) (k : Gang → Squad → Lanes → Nat → State) : Result :=
  onGang s fun g q => checked s g q .task (!q.roam && guardFieldOk q c && ok q)
    (let held := heldLanes c g q
     if held = 0 then s.advance g.id else k g q held (lowest held))

/-- A trap of an address at issue. -/
def taskTrap (s : State) (g : Gang) (held : Lanes) (va code reason : Nat) (write : Bool) : State :=
  s.takeTrap g code held (BitVec.ofNat 64 va) (memDetail reason 7 write false false false)

/-- The checks of a record or block address, which is not translated at issue: an aperture that is allowed, the team's rounded
scratch bytes, then alignment. -/
def taskObj (s : State) (g : Gang) (q : Squad) (held : Lanes) (va n align : Nat) (al : Aperture → Bool) (k : State) : State :=
  let a := apertureOf va
  let mis : State := if va % align = 0 then k else taskTrap s g held va cMisaligned 0 false
  if a = .none then taskTrap s g held va cAperture 0 false
  else if !al a then taskTrap s g held va cAperture 4 false
  else
    match a with
    | .scratch =>
      (match s.team? q.team with
       | none => taskTrap s g held va cAperture 1 false
       | some t => if t.scratch < va - scrBase + n then taskTrap s g held va cAperture 1 false else mis)
    | .lateral =>
      (match latSpot s q.launch (dieOf q.core) (va - latBase) with
       | .vault _ _ => mis
       | _ => taskTrap s g held va cAperture 5 false)
    | _ => mis

/-- The home of an access that is made at issue (JOIN, SWAPOUT, POST), in the order of R108; PAGE_NOT_PRESENT parks every lane in which
the guard holds (R366). -/
def taskAccess (s : State) (g : Gang) (q : Squad) (held : Lanes) (l va n align : Nat) (al : Aperture → Bool) (write : Bool)
    (k : Nat → State) : State :=
  let mis (home : Nat) : State := if va % align = 0 then k home else taskTrap s g held va cMisaligned 0 write
  if apertureOf va = .none then taskTrap s g held va cAperture 0 write
  else if !al (apertureOf va) then taskTrap s g held va cAperture 4 write
  else
    match spotOf s g q l va n with
    | .miss => s.startWalks g q [va]
    | .vault home _ => mis home
    | .page e home => if write && !e.w then taskTrap s g held va cPermission 0 write else mis home
    | .stack _ => taskTrap s g held va cAperture 4 write
    | .fault c r lv =>
      if c != cPageNotPresent then taskTrap s g held va c r write
      else if va % align != 0 then taskTrap s g held va cMisaligned 0 write
      else s.park g held fun x => g.faultAt c (lanesMask [x]) (BitVec.ofNat 64 va) (memDetail r lv write false false false)

/-! ### LAUNCH (R361) -/

/-- Entries of a core's pending-launch queue in use. -/
def State.launchQueue (s : State) (core : Nat) : Nat := (s.pendLaunch.filter fun p => p.core == core && p.queued).length

def launchDst (q : Squad) (c : Common) : Bool :=
  match c.dk with
  | .uni => runOk c.dn.toNat 2 (uniLimit q)
  | .none => true
  | _ => false

/-- A handle: nonzero, and unique (R361). -/
def State.newHandle (s : State) : Word × State := (BitVec.ofNat 64 s.nextHandle, { s with nextHandle := s.nextHandle + 1 })

/-- The function and the context of the launch of a squad. -/
def State.spaceIds (s : State) (h : Word) : Nat × Nat := ((s.spaceOf h).1.id, (s.spaceOf h).2.id)

/-- LAUNCH takes an entry, and its operation is counted in xp. -/
def launchTake (w : FM) (va : Nat) (held : Lanes) (s : State) (g : Gang) (q : Squad) : State :=
  if 65535 ≤ q.cnt.xp then s.stall g.id (.limit .xp)
  else
    let (h, s) := s.newHandle
    let s := s.result g w.c 2 h.toNat
    let o := s.nextId
    let s := s.enqueue g q false { id := 0, squad := 0, core := 0, cls := .xp, i := .launch w, a := BitVec.ofNat 64 va, lanes := held,
                                   started := true }
    let (n, s) := s.fresh
    { s with pendLaunch := s.pendLaunch ++ [{ id := n, core := q.core, die := dieOf q.core, op := some o, fn := (s.spaceIds q.launch).1,
                                              asc := (s.spaceIds q.launch).2, addr := BitVec.ofNat 64 va, handle := h, parent := q.launch,
                                              team := some q.team, pc := g.pc, queued := true }] }

/-- A gang stands at a LAUNCH that has issued and has not taken its entry: in its release fence, or, with that fence complete, in its wait for an
entry. -/
def Gang.launching (g : Gang) (queued : Bool) : Bool :=
  g.header.eng == 9 && (opBits g.word).toNat == 0 &&
  match g.wait with | .queue => queued | .none => queued && g.fenced && g.phase == .body | .fence _ _ _ => !queued | _ => false

/-- The gangs of a core that wait for an entry, with their squads: those whose issue has not stopped for a save. -/
def State.launchWaiters (s : State) (core : Nat) : List (Gang × Squad) :=
  s.gangs.filterMap fun g =>
    if !g.launching true then none
    else match s.squad? g.squad with
      | some q => if q.core = core ∧ q.place = .resident ∧ q.saving = none then some (g, q) else none
      | none => none

/-- An earlier LAUNCH of a squad is still in its release fence: entries of one squad are taken in issue order (R367). -/
def State.launchFenced (s : State) (g : Gang) (since : Nat) : Bool :=
  s.gangs.any fun x => x.squad == g.squad && x.id != g.id && x.launching false && decide (x.since < since)

/-- A LAUNCH that has waited longest takes an entry of its core when one is free, and so on (R361). -/
def State.serveLaunches (s : State) (core fuel : Nat) : State :=
  match fuel with
  | 0 => s
  | k + 1 =>
    if 4 ≤ s.launchQueue core then s
    else
      match firstBy (fun (a b : Gang × Squad) => decide (a.1.since < b.1.since)) (s.launchWaiters core) with
      | none => s
      | some (g, q) =>
        if s.launchFenced g g.since then s
        else
          match FM.ofWord g.word with
          | .ok w =>
            let held := heldLanes w.c g q
            (launchTake w (val64 q (lowest held) w.sa).toNat held (s.unhold g) g q).serveLaunches core k
          | .error _ => s

/-- LAUNCH waits for an entry in the order of its issue, which a release fence has not changed, and takes the first that is free to it. -/
def launchEnter (w : FM) (va : Nat) (held : Lanes) (s : State) (g : Gang) (q : Squad) : State :=
  let since := if g.fenced then g.since else s.now
  if s.launchQueue q.core < 4 ∧ !s.launchFenced g since ∧ !(s.launchWaiters q.core).any fun x => decide (x.1.since < since) then
    (launchTake w va held s g q).serveLaunches q.core 4
  else ((s.hold g.id .queue).modGang g.id fun x => { x with since := since }).serveLaunches q.core 4

/-- LAUNCH: checks, a rel fence at package scope, and a free entry. -/
def execLaunch (w : FM) (s : State) : Result :=
  taskOp s w.c (fun q => srcOk q true .uni64 w.sa && launchDst q w.c) fun g q held l =>
    let va := (val64 q l w.sa).toNat
    taskObj s g q held va 128 128 (fun a => a == .global || a == .scratch)
      (withRelease s g q held true 5 fun s => launchEnter w va held s g q)

/-! ### JOIN and SWAPOUT (R362, R363) -/

/-- The wait on a completion word, satisfied at issue by another generation. -/
def joinOp (w : FM) (swap : Bool) (ok : Squad → Bool) (s : State) : Result :=
  taskOp s w.c (fun q => srcOk q true .uni64 w.sa && srcOk q true .r32 w.sb && ok q) fun g q held l =>
    let va := (val64 q l w.sa).toNat
    let gen := val32 q l w.sb
    taskAccess s g q held l va 16 16 (fun a => a != .stack) false fun home =>
      if (lanesOf held).any fun l => s.readPending q l home 16 then s.stall g.id .port
      else
        eccRead s g q [(home, 16)] fun s =>
        let s := if homeIsVault home then (s.drainTo q.core s.nextId home 16).evalWord home else s
        let now := BitVec.ofNat 32 (swGen ((s.view q.core).readN home 16))
        if now != gen then
          if swap then (s.waitAcquire g q home 16).advance g.id else s.endWait g q home 16 w.c 1 now.toNat
        else s.hold g.id (.join home (BitVec.ofNat 64 va) gen swap none)

def execJoin (w : FM) (s : State) : Result := joinOp w false (fun q => dstOk q w.c 1 true false) s
def execSwapout (w : FM) (s : State) : Result := joinOp w true (fun _ => true) s

/-- JOIN_RELEASE: the word's generation has changed. -/
def execJoinRelease (s : State) : Result :=
  onWait s (fun g q => q.saving != some 3 && match g.wait with | .join _ _ _ _ (some _) => true | _ => false) fun g q =>
    match g.wait with
    | .join home _ _ swap (some v) =>
      let s := s.unhold g
      if swap then (s.waitAcquire g q home 16).advance g.id
      else s.endWait g q home 16 (Common.ofWord g.word) 1 v.toNat
    | _ => s

/-! ### TSPAWN, SLICE, POST (R364 to R366) -/

/-- TSPAWN: checks and a rel fence at package scope; its operation is counted in xp until its last task has been accepted. -/
def execTspawn (w : FM) (s : State) : Result :=
  taskOp s w.c (fun q => srcOk q true .uni64 w.sa) fun g q held l =>
    let va := (val64 q l w.sa).toNat
    taskObj s g q held va 64 64 (fun a => a == .scratch || a == .lateral)
      (withRelease s g q held true 5 fun s =>
        s.enqueue g q false { id := 0, squad := 0, core := 0, cls := .xp, i := .tspawn w, a := BitVec.ofNat 64 va, lanes := held })

/-- SLICE: the remaining budget, or a new deadline of the launch. -/
def execSlice (w : FM) (s : State) : Result :=
  let dl := w.mod.getLsbD 0
  taskOp s w.c (fun q => (if dl then srcOk q true .uni64 w.sa else destNamed w.c) && dstOk q w.c 1 true false) fun g q _ l =>
    if dl then (s.modLaunch q.launch fun x => { x with r := { x.r with deadline := val64 q l w.sa, dlv := true } }).advance g.id
    else
      let none := match s.launch? q.launch with | some x => x.r.budget == 0 | none => true
      (s.result g w.c 1 (if none then 0xFFFFFFFF else q.budget)).advance g.id

/-- POST: an STL.b64 at system scope; it is counted in no counter. -/
def execPost (w : FM) (s : State) : Result :=
  taskOp s w.c (fun q => srcOk q true .uni64 w.sa && srcOk q true .r64 w.sb) fun g q held l =>
    let va := (val64 q l w.sa).toNat
    taskAccess s g q held l va 8 8 (fun a => a == .global) true fun home =>
      withRelease s g q held true 6 fun s =>
        if 64 ≤ s.storeBufOcc q.core then s.stall g.id .buffer
        else
          let (n, s) := s.fresh
          let e : Ent := { id := n, grp := n, core := q.core, squad := q.id, launch := q.launch, lane := 32, home := home,
                           post := .store (toBytes 8 (val64 q l w.sb).toNat), host := homeIsHost home, who := held, arrived := s.now }
          { s with ents := s.ents ++ [e] }.advance g.id

end Sys2Proof.Machine
end

