-- ==== Sys2Proof/Machine/Launches.lean ====
section
/-!
DEFINITION. The task engine (R20 to R24, R33, R34, R43, R55, R233, R234, R249, R350 to R359, R364, R438): launch records and their
checks, acceptance, placement, admission, completion, and the job slice that runs out.
-/
namespace Sys2Proof.Machine

/-! ### Launch records (R350) -/

/-- A launch record from its 128 bytes; the register counts are rounded up to their granules (R23), the scratch bytes to 4 KiB (R43). -/
def LaunchRec.ofBytes (bs : List Byte) : LaunchRec :=
  let f := fieldAt bs
  let flags := f 0x08 4
  let shape := f 0x10 8
  { entry := BitVec.ofNat 64 (f 0 8)
    roam := bitOf flags 0, dsize := bitOf flags 1, dlv := bitOf flags 2, urgent := bitOf flags 3, prio := bitsOf flags 7 5
    tthreads := f 0x0C 4
    widths := (List.range 6).map fun k => shape / 2 ^ (6 * k) % 64
    tlevel := bitsOf shape 38 36, fcount := bitsOf shape 41 39
    extents := (List.range 6).map fun k => f (0x18 + 4 * k) 4
    sizew := BitVec.ofNat 64 (f 0x30 8)
    vregs := roundUp (f 0x38 2) 8, sregs := roundUp (f 0x3A 2) 16, accs := f 0x3D 1, tiles := f 0x3E 1, roles := f 0x3F 1
    scratch := roundUp (f 0x40 4) 4096, rolemap := BitVec.ofNat 32 (f 0x44 4)
    param := BitVec.ofNat 64 (f 0x48 8), donew := BitVec.ofNat 64 (f 0x50 8), trapv := BitVec.ofNat 64 (f 0x58 8)
    deadline := BitVec.ofNat 64 (f 0x60 8), budget := f 0x68 4, place := BitVec.ofNat 32 (f 0x6C 4) }

def LaunchRec.width (r : LaunchRec) (k : Nat) : Nat := r.widths.getD k 0
def LaunchRec.extent (r : LaunchRec) (k : Nat) : Nat := r.extents.getD k 1
/-- The product of the extents of fields lo to hi - 1. -/
def LaunchRec.product (r : LaunchRec) (lo hi : Nat) : Nat :=
  (((List.range hi).filter fun k => decide (lo ≤ k)).map r.extent).foldl (· * ·) 1
/-- Squads of a team (R21). -/
def LaunchRec.squads (r : LaunchRec) : Nat := ceilDiv r.tthreads 32
def LaunchRec.ncore (r : LaunchRec) : Nat := (r.place.extractLsb' 16 2).toNat + 1
/-- The role of squad k (R33). -/
def LaunchRec.roleOf (r : LaunchRec) (k : Nat) : Nat := (r.rolemap.extractLsb' (2 * (k % 16)) 2).toNat
/-- Footprint in a primary register file (R24). -/
def LaunchRec.footprint (r : LaunchRec) : Nat := 32 * r.vregs + 32 + r.sregs + 16 + 4 * r.tiles
/-- Granules of the scratchpad in the vault of virtual core k (R43). -/
def LaunchRec.granules (r : LaunchRec) (k : Nat) : Nat := (r.scratch / 4096 + r.ncore - 1 - k) / r.ncore
/-- Squads on virtual core k (R43). -/
def LaunchRec.squadsOn (r : LaunchRec) (k : Nat) : Nat := (r.squads + r.ncore - 1 - k) / r.ncore

/-- Group n of a function's own numbering as a package core group (R355, R411). -/
def Fn.physGroup (f : Fn) (n : Nat) : Option Nat :=
  if f.id = 0 then (if f.groups.getLsbD n then some n else none) else f.groupList[n]?

/-- The core groups that may hold a launch's teams, in the order of the function's numbers (R355). -/
def groupsFor (f : Fn) (r : LaunchRec) : List Nat :=
  let named := (List.range 16).filter fun n => (r.place.extractLsb' 0 16).getLsbD n
  if named.isEmpty then f.groupList else named.filterMap f.physGroup

/-- Cores of a core group, ascending (R12). -/
def coresOf (group : Nat) : List Nat :=
  ((List.range 384).filter fun c => groupOf c == group)

/-! ### The checks of a record (R22, R23, R33, R43, R233, R351, R355, R424) -/

/-- Squads with a record's allocations that one empty core can hold (R24). -/
def LaunchRec.perCore (r : LaunchRec) : Nat :=
  let byWords := 4 * min 8 (65536 / r.footprint)
  3 * (if r.accs = 0 then byWords else min byWords (128 / r.accs))

/-- A team could be resident on NCORE empty cores of one group (R24, R34, R43, R55, R351, R385). -/
def couldFit (s : State) (f : Fn) (stack : Nat) (r : LaunchRec) : Bool :=
  (groupsFor f r).any fun g =>
    let ok (c : Nat) : Bool :=
      decide (r.squadsOn 0 * 32 * stack ≤ (s.core c).stackRegion) && decide (r.granules 0 * 4096 ≤ s.vaultLimit (g / 4))
    decide (r.squadsOn 0 ≤ r.perCore) && decide (r.ncore ≤ ((coresOf g).filter ok).length)

/-- Whether an aperture may hold an address of a record: global always, the team scratchpad for a device launch. -/
def recordAperture (device : Bool) (va : Nat) : Bool :=
  apertureOf va == .global || (device && apertureOf va == .scratch)

/-- The fields of a record that need no memory: byte offset of the first failing field, with the reason of R368. -/
def fieldFault (bs : List Byte) (r : LaunchRec) (device : Bool) : Option (Nat × Nat) :=
  let c := r.fcount
  let bad (b : Bool) (off reason : Nat) : Option (Nat × Nat) := if b then some (off, reason) else none
  let outside (va : Word) : Bool := va.toNat % 8 != 0 || apertureOf va.toNat != .global
  let counts := (List.range 6).findSome? fun k =>
    bad ((decide (c ≤ k) && r.extent k != 1) || decide (2 ^ r.width k < r.extent k)) (0x18 + 4 * k) 0
  ((((((((((((((bad (outside r.entry) 0x00 1
  ).or (bad (bitOf (fieldAt bs 0x08 4) 4 || bitsOf (fieldAt bs 0x08 4) 31 8 != 0) 0x08 0)
  ).or (bad (r.roam && r.urgent) 0x08 0)
  ).or (bad (bitsOf (fieldAt bs 0x10 8) 63 42 != 0 || c == 0 || decide (6 < c) || decide (c < r.tlevel) ||
      decide (64 < r.widths.foldl (· + ·) 0) || (List.range 6).any fun k => decide (c ≤ k) && r.width k != 0) 0x10 0)
  ).or counts
  ).or (bad (!r.roam && (r.tthreads != r.product 0 r.tlevel || decide (6144 < r.tthreads))) 0x0C 0)
  ).or (bad (r.dsize && (r.sizew == 0 || r.sizew.toNat % 8 != 0)) 0x30 1)
  ).or (bad (r.dsize && !r.roam && r.tlevel == c) 0x10 0)
  ).or (bad (!r.dsize && r.sizew != 0) 0x30 0)
  ).or (bad (!r.roam && (decide (320 < r.vregs) || decide (512 < r.sregs) || decide (32 < r.accs) || decide (16 < r.tiles) ||
      (r.roles != 0 && r.roles != ((List.range r.squads).map r.roleOf).eraseDups.length))) 0x38 0)
  ).or (bad (!r.roam && decide (2 ^ 26 < r.scratch)) 0x40 0)
  ).or (bad (r.param != 0 && (r.param.toNat % 8 != 0 || !recordAperture device r.param.toNat)) 0x48 1)
  ).or (bad (r.trapv != 0 && outside r.trapv) 0x58 1)
  ).or (bad (!r.dlv && r.deadline != 0) 0x60 0)
  ).or ((bad (r.roam && r.budget != 0) 0x68 0).or (bad (fieldAt bs 0x78 8 != 0) 0x78 0))

/-- The placement word: R233 for a roaming launch, R355 for a resident one. -/
def placeFault (f : Fn) (r : LaunchRec) : Bool :=
  if r.roam then
    let start := (r.place.extractLsb' 0 9).toNat
    (r.place.extractLsb' 9 7) != 0 || (start != 0x1FF && decide (24 * f.groupList.length ≤ start))
  else
    (r.place.extractLsb' 18 14) != 0 ||
    (List.range 16).any fun n => (r.place.extractLsb' 0 16).getLsbD n && (f.physGroup n).isNone

/-! ### Reads and writes of the task engine -/

/-- A range of a launch's context; the scratchpad of a wholly saved team is its copy in the team frame (R262, R351), and that of a
retired team is gone. -/
def taskRange (s : State) (h : Word) (team : Option Nat) (die : Nat) (al : Allow) (write : Bool) (va n : Nat) :
    Except EngFault (List (Nat × Nat)) :=
  eccChecked s write <|
  if apertureOf va = .scratch ∧ al.scratch = true then
    match team.bind s.team? with
    | none => .error { code := cAperture, reason := 4, addr := va }
    | some t =>
      if t.retired ∨ t.scratch < va - scrBase + n then .error { code := cAperture, reason := 1, addr := va }
      else
        match t.saved with
        | some frame => engRange s h none none die {} write (frame.toNat + 0x700 + (va - scrBase)) n
        | none => engRange s h team none die al write va n
  else engRange s h team none die al write va n

/-- The home of a completion word that passes its check (R351). -/
def doneCheck (s : State) (l : Launch) : Option Nat :=
  let va := l.r.donew.toNat
  let device := l.cmd.isNone
  if va % 16 != 0 then none
  else
    match taskRange s l.handle l.pteam l.die { scratch := device, lateral := device } true va 16 with
    | .ok ((home, _) :: _) => some home
    | _ => none

/-- The checks of R351 that the acceptance of a launch makes. -/
def recordFault (s : State) (l : Launch) (bs : List Byte) : Option (Nat × Nat) :=
  let (f, a) := s.spaceOf l.handle
  if bs.isEmpty then some (0, 1)
  else
    match fieldFault bs l.r l.cmd.isNone with
    | some x => some x
    | none =>
      if l.r.urgent && !f.urgentOk then some (0x08, 0)
      else if placeFault f l.r then some (0x6C, 0)
      else if l.r.donew != 0 && (doneCheck s l).isNone then some (0x50, 1)
      else if !l.r.roam && decide (0 < l.r.tthreads) && !couldFit s f a.stack l.r then some (0x38, 0)
      else none

/-- A fault record of the task engine (R368). -/
def taskRec (code : Nat) (pc addr detail : Word) : FaultRec := { code := code, eng := 0xF3, pc := pc, addr := addr, detail := detail }

/-- The reads of the parameter block and of the size word, in the launch's context (R89, R356, R438). -/
def readsOf (s : State) (l : Launch) : LaunchReads :=
  let device := l.cmd.isNone
  let al : Allow := { scratch := device, lateral := device }
  let rd (va n : Nat) : Except FaultRec (List Byte) :=
    match taskRange s l.handle l.pteam l.die al false va n with
    | .ok ps => .ok (readPieces s.mem ps)
    | .error e => .error { e.toRec 0xF3 0 0 l.pc false with addr := BitVec.ofNat 64 e.addr }
  match (if l.r.param = 0 then Except.ok (toBytes 128 0) else rd l.r.param.toNat 128) with
  | .error f => { fault := some f, off := 0x48 }
  | .ok ps =>
    let params := (List.range 32).map fun k => BitVec.ofNat 32 (fieldAt ps (4 * k) 4)
    if !l.r.dsize then { params := params }
    else
      match rd l.r.sizew.toNat 8 with
      | .error f => { fault := some f, off := 0x30 }
      | .ok bs => { params := params, size := ofBytes bs }

/-! ### Rejection (R352) and resolution (R356, R438) -/

/-- LAUNCH_REJECT: no thread is created; the owner gets the record, and the launch completes with error status. -/
def State.reject (s : State) (h : Word) (off reason : Nat) : State :=
  match s.launch? h with
  | none => s
  | some l =>
    let detail := BitVec.ofNat 64 (off + 256 * reason + 65536 * (h.toNat % 2 ^ 48))
    let s := s.report { fn := l.fn, kind := 4, die := l.die, handle := h, frec := taskRec cLaunchRecord l.pc l.addr detail }
    let home := if l.r.donew = 0 then none else doneCheck s l
    s.modLaunch h fun x => { x with st := .failed, donewHome := home }

/-- What the reads answer: the launch is held, rejected, or takes its place in the order of R354 with its extents resolved. -/
def State.resolveLaunch (s : State) (h : Word) (rd : LaunchReads) : State :=
  match s.launch? h with
  | none => s
  | some l =>
    match rd.fault with
    | some f =>
      if f.code = cPageNotPresent then
        (s.modLaunch h fun x => { x with st := .held f }).reportFault 2 h 0xFFFF 0 0 f
      else s.reject h rd.off 1
    | none =>
      let top := l.r.fcount - 1
      if l.r.dsize && decide (2 ^ l.r.width top < rd.size) then s.reject h 0x30 2
      else
        let r := if l.r.dsize then { l.r with extents := l.r.extents.mapIdx fun k n => if k = top then rd.size else n } else l.r
        let params := match l.task with
          | some ws => rd.params.mapIdx fun k p => if 28 ≤ k then ws.getD (k - 28) 0 else p
          | none => rd.params
        let n := r.product 0 r.fcount
        s.modLaunch h fun x => { x with
          r := r, params := params
          st := if n = 0 then .running else if r.roam then .admitting else .placing
          teams := if n = 0 ∨ r.roam then 0 else r.product r.tlevel r.fcount }

/-! ### Reading records: LAUNCH_RECORD_READ (R361, R364) -/

/-- A stop of a TSPAWN: held on PAGE_NOT_PRESENT, or rejected with an offset and a reason. -/
inductive TaskStop where
  | hold (f : FaultRec)
  | reject (off reason : Nat)
  deriving DecidableEq, Repr

/-- One object of a TSPAWN block. -/
def taskRead (s : State) (o : EngOp) (va n align off : Nat) (al : Allow) (write : Bool) : Except TaskStop (List (Nat × Nat)) :=
  if va % align != 0 then .error (.reject off 1)
  else
    match taskRange s o.launch (s.opTeam o) (dieOf o.core) al write va n with
    | .ok ps => .ok ps
    | .error e =>
      if e.code = cPageNotPresent then .error (.hold { e.toRec 0xF3 0 0 o.pc write with addr := BitVec.ofNat 64 e.addr })
      else .error (.reject off 1)

/-- What a TSPAWN has read and checked. -/
structure TaskPlan where
  tmpl : List Byte
  donew : Nat × Nat
  /-- expert, tile, tokens and byte of the placement table (0xFF: the template's groups) of each task -/
  tasks : List (Nat × Nat × Nat × Nat)
  tlist : List (Nat × Nat)
  block : List (Nat × Nat)
  deriving DecidableEq, Repr

/-- The launch that a template describes, as a task of the operation's launch. -/
def taskLaunch (s : State) (o : EngOp) (h : Word) (bs : List Byte) : Launch :=
  { handle := h, die := dieOf o.core, fn := (s.spaceIds o.launch).1, asc := (s.spaceIds o.launch).2, r := LaunchRec.ofBytes bs,
    parent := o.launch, pteam := s.opTeam o }

/-- The reads and checks of a TSPAWN. -/
def taskPlan (s : State) (o : EngOp) (arm : Bool) : Except TaskStop TaskPlan := do
  let m := s.view o.core
  let block ← taskRead s o o.a.toNat 64 64 0 { global := false } true
  let b := readPieces m block
  let n := fieldAt b 0x20 2
  let _ ← if n = 0 ∨ 1024 < n then Except.error (TaskStop.reject 0x20 3) else Except.ok ()
  let _ ← if fieldAt b 0x22 2 != 0 then Except.error (TaskStop.reject 0x22 3) else Except.ok ()
  let _ ← if fieldAt b 0x28 24 != 0 then Except.error (TaskStop.reject 0x28 3) else Except.ok ()
  let tp ← taskRead s o (fieldAt b 0 8) 128 128 0 { lateral := false } false
  let tmpl := readPieces m tp
  let l := taskLaunch s o o.launch tmpl
  let l' := { l with handle := o.launch }
  let _ ← if l.r.roam || l.r.dsize then Except.error (TaskStop.reject 0x08 0) else Except.ok ()
  let _ ← match recordFault s l' tmpl with
    | some (off, reason) => Except.error (TaskStop.reject off reason)
    | none => Except.ok ()
  let hp ← taskRead s o (fieldAt b 8 8) (4 * n) 4 0x08 {} false
  let hist := readPieces m hp
  let xa := fieldAt b 0x10 8
  let xp ← if xa = 0 then Except.ok [] else taskRead s o xa n 1 0x10 {} false
  let xplace := if xa = 0 then List.replicate n 0xFF else readPieces m xp
  let tiles := (List.range n).map fun e => (e, fieldAt hist (4 * e) 4)
  let nt := (tiles.map fun x => ceilDiv x.2 64).foldl (· + ·) 0
  let _ ← if 4096 < nt then Except.error (TaskStop.reject 0x24 3) else Except.ok ()
  let tl := fieldAt b 0x18 8
  let tlist ← if tl = 0 then Except.ok [] else taskRead s o tl (4 * nt) 4 0x18 {} true
  let home ← if !arm then Except.ok 0
    else if l.r.donew = 0 then Except.error (TaskStop.reject 0x50 0)
    else match doneCheck s l' with | some h => Except.ok h | none => Except.error (TaskStop.reject 0x50 1)
  .ok { tmpl := tmpl, donew := (home, l.r.donew.toNat), tlist := tlist, block := block
        tasks := (tiles.map fun x => (List.range (ceilDiv x.2 64)).map fun t =>
          (x.1, t, min 64 (x.2 - 64 * t), (xplace.getD x.1 0xFF).toNat)).flatten }

/-- Writes at home over the pieces of a range, after the older posted writes of the core. -/
def State.piecesWrite (s : State) (core : Nat) (ps : List (Nat × Nat)) (bs : List Byte) : State :=
  (ps.foldl (fun (acc : State × List Byte) p =>
    (((acc.1.drainTo core acc.1.nextId p.1 p.2).writeHome p.1 (acc.2.take p.2) false).noteWritten p.1 p.2, acc.2.drop p.2)) (s, bs)).1

/-- The bytes of a record with its GROUPS replaced by one group. A byte from 16 to 254 names no group: the task's own record then breaks R355,
and is rejected at its acceptance (notes/assumptions/55.md). -/
def withGroup (bs : List Byte) (g : Nat) : List Byte :=
  if g = 0xFF then bs
  else if g < 16 then bs.take 0x6C ++ toBytes 2 (2 ^ g) ++ bs.drop 0x6E
  else bs.take 0x6C ++ toBytes 4 (2 ^ 31) ++ bs.drop 0x70

/-- The update of the template's completion word that a rejected TSPAWN with ARM still makes (R364): the one of no tasks, when the block and the
template can be read and the word passes its check. -/
def State.rejectArm (s : State) (o : EngOp) : State :=
  match taskRead s o o.a.toNat 64 64 0 { global := false } true with
  | .error _ => s
  | .ok block =>
    match taskRead s o (fieldAt (readPieces (s.view o.core) block) 0 8) 128 128 0 { lateral := false } false with
    | .error _ => s
    | .ok tp =>
      let l := taskLaunch s o o.launch (readPieces (s.view o.core) tp)
      if l.r.donew = 0 then s
      else
        match doneCheck s l with
        | none => s
        | some home =>
          (s.modOp o.id fun x => { x with upds := 1 }).sendUpd { id := 0, kind := .armTasks 0, home := home, va := l.r.donew, team := o.team,
                                                                   core := o.core, op := some o.id, launch := o.launch }

/-- NT is written, and the operation is complete. -/
def State.taskEnd (s : State) (o : EngOp) : State :=
  let s := match taskRange s o.launch (s.opTeam o) (dieOf o.core) { global := false } true (o.a.toNat + 0x24) 4 with
    | .ok ps => s.piecesWrite o.core ps (toBytes 4 o.rows)
    | .error _ => s
  s.modOp o.id fun x => { x with done := true }

/-- The tasks of a TSPAWN that has been read and checked: the armed word, the task list, and one pending launch each. -/
def State.taskSpawn (s : State) (o : EngOp) (arm : Bool) (p : TaskPlan) : State :=
  let nt := p.tasks.length
  let s := s.modOp o.id fun x => { x with started := true, rows := nt, upds := if arm then 1 else 0, held := none, again := false }
  let s := if arm then s.sendUpd { id := 0, kind := .armTasks nt, home := p.donew.1, va := BitVec.ofNat 64 p.donew.2, team := o.team,
                                   core := o.core, op := some o.id, launch := o.launch } else s
  let s := if p.tlist.isEmpty then s
           else s.piecesWrite o.core p.tlist ((p.tasks.map fun t => toBytes 4 (t.1 + 65536 * t.2.1)).flatten)
  let s := (List.range nt).foldl (fun (s : State) i =>
    let t := p.tasks.getD i (0, 0, 0, 0xFF)
    let (h, s) := s.newHandle
    let (n, s) := s.fresh
    { s with pendLaunch := s.pendLaunch ++ [{
        id := n, core := o.core, die := dieOf o.core, op := some o.id,
        fn := (s.spaceIds o.launch).1, asc := (s.spaceIds o.launch).2, addr := o.a, handle := h, parent := o.launch,
        team := s.opTeam o, pc := o.pc, bytes := some (withGroup p.tmpl t.2.2.2), ready := s.now,
        task := some [BitVec.ofNat 32 t.1, BitVec.ofNat 32 t.2.1, BitVec.ofNat 32 t.2.2.1, BitVec.ofNat 32 i] }] }) s
  if nt = 0 then s.taskEnd { o with rows := 0 } else s

/-- LAUNCH_RECORD_READ: the record of a pending launch, or the objects of a TSPAWN, are read; PAGE_NOT_PRESENT holds the read. -/
def execLaunchRecordRead (n : Nat) (s : State) : Result :=
  match s.pendLaunch.find? fun p => p.id == n with
  | some p =>
    if p.bytes.isSome || p.held.isSome then .next s
    else
      let put (k : PendLaunch → PendLaunch) (s : State) : State :=
        { s with pendLaunch := s.pendLaunch.map fun (x : PendLaunch) => if x.id = n then k x else x }
      (match taskRange s p.parent p.team p.die { lateral := false } false p.addr.toNat 128 with
       | .ok ps => .next (put (fun x => { x with bytes := some (readPieces (s.view p.core) ps), ready := s.now }) (s.eccFix ps))
       | .error e =>
         if e.code = cPageNotPresent && !p.ended then
           let f : FaultRec := { e.toRec 0xF3 0 0 p.pc false with addr := BitVec.ofNat 64 e.addr }
           .next ((put (fun x => { x with held := some f }) s).reportFault 2 p.parent p.core 0 0 f)
         else .next (put (fun x => { x with bytes := some [], ready := s.now }) s))
  | none =>
    match s.ops.find? fun o => o.id == n with
    | some o =>
      (match o.i with
       | .tspawn w =>
         if o.started || o.held.isSome then .next s
         else
           match taskPlan s o (w.mod.getLsbD 0) with
           | .ok p => .next (s.taskSpawn o (w.mod.getLsbD 0) p)
           | .error (.hold f) => .next (s.opFault o f)
           | .error (.reject off reason) =>
             let s := if w.mod.getLsbD 0 then s.rejectArm o else s
             .next ((s.report { fn := (s.spaceIds o.launch).1, kind := 4, die := dieOf o.core, handle := o.launch,
                                frec := taskRec cLaunchRecord o.pc o.a (BitVec.ofNat 64 (off + 256 * reason)) }).modOp o.id
               fun x => { x with started := true, done := true })
       | _ => .next s)
    | none => .next s

/-! ### Acceptance: LAUNCH_ACCEPT (R353) -/

/-- The squad whose LAUNCH a pending entry is. -/
def State.entrySquad (s : State) (p : PendLaunch) : Option Nat :=
  (p.op.bind fun o => s.ops.find? fun x => x.id == o).map (·.squad)

/-- An entry that the engine may accept: its record is read, the arming of its task list performed, and no older launch of its squad
is pending (R367). -/
def State.entryReady (s : State) (p : PendLaunch) : Bool :=
  (p.bytes.isSome || p.ended) && p.held.isNone && decide (p.ready ≤ s.now) &&
  (match p.op.bind fun o => s.ops.find? fun x => x.id == o with | some o => o.upds == 0 | none => true) &&
  !(s.pendLaunch.any fun x => decide (x.id < p.id) && p.queued && x.queued && x.core == p.core && s.entrySquad x == s.entrySquad p &&
    (s.entrySquad p).isSome)

/-- The ready entry that became ready earliest; ties go to the lower core, the command processor last. -/
def State.nextAccept (s : State) (die : Nat) : Option PendLaunch :=
  firstBy (fun (a b : PendLaunch) =>
    decide (a.ready < b.ready) || (a.ready == b.ready && (decide (a.core < b.core) || (a.core == b.core && decide (a.id < b.id)))))
    (s.pendLaunch.filter fun p => p.die == die && s.entryReady p)

/-- The operation of an accepted entry retires, or counts one more accepted task. -/
def State.entryOp (s : State) (p : PendLaunch) : State :=
  match p.op.bind fun o => s.ops.find? fun x => x.id == o with
  | none => s
  | some o =>
    if p.task.isNone then s.modOp o.id fun x => { x with done := true }
    else
      let s := s.modOp o.id fun x => { x with row := x.row + 1 }
      if o.row + 1 = o.rows then s.taskEnd { o with row := o.row + 1 } else s

/-- The handle of a host launch is written where its command asks (R416). -/
def State.writeHandle (s : State) (l : Launch) : State :=
  match l.cmd.bind s.cmd? with
  | none => s
  | some c =>
    let va := (c.p.getD 1 0).toNat
    if va = 0 then s
    else
      let (f, a) := s.spaceOf l.handle
      let bad (code reason lv : Nat) : State :=
        (s.reportFault 1 l.handle 0xFFFF 0 0 {
          code := code, eng := 0xF3, addr := BitVec.ofNat 64 va,
          detail := memDetail reason lv true false false true }).modCmd c.id fun x => { x with status := 1 }
      match pageNow s f a va with
      | .miss => s
      | .ok home w => if w then s.writeHome home (toBytes 8 l.handle.toNat) false else bad cPermission 0 7
      | .fault code r lv => bad code r lv

/-- LAUNCH_ACCEPT. While the table is full intake stops. -/
def execLaunchAccept (die : Nat) (s : State) : Result :=
  match s.nextAccept die with
  | none => .next s
  | some p =>
    if 4096 ≤ s.tableOcc die then
      .next (if (s.die die).intakeSince.isSome then s else s.modDie die fun d => { d with intakeSince := some s.now })
    else
      let s := s.modDie die fun d => { d with intakeSince := none, intakeReported := false }
      let s := { s with pendLaunch := s.pendLaunch.filter fun x => x.id != p.id }
      let s := s.entryOp p
      let s := if p.queued then s.serveLaunches p.core 4 else s
      let bs := p.bytes.getD []
      let l : Launch := { handle := p.handle, die := die, fn := p.fn, asc := p.asc, r := LaunchRec.ofBytes bs, parent := p.parent,
                          pteam := p.team, task := p.task, cmd := p.cmd, accepted := s.now, pc := p.pc, addr := p.addr }
      let s := { s with launches := s.launches ++ [l] }
      if p.ended then
        let home := if l.r.donew = 0 then none else doneCheck s l
        .next (s.modLaunch p.handle fun x => { x with st := .failed, donewHome := home })
      else
        match recordFault s l bs with
        | some (off, reason) => .next (s.reject p.handle off reason)
        | none =>
          let s := s.modDie die fun d => { d with taccept := d.taccept + 1 }
          let home := if l.r.donew = 0 then none else doneCheck s l
          let s := s.modLaunch p.handle fun x => { x with donewHome := home }
          let s := s.writeHandle l
          .next (s.resolveLaunch p.handle (p.reads.getD (readsOf s l)))

/-- TASK_ENGINE_NO_PROGRESS: an intake that has waited for a table entry for 1,000,000 cy is reported once (R353, R423). -/
def execTaskEngineNoProgress (die : Nat) (s : State) : Result :=
  let d := s.die die
  match d.intakeSince with
  | some t =>
    if d.intakeReported || decide (s.now < t + 1000000) then .next s
    else
      let fn := match s.nextAccept die with | some p => p.fn | none => 0
      let header := toBytes 4 0 ++ toBytes 4 0 ++ toBytes 8 (s.clock die) ++ toBytes 16 0
      .next ((s.report { fn := fn, kind := 3, die := die, extra := header }).modDie die fun x => { x with intakeReported := true })
  | none => .next s

/-! ### Placement: TEAM_PLACE (R24, R34, R36, R43, R55, R354, R355) -/

/-- Thread slots in use in a partition: 32 for each resident squad, one for each roaming thread that runs there or that its caddy
holds (R24). -/
def State.partSlots (s : State) (core part : Nat) : Nat :=
  ((s.squads.filter fun q => q.core == core && q.part == part && q.place == .resident).map fun q =>
    if q.roam then (lanesOf q.existing).length else 32).foldl (· + ·) 0 +
  ((s.bins.filter fun b => b.core == core && b.part == part).map fun b => b.leaves.length).foldl (· + ·) 0

/-- Words of one bank of a partition's register file in use. -/
def State.partWords (s : State) (core part : Nat) (shadow : Bool) : Nat :=
  ((s.squads.filter fun q => q.core == core && q.part == part && q.shadow == shadow && q.place == .resident).map fun q =>
    if q.roam then 16 * (lanesOf q.existing).length else 32 * q.vregs + 32 + q.sregs + 16 + 4 * q.tiles).foldl (· + ·) 0 +
  (if shadow then 0
   else ((s.bins.filter fun b => b.core == core && b.part == part).map fun b => 16 * b.leaves.length).foldl (· + ·) 0)

/-- Accumulators of a matrix engine in use. -/
def State.engineAccs (s : State) (core e : Nat) : Nat :=
  ((s.squads.filter fun q => q.core == core && engineOf q.part == e && q.place == .resident && !q.roam).map (·.accs)).foldl (· + ·) 0

/-- The shadow bank of a partition is free for a team. -/
def State.shadowFree (s : State) (core part team : Nat) : Bool :=
  (!(s.part core part).shadow || s.squads.any fun q => q.core == core && q.part == part && q.shadow && q.team == team) &&
  !(s.squads.any fun q => q.core == core && q.part == part && q.shadow && q.place == .resident && q.team != team)

/-- The partitions of a core in which a squad of a team can be resident now. -/
def State.partsFor (s : State) (core team : Nat) (urgent : Bool) (words accs : Nat) : List Nat :=
  (List.range 12).filter fun p =>
    decide (s.partSlots core p + 32 ≤ 256) && decide (s.partWords core p urgent + words ≤ 65536) &&
    decide (s.engineAccs core (engineOf p) + accs ≤ 128) && (!urgent || s.shadowFree core p team)

/-- The stack room in use in a core's stack region: that of resident squads, and of squads saved alone (R55). -/
def State.stacksOf (s : State) (core : Nat) : List (Nat × Nat) :=
  (s.squads.filter fun q => q.core == core && !q.roam &&
    (q.place == .resident || match s.team? q.team with | some t => t.saved.isNone | none => false)).map fun q =>
      (q.stk, 32 * (s.spaceOf q.launch).2.stack)

/-- Room for n bytes of stacks, first fit. -/
def State.stackRoom (s : State) (core n : Nat) : Option Nat :=
  let used := (s.stacksOf core).filter fun x => x.2 != 0
  let lo := stackBase (s.core core)
  ((lo :: used.map fun x => x.1 + x.2).filter fun a =>
    decide (lo ≤ a) && decide (a + n ≤ ringBase (s.core core)) &&
    !(used.any fun x => decide (x.1 < a + n) && decide (a < x.1 + x.2))).min?

/-- The vault bytes that teams hold in a core's vault. -/
def State.vaultUse (s : State) (core : Nat) : List (Nat × Nat) :=
  ((s.teams.filter fun t => t.saved.isNone && (!t.retired || s.ops.any fun o => o.team == t.id && o.isPut && !o.done)).map fun t =>
    ((List.range t.cores.length).filter fun k => t.cores.getD k 384 == core).map fun k =>
      (t.base.getD k 0, (t.scratch / 4096 + t.cores.length - 1 - k) / t.cores.length * 4096)).flatten

/-- Room for n bytes of scratchpad in a vault: one of the free places, in a free choice (notes/assumptions/1.md). -/
def State.vaultRoom (s : State) (core n : Nat) : Option (Nat × State) :=
  if n = 0 then some (0, s)
  else
    let used := s.vaultUse core
    let free := ((List.range ((s.vaultLimit (dieOf core) - n) / 4096 + 1)).map (· * 4096)).filter fun a =>
      decide (a + n ≤ s.vaultLimit (dieOf core)) && !(used.any fun x => decide (x.1 < a + n) && decide (a < x.1 + x.2))
    match free with
    | [] => none
    | [a] => some (a, s)
    | a :: _ => let (r, s) := s.draw; some (free.getD (r.toNat % free.length) a, s)

/-- One of a list, in a free choice. -/
def State.chooseFrom (s : State) (l : List Nat) : Option (Nat × State) :=
  match l with
  | [] => none
  | [a] => some (a, s)
  | a :: _ => let (r, s) := s.draw; some (l.getD (r.toNat % l.length) a, s)

/-- The cores for a team in a group: the NCORE cores with the most free thread slots, in ascending order (R355). -/
def State.teamCores (s : State) (group n : Nat) : List Nat :=
  let free (c : Nat) : Nat := ((List.range 12).map fun p => 256 - s.partSlots c p).foldl (· + ·) 0
  let rated := (coresOf group).map fun c => (free c, c)
  let best := ((sortBy (fun (a b : Nat × Nat) => decide (b.1 < a.1) || (a.1 == b.1 && decide (a.2 ≤ b.2))) rated).take n).map (·.2)
  sortBy (fun a b => decide (a ≤ b)) best

/-- The vault bases of a team on its cores. -/
def State.teamBases (s : State) (cores : List Nat) (scratch : Nat) : Option (List Nat × State) :=
  let c := cores.length
  (List.range c).foldlM (fun (acc : List Nat × State) k => do
    let (b, s) ← acc.2.vaultRoom (cores.getD k 0) ((scratch / 4096 + c - 1 - k) / c * 4096)
    pure (acc.1 ++ [b], s)) ([], s)

/-- The order in which a team's squads become resident: with roles, one role at a time, in role-number order (R34). -/
def squadOrder (r : LaunchRec) : List Nat :=
  if r.roles = 0 then List.range r.squads
  else
    let byRole := (List.range 4).map fun x => (List.range r.squads).filter fun k => r.roleOf k == x
    ((List.range r.squads).map fun n => byRole.filterMap fun l => l[n]?).flatten

/-- The digits of an index, fields lo to hi - 1, each in its place of the work identifier (R20, R21). -/
def widDigits (r : LaunchRec) (lo n shift i : Nat) : Nat :=
  match n with
  | 0 => 0
  | k + 1 => i % r.extent lo * 2 ^ shift + widDigits r (lo + 1) k (shift + r.width lo) (i / r.extent lo)

/-- The work identifier of thread i of team t (R21). -/
def widOf (r : LaunchRec) (t i : Nat) : Nat :=
  let shift := ((List.range r.tlevel).map r.width).foldl (· + ·) 0
  widDigits r 0 r.tlevel 0 i + widDigits r r.tlevel (r.fcount - r.tlevel) shift t

def roleOfCode (n : Nat) : Role := match n with | 0 => .load | 1 => .store | 2 => .matrix | _ => .vector

/-- A squad as its team is created: its threads' work identifiers, the parameter block in s0 to s31, everything else zero. -/
def newSquad (l : Launch) (id team t k core part vcore stk : Nat) : Squad :=
  let r := l.r
  { id := id, launch := l.handle, team := team, index := k, core := core, part := part, vcore := vcore, shadow := r.urgent
    role := if r.roles = 0 then none else some (roleOfCode (r.roleOf k))
    vregs := r.vregs, sregs := r.sregs, accs := r.accs, tiles := r.tiles
    lanes := (List.range 32).map fun x =>
      if 32 * k + x < r.tthreads then { st := .run, wid := BitVec.ofNat 64 (widOf r t (32 * k + x)) } else {}
    u := ((List.range (min 32 r.sregs)).foldl (fun (u : RegFile) n => regSet u n (l.params.getD n 0)) [])
    rj := List.replicate 8 {}, budget := r.budget, stk := stk }

/-- One squad becomes resident on a core, in a partition with room, a free choice among them. -/
def State.placeSquad (s : State) (l : Launch) (team t k core vcore : Nat) : Option State := do
  let (p, s) ← s.chooseFrom (s.partsFor core team l.r.urgent l.r.footprint l.r.accs)
  let stk ← s.stackRoom core (32 * (s.spaceOf l.handle).2.stack)
  let (q, s) := s.fresh
  let (g, s) := s.fresh
  let sq := newSquad l q team t k core p vcore stk
  some { s with
    squads := s.squads ++ [sq]
    gangs := s.gangs ++ [{ id := g, squad := q, lanes := sq.existing, pc := l.r.entry, ready := s.now }] }

/-- The next team of a launch is placed in a group, if every squad of it can be resident. -/
def State.placeTeam (s : State) (l : Launch) (group : Nat) : Option State := do
  let cores := s.teamCores group l.r.ncore
  let (team, s) := s.fresh
  let (bases, s) ← s.teamBases cores l.r.scratch
  let s := { s with teams := s.teams ++ [{
    id := team, launch := l.handle, index := BitVec.ofNat 64 l.next, group := group, cores := cores,
    threads := l.r.tthreads, nsquads := l.r.squads, scratch := l.r.scratch, base := bases, bars := List.replicate 16 {} }] }
  let s ← (squadOrder l.r).foldlM (fun (s : State) k =>
    s.placeSquad l team l.next k (cores.getD (k % cores.length) 0) (k % cores.length)) s
  some (s.modLaunch l.handle fun x => { x with next := l.next + 1, st := if l.next + 1 = l.teams then .running else x.st })

/-- Earlier in the order of R354. The launches of one die stand in the order of their acceptance, which settles what is equal here. -/
def launchBefore (a b : Launch) : Bool :=
  let dl (x : Launch) : Nat := if x.r.dlv then x.r.deadline.toNat else 2 ^ 64
  let key (x : Launch) : List Nat := [1 - boolNat x.r.urgent, 7 - x.r.prio, 1 - boolNat x.r.dlv, dl x, x.accepted, x.die]
  let rec lex : List Nat → List Nat → Bool
    | x :: xs, y :: ys => decide (x < y) || (x == y && lex xs ys)
    | _, _ => false
  lex (key a) (key b)

/-- A launch with a team still to place whose placement names the group. -/
def State.hasNew (s : State) (l : Launch) (group : Nat) : Bool :=
  l.st == .placing && !l.stopped && !l.r.roam && decide (l.next < l.teams) && (groupsFor (s.fnOf l.handle) l.r).contains group

/-- The lanes that are parked. -/
def Squad.parkedLanes (q : Squad) : Lanes := lanesWhere q.existing fun l => (q.lane l).st == .parked

/-- A saved squad whose restore may take place (R201, R363). -/
def Squad.restorable (q : Squad) : Bool :=
  match q.place with
  | .saved 2 _ => (lanesOf q.parkedLanes).all fun l => (q.lane l).covered
  | .saved 3 _ => q.eligible
  | .saved _ _ => true
  | .resident => true

/-- The event of a squad's fault save waits for room in its ring: the squad stays saved (R422). -/
def State.eventHeld (s : State) (q : Squad) : Bool :=
  match q.place with
  | .saved 2 va => s.events.any fun e => e.kind == 2 && e.handle == q.launch && e.frame == va
  | _ => false

/-- A wholly saved team that may return to placement: it is not held for a RELEASE, and each of its squads may be restored. -/
def State.mayReturn (s : State) (t : Team) : Bool :=
  t.saved.isSome && !t.holdRel && !t.retired && (s.squads.filter fun q => q.team == t.id && !q.roam).all fun q =>
    q.restorable && !s.eventHeld q

def State.returning (s : State) (h : Word) (group : Nat) : Option Team :=
  firstBy (fun (a b : Team) => decide (a.index.toNat < b.index.toNat))
    (s.teams.filter fun t => t.launch == h && t.group == group && s.mayReturn t)

/-- The launch that places next in a group. -/
def State.firstIn (s : State) (group : Nat) : Option Launch :=
  firstBy launchBefore (s.launches.filter fun l => s.hasNew l group || (s.returning l.handle group).isSome)

/-- TEAM_PLACE: the first launch in the order of R354 places its next team, in the lowest-numbered eligible group where it fits. -/
def execTeamPlace (group : Nat) (s : State) : Result :=
  match s.firstIn group with
  | none => .next s
  | some l =>
    if (s.returning l.handle group).isSome then .next s
    else if (List.range group).any fun g =>
        s.hasNew l g && (s.firstIn g == some l) && (s.placeTeam l g).isSome then .next s
    else .next ((s.placeTeam l group).getD s)

/-! ### Roaming launches: ROAMING_ADMISSION (R233, R249) -/

/-- Threads and reserve of a roaming launch. -/
def Launch.demand (l : Launch) : Nat := l.r.product 0 l.r.fcount + (l.r.place.extractLsb' 16 16).toNat

/-- Capacity of the pool of a function's spill rings on this chip (R242). -/
def State.poolCapacity (s : State) (f : Fn) : Nat :=
  (((List.range 384).filter f.owns).map fun c => (s.core c).ringCap).foldl (· + ·) 0

/-- An admitted launch holds its share of the pool until it completes (R249). -/
def Launch.admitted (l : Launch) : Bool :=
  l.adm && (match l.st with | .complete _ => false | _ => true)

/-- ROAMING_ADMISSION: a launch that fits is admitted; one leaf is sent for each thread, in ascending work-identifier order. The numbers of
function 0 are the package's (R411), those of cores that it does not own among them. Whether the launch fits on the other chips of its
address space (R45) is open to a model of one chip (notes/assumptions/15.md). -/
def execRoamingAdmission (h : Nat) (s : State) : Result :=
  match s.launch? (BitVec.ofNat 64 h) with
  | none => .next s
  | some l =>
    let f := (s.spaceOf l.handle).1
    let others := ((s.launches.filter fun x => x.fn == l.fn && x.admitted).map Launch.demand).foldl (· + ·) 0
    -- what the pools of the other chips that the address space names hold is open
    let (x, s) := if (s.spaceOf l.handle).2.nchip ≤ 1 then (1, s) else s.draw
    if l.st != .admitting || decide (s.poolCapacity f < others + l.demand) || !x.getLsbD 0 then .next s
    else
      let n := l.r.product 0 l.r.fcount
      let cores := 24 * f.groupList.length
      let start := (l.r.place.extractLsb' 0 9).toNat
      let s := (List.range n).foldl (fun (s : State) i =>
        let (k, s) := s.fresh
        let c := (let v := if start = 0x1FF then i % cores else start; (f.physCore v).getD v)
        { s with flights := s.flights ++ [{ id := k, src := l.die, leaf := {
            kind := 3, dcore := c, dchip := (s.spaceOf l.handle).2.chip,
            pc := l.r.entry, wid := BitVec.ofNat 64 (widDigits l.r 0 l.r.fcount 0 i), launch := l.handle,
            v := List.replicate 16 0 } }] }) s
      .next (s.modLaunch l.handle fun x => { x with st := .running, live := n, adm := true })

/-! ### Retirement of a squad (R216) -/

/-- The CBPUT of a gang that the head of a combine queue holds. -/
def State.heldPutOf (s : State) (g : Gang) (q : Squad) : Option EngOp :=
  match g.wait, (s.die (dieOf q.core)).heldPut with
  | .cbput false, some (n, _) => s.ops.find? fun o => o.id == n && o.gang == g.id && o.isPut
  | _, _ => none

/-- A pass of the routing engine writes into the scratchpad of its team: its block, or an output that the block names, lies there. -/
def State.passInto (s : State) (o : EngOp) : Bool :=
  let inside (va : Nat) : Bool := apertureOf va == .scratch
  inside o.a.toNat ||
    match taskRange s o.launch (some o.team) (dieOf o.core) { global := false } true o.a.toNat 128 with
    | .ok ps => [0x08, 0x10, 0x18, 0x20, 0x28, 0x30].any fun k => inside (fieldAt (readPieces (s.view o.core) ps) k 8)
    | .error _ => false

/-- Operations of a team need its scratchpad yet: a CBPUT that reads a row of it has not retired, unless the buffer holds it back (R390, R392), or a
pass that writes into it has not completed (R380). -/
def State.teamBusy (s : State) (team : Nat) : Bool :=
  s.ops.any fun o => o.team == team && match o.i with
    | .cbput _ => apertureOf o.a.toNat == .scratch && match s.squad? o.squad with
      | some q => !(s.gangs.any fun g => (s.heldPutOf g q).any fun x => x.id == o.id)
      | none => true
    | .route w => !w.mod.getLsbD 0 && (!o.done || s.opPosts o || o.upds != 0) && s.passInto o
    | _ => false

/-- The squad is its team's last, and operations need the team's scratchpad yet. -/
def State.lastBusy (s : State) (q : Squad) : Bool :=
  s.teamBusy q.team && !(s.squads.any fun x => x.team == q.team && !x.roam && x.id != q.id)

/-- SQUAD_RETIRE: every existing lane has exited; the counters have drained and the cumulative sets are at home; an engine fault
that no gang is left to take is fatal; the allocations are freed, the team's with those of its last squad, once no operation counted in xp
needs its scratchpad. -/
def execSquadRetire (squad : Nat) (s : State) : Result :=
  match s.squad? squad with
  | none => .next s
  | some q =>
    if q.roam || q.place != .resident || q.liveLanes != 0 || !q.cnt.drained || s.squadPosts q || s.lastBusy q then .next s
    else
      match q.held with
      | h :: _ => .next (s.fatal q.launch q.core q.part [h.2])
      | [] =>
        let s := s.freeFrames fun f => f.squad == some squad
        let last := !(s.squads.any fun x => x.team == q.team && !x.roam && x.id != squad)
        let s := match s.team? q.team with | some t => if last then s.closeWindow t else s | none => s
        let s := { s with squads := s.squads.filter fun x => x.id != squad, gangs := s.gangs.filter fun g => g.squad != squad }
        if !last then .next s
        else .next (({ s with streams := s.streams.filter fun x => x.team != q.team }.modTeam q.team fun t => { t with retired := true }).preemptDone q.team false)

/-! ### Completion: LAUNCH_COMPLETE (R357) -/

/-- A die-level operation of a launch may still write: DONEW is released after it (R357). -/
def State.opsOut (s : State) (h : Word) : Bool :=
  s.ops.any fun o => o.launch == h && !o.done && (o.isRoute || o.isCb || match o.i with | .tspawn _ => true | _ => false)

/-- Nothing of a launch is left: no squad, no team that has not retired, no roaming thread or leaf, no operation that may still write, and none of
its writes and updates on their way, but the one of its completion word. -/
def State.launchOver (s : State) (l : Launch) : Bool :=
  (match l.st with
   | .running => !(s.squads.any fun q => q.launch == l.handle) && (s.teams.filter fun t => t.launch == l.handle).all (·.retired) &&
       l.live == 0
   | .failed => true
   | _ => false) &&
  !s.opsOut l.handle && s.leavesOf l.handle == 0 && !s.endEvent l.handle && !(s.ents.any fun e => e.launch == l.handle && e.pending) &&
  (l.doneUpd || !(s.upds.any fun u => u.launch == l.handle))

/-- Combine contexts that a launch opened (R398). -/
def State.openCtxs (s : State) (h : Word) : Bool := s.dies.any fun d => d.ctxs.any fun c => c.2.isOpen && c.2.launch == h

/-- LAUNCH_COMPLETE: first its combine contexts close; then its completion word gains 1; then, once its updates are performed, the
host gets its record, and the table entry and the frames are free. -/
def execLaunchComplete (h : Nat) (s : State) : Result :=
  match s.launch? (BitVec.ofNat 64 h) with
  | none => .next s
  | some l =>
    if !s.launchOver l then .next s
    else if s.openCtxs l.handle then
      .next { s with dies := s.dies.map fun (d : Die) => { d with ctxs := d.ctxs.map fun (c : Nat × CbCtx) =>
        if c.2.isOpen ∧ c.2.launch = l.handle ∧ c.2.closing = none then (c.1, { c.2 with closing := some s.now }) else c } }
    else
      match l.donewHome, l.doneUpd with
      | some home, false =>
        .next ((s.sendUpd { id := 0, kind := .add 1, home := home, va := l.r.donew, team := l.pteam.getD 0, core := 384,
                            launch := l.handle }).modLaunch l.handle fun x => { x with doneUpd := true })
      | _, _ =>
        if s.upds.any fun u => u.launch == l.handle then .next s
        else
          let err := l.st == .failed
          let late := l.r.dlv && decide (l.r.deadline.toNat < s.ptime)
          let s := if late then s.modDie l.die fun d => { d with tlate := d.tlate + 1 } else s
          let s := { s with teams := s.teams.filter fun t => t.launch != l.handle }.freeFrames fun f => f.launch == l.handle
          let s := (s.modLaunch l.handle fun x => { x with st := .complete err }).preemptEnd l.handle
          match l.cmd with
          | some c =>
            let st := match s.cmd? c with | some x => x.status | none => 0
            .next (s.finishCmd c (if err then 1 else st) h)
          | none => .next s

/-- BUDGET_EXHAUSTED: a squad's job slice has run out before its next YIELD or EXIT (R359). -/
def execBudgetExhausted (squad : Nat) (s : State) : Result :=
  match s.squad? squad with
  | none => .next s
  | some q =>
    match s.launch? q.launch with
    | none => .next s
    | some l =>
      if q.roam || l.r.budget == 0 || q.budget != 0 || q.place != .resident then .next s
      else
        let mine := s.gangs.filter fun g => g.squad == squad
        let g := (mine.find? fun g => g.active).or mine.head?
        match g with
        | none => .next s
        | some g =>
          .next (s.fatal q.launch q.core q.part [taskRec cBudgetExhausted g.pc l.addr (BitVec.ofNat 64 (l.r.budget % 2 ^ 32))])

end Sys2Proof.Machine
end

