-- ==== Sys2Proof/Machine/Copy.lean ====
section
/-!
DEFINITION. The copy engine (R277 to R298): the canonical tile layout, storage formats and their conversion, descriptors and their
checks, the eight COPY instructions, the start of an operation, its rows, and base-die streams.
-/
namespace Sys2Proof.Machine

/-! ### The canonical layout (R277) -/

/-- Offset of byte b of canonical row r in a grid of TJ tiles a row. -/
def canonOff (tj r b : Nat) : Nat :=
  (r / 64 * tj + b / 128) * 8192 + r % 64 * 128 + ((b % 128 / 16) ^^^ (r % 8)) * 16 + b % 16

/-- Cuts n bytes that begin at byte b of a canonical row into the parts of its chunks: byte and length. -/
def chunkParts (b n fuel : Nat) : List (Nat × Nat) :=
  match fuel with
  | 0 => []
  | k + 1 =>
    if n = 0 then []
    else
      let here := min n (16 - b % 16)
      (b, here) :: chunkParts (b + here) (n - here) k

def chunksOf (b n : Nat) : List (Nat × Nat) := chunkParts b n (n / 16 + 2)

/-- The writes that put bytes at byte b of canonical row r. -/
def canonWrites (ta tj r b : Nat) (bs : List Byte) : List (Nat × List Byte) :=
  (chunksOf b bs.length).map fun p => (ta + canonOff tj r p.1, (bs.drop (p.1 - b)).take p.2)

/-! ### Storage formats and conversion (R278 to R281) -/

/-- es of a format; QN4 is aligned to 4 (R283). -/
def esOf (fmt : Nat) : Nat := [1, 2, 4, 2, 2, 1, 1, 4, 1, 1, 4].getD fmt 1
/-- The floating type of a format and of a canonical type. -/
def fmtFloat (fmt : Nat) : Fmt := [Fmt.f32, .f32, .f32, .bf16, .f16, .e4m3, .e5m2, .f32, .e4m3, .e5m2, .f32].getD fmt .f32
def ctFloat (fmt ct : Nat) : Fmt := if ct = 0 then fmtFloat fmt else [Fmt.f32, .bf16, .f16, .e4m3, .e5m2, .f32].getD ct .f32
/-- w of a canonical type (R278). -/
def ctWidth (fmt ct : Nat) : Nat := if ct = 0 then esOf fmt else [0, 2, 2, 1, 1, 4].getD ct 1

def fmtRaw (fmt : Nat) : Bool := decide (fmt < 3)
def fmtScaled (fmt : Nat) : Bool := fmt == 8 || fmt == 9

/-- The pairings of R278. -/
def loadPair (fmt ct : Nat) : Bool :=
  if fmt < 3 then ct == 0
  else if fmt < 8 then decide (ct ≤ 5)
  else if fmt < 10 then decide (1 ≤ ct ∧ ct ≤ 5)
  else fmt == 10 && decide (1 ≤ ct ∧ ct ≤ 3)
def storePair (fmt ct : Nat) : Bool := decide (fmt < 8) && loadPair fmt ct

/-- The code values of QN4, as FP16 (R280). -/
def qn4Codes : List Nat :=
  [0xBC00, 0xB9A9, 0xB856, 0xB6AB, 0xB4F9, 0xB2E9, 0xB013, 0xA964,
   0x2964, 0x3013, 0x32E9, 0x34F9, 0x36AB, 0x3856, 0x39A9, 0x3C00]

/-- The block multiplier of QN4: none for a zero block (R280). -/
def qn4Scale (s : W32) (c : Nat) : Option W32 :=
  if c = 0 then none
  else some (mul32 (mul32 s (BitVec.ofNat 32 (intBits .f32 c))).1 0x3B808081).1

/-- Element j of a QN4 row, read through rd: offset and bytes to value. -/
def qn4Elem (ct : Nat) (rd : Nat → Nat → Nat) (j : Nat) : Nat :=
  let sb := j / 256 * 136
  let e := j % 256
  let code := rd (sb + e / 2) 1 / 16 ^ (e % 2) % 16
  match qn4Scale (BitVec.ofNat 32 (rd (sb + 132) 4)) (rd (sb + 128 + e / 64) 1) with
  | none => 0
  | some m => (fConvert .f32 (ctFloat 10 ct) .rn
      (mul32 (BitVec.ofNat 32 (fConvert .f16 .f32 .rn (qn4Codes.getD code 0)).1) m).1.toNat).1

/-- Element j of a storage row, expanded to its canonical type: rd reads the row, sc the row's scales. -/
def expandElem (fmt ct : Nat) (rd sc : Nat → Nat → Nat) (j : Nat) : Nat :=
  if fmt = 10 then qn4Elem ct rd j
  else
    let x := rd (j * esOf fmt) (esOf fmt)
    if fmtScaled fmt then
      let v := (fConvert (fmtFloat fmt) .f32 .rn x).1
      (fConvert .f32 (ctFloat fmt ct) .rn (mul32 (BitVec.ofNat 32 v) (BitVec.ofNat 32 (sc (4 * (j / 128)) 4))).1.toNat).1
    else if ct = 0 then x
    else (fConvert (fmtFloat fmt) (ctFloat fmt ct) .rn x).1

/-- A canonical element rounded to its storage format (R286). -/
def storeElem (fmt ct x : Nat) : Nat := if ct = 0 then x else (fConvert (ctFloat fmt ct) (fmtFloat fmt) .rn x).1

/-- Bytes of a storage row. -/
def rowBytes (fmt cols : Nat) : Nat := if fmt = 10 then cols / 256 * 136 else cols * esOf fmt

/-! ### Instructions (R284, R285) -/

def copyWord (i : Instr) : Option FM :=
  match i with
  | .tload w => some w
  | .tstore w => some w
  | .tgather w => some w
  | .tscatter w => some w
  | .tsub w => some w
  | .twalk w => some w
  | .tfill w => some w
  | .tmove w => some w
  | _ => none

/-- SB is an even uniform pair or #0. -/
def copySbOk (q : Squad) (x : Src) : Bool := match x with | .imm v => v == 0 | _ => srcOk q true .uni64 x

/-- A COPY instruction: once for the gang, when its guard holds in some lane, it enters the copy queue of 64. -/
def copyIssue (i : Instr) (w : FM) (sub : Bool) (s : State) : Result :=
  onGang s fun g q =>
    checked s g q .copy (guardFieldOk q w.c && !q.roam && srcOk q true .uni64 w.sa && (sub || copySbOk q w.sb))
      (let held := heldLanes w.c g q
       if held = 0 then s.advance g.id
       else s.enqueue g q (decide (64 ≤ s.queueOcc q.core .cp 0))
         { id := 0, squad := 0, core := 0, launch := 0, cls := .cp, i := i, a := val64 q 0 w.sa, b := val64 q 0 w.sb, lanes := held })

def execTload (w : FM) (s : State) : Result := copyIssue (.tload w) w false s
def execTstore (w : FM) (s : State) : Result := copyIssue (.tstore w) w false s
def execTgather (w : FM) (s : State) : Result := copyIssue (.tgather w) w false s
def execTscatter (w : FM) (s : State) : Result := copyIssue (.tscatter w) w false s
def execTsub (w : FM) (s : State) : Result := copyIssue (.tsub w) w true s
def execTwalk (w : FM) (s : State) : Result := copyIssue (.twalk w) w false s
def execTfill (w : FM) (s : State) : Result := copyIssue (.tfill w) w false s
def execTmove (w : FM) (s : State) : Result := copyIssue (.tmove w) w false s

/-! ### Descriptors (R282, R283) -/

/-- The fields of a copy descriptor. -/
structure CopyDesc where
  saddr : Nat
  taddr : Nat
  sstride : Nat
  rows : Nat
  cols : Nat
  fmt : Nat
  ct : Nat
  xdie : Nat
  ix64 : Bool
  fill : Nat
  scale : Nat
  scstride : Nat
  imax : Nat
  index : Nat
  nidx : Nat
  deriving DecidableEq, Repr

def CopyDesc.ofBytes (bs : List Byte) : CopyDesc :=
  let f := fieldAt bs
  let w := f 0x18 4
  { saddr := f 0 8, taddr := f 8 8, sstride := f 0x10 4, rows := f 0x14 2, cols := f 0x16 2, fmt := w % 16, ct := w / 16 % 16,
    xdie := w / 4096 % 4, ix64 := bitOf w 14, fill := f 0x1C 4, scale := f 0x20 8, scstride := f 0x28 4, imax := f 0x2C 4,
    index := f 0x30 8, nidx := f 0x38 2 }

def CopyDesc.w (d : CopyDesc) : Nat := ctWidth d.fmt d.ct

/-- The kinds of operation that a descriptor serves. -/
inductive CopyForm where
  | load (xp : Nat)
  | store | gather | scatter
  | fill (mem : Bool)
  | move (xd : Bool)
  deriving DecidableEq, Repr

def copyForm (i : Instr) : CopyForm :=
  match i with
  | .tload w => .load (w.mod.extractLsb' 0 2).toNat
  | .tstore _ => .store
  | .tgather _ => .gather
  | .tscatter _ => .scatter
  | .tfill w => .fill (w.mod.getLsbD 0)
  | .tmove w => .move (w.mod.getLsbD 0)
  | _ => .load 0

/-- Rows and columns of the canonical matrix, and the grid's tiles (R277, R286, R288). -/
def canonRows (k : CopyForm) (d : CopyDesc) : Nat :=
  match k with
  | .load xp => if xp = 0 then d.rows else d.cols
  | .gather => d.nidx
  | .scatter => d.nidx
  | _ => d.rows
def canonCols (k : CopyForm) (d : CopyDesc) : Nat :=
  match k with
  | .load xp => if xp = 0 then d.cols else d.rows
  | _ => d.cols
def gridTJ (k : CopyForm) (d : CopyDesc) : Nat := ceilDiv (canonCols k d * d.w) 128
def gridTI (k : CopyForm) (d : CopyDesc) : Nat := ceilDiv (canonRows k d) 64
def gridBytes (k : CopyForm) (d : CopyDesc) : Nat := gridTI k d * gridTJ k d * 8192

/-- Destination rows of an operation (R293): those of a TMOVE are all rows of its tiles. -/
def destRows (k : CopyForm) (d : CopyDesc) : Nat := match k with | .move _ => gridTI k d * 64 | _ => canonRows k d

/-- COPY_FORMAT with a reason and the offset of the field (R295). -/
def copyFormat (o : EngOp) (reason off : Nat) : FaultRec :=
  o.faultRec 5 cCopyFormat o.a.toNat (BitVec.ofNat 64 (reason + 256 * off))

/-- The first failing check of a descriptor's fields: reason and offset (R278, R280, R282, R286, R289). -/
def descFault (k : CopyForm) (d : CopyDesc) (bs : List Byte) : Option (Nat × Nat) :=
  let w18 := fieldAt bs 0x18 4
  let xd := match k with | .move x => x | _ => false
  let uses : Bool := match k with | .gather => true | .scatter => true | _ => false
  let raw := match k with | .fill _ => true | .move _ => true | _ => false
  let stores := match k with | .store => true | .scatter => true | _ => false
  let xp := match k with | .load x => x | _ => 0
  if bitsOf w18 11 8 != 0 || bitsOf w18 31 15 != 0 || (!xd && d.xdie != 0) then some (0, 0x18)
  else if fieldAt bs 0x3A 6 != 0 then some (0, 0x3A)
  else if !uses && decide (d.rows = 0 ∨ 4096 < d.rows) then some (2, 0x14)
  else if d.cols = 0 ∨ 16384 < d.cols then some (2, 0x16)
  else if uses && decide (d.nidx = 0 ∨ 4096 < d.nidx) then some (2, 0x38)
  else if !(if raw then fmtRaw d.fmt && d.ct == 0 else if stores then storePair d.fmt d.ct else loadPair d.fmt d.ct) then some (1, 0x18)
  else if d.fmt = 10 ∧ d.cols % 256 ≠ 0 then some (3, 0x16)
  else if 4096 < canonRows k d then some (2, 0x16)
  else if xp ≠ 0 ∧ d.w ≠ xp then some (4, 0x18)
  else none

/-! ### Translations that an operation holds (R285) -/

/-- Pages of 4 KiB of translated ranges: virtual page, home of its first byte. -/
def pagesOf (va : Nat) (ps : List (Nat × Nat)) : List (Nat × Nat) :=
  (ps.foldl (fun (acc : List (Nat × Nat) × Nat) p => (acc.1 ++ [(acc.2 / 4096, p.1 - acc.2 % 4096)], acc.2 + p.2)) ([], va)).1

/-- Adds pages to a map of pages. -/
def joinPages (m ps : List (Nat × Nat)) : List (Nat × Nat) := ps.foldl (fun m p => if m.any fun x => x.1 == p.1 then m else m ++ [p]) m

/-- Home of a byte whose page is held. -/
def homeAt (m : List (Nat × Nat)) (va : Nat) : Nat :=
  match m.find? fun p => p.1 == va / 4096 with
  | some p => p.2 + va % 4096
  | none => 0

/-- Reads n bytes through held translations. -/
def readAt (mem : Memory) (m : List (Nat × Nat)) (va n : Nat) : List Byte :=
  ((rangePieces va n (n / 4096 + 2)).map fun p => mem.readBytes (homeAt m p.1) p.2).flatten

/-- What a set-up has found so far, and its continuation on the next range. -/
structure Held where
  rd : List (Nat × Nat) := []
  wr : List (Nat × Nat) := []
  /-- where the objects lie that the operation reads -/
  reads : List (Nat × Nat) := []
  deriving DecidableEq, Repr

/-- Translates a range and holds it. -/
def holdRange (s : State) (o : EngOp) (al : Allow) (die : Nat) (write : Bool) (va n align : Nat) (h : Held) : Except FaultRec Held :=
  match engObj s o 5 al die write va n align with
  | .error f => .error f
  | .ok ps => .ok (if write then { h with wr := joinPages h.wr (pagesOf va ps) } else { h with rd := joinPages h.rd (pagesOf va ps), reads := h.reads ++ ps })

/-- An object of strided rows: its stride is a multiple of its alignment, its whole range lies in one aperture, and every row
translates (R283, R50). -/
def holdRows (s : State) (o : EngOp) (write : Bool) (base stride rows nb align off : Nat) (h : Held) : Except FaultRec Held :=
  let mis (a : Nat) : FaultRec := EngFault.toRec { code := cMisaligned, addr := a } 5 o.pos o.lanes o.pc write
  if apertureOf base != .none && apertureOf base != apertureOf (base + (rows - 1) * stride + nb - 1) then
    .error (EngFault.toRec { code := cAperture, reason := 3, addr := base } 5 o.pos o.lanes o.pc write)
  else if stride % align ≠ 0 then .error (mis (o.a.toNat + off))
  else (List.range rows).foldlM (fun h i => holdRange s o {} (dieOf o.core) write (base + i * stride) nb align h) h

/-- The scratchpad and the lateral vaults. -/
def vaults : Allow := { global := false }

/-- Row k of an index list: the storage row's address, or none for a pad entry, with the row's number for its scales; INDEX_RANGE at
or beyond IMAX (R288). -/
def indexRow (o : EngOp) (d : CopyDesc) (k e : Nat) : Except FaultRec (Option (Nat × Nat)) :=
  if d.ix64 then .ok (if e = 0 then none else some (e, k))
  else if e = 0xFFFFFFFF then .ok none
  else if d.imax ≠ 0 ∧ d.imax ≤ e then
    .error (o.faultRec 5 cIndexRange (d.index + 4 * k) (BitVec.ofNat 64 (k + 2 ^ 32 * e)))
  else .ok (some ((d.saddr + e * d.sstride) % 2 ^ 64, e))

/-- An object of which the operation may use no byte lies in an aperture that holds data, and is aligned (R283). -/
def placed (o : EngOp) (write : Bool) (va align : Nat) : Except FaultRec Unit :=
  let bad (code reason : Nat) : Except FaultRec Unit :=
    .error (EngFault.toRec { code := code, reason := reason, addr := va } 5 o.pos o.lanes o.pc write)
  match apertureOf va with
  | .none => bad cAperture 0
  | .stack => bad cAperture 4
  | _ => if va % align = 0 then .ok () else bad cMisaligned 0

/-- The set-up of a gather or scatter: its index list is read, every entry checked, every row translated. -/
def setupIndexed (s : State) (o : EngOp) (k : CopyForm) (d : CopyDesc) (h : Held) : Except FaultRec (Held × List Word) :=
  let width := if d.ix64 then 8 else 4
  let write := k == .scatter
  let mis (a : Nat) : FaultRec := EngFault.toRec { code := cMisaligned, addr := a } 5 o.pos o.lanes o.pc write
  do
    let h ← holdRange s o vaults (dieOf o.core) (!write) d.taddr (gridBytes k d) 128 h
    let h ← holdRange s o {} (dieOf o.core) false d.index (d.nidx * width) width h
    let es := (List.range d.nidx).map fun j => ofBytes (readAt (s.view o.core) h.rd (d.index + width * j) width)
    let rows ← (List.range d.nidx).mapM fun j => indexRow o d j (es.getD j 0)
    let _ ← if d.ix64 then Except.ok () else placed o write d.saddr (esOf d.fmt)
    let _ ← if fmtScaled d.fmt then placed o false d.scale 4 else Except.ok ()
    if !d.ix64 && d.sstride % esOf d.fmt != 0 then Except.error (mis (o.a.toNat + 0x10))
    else if fmtScaled d.fmt && d.scstride % 4 != 0 then Except.error (mis (o.a.toNat + 0x28))
    else do
      let h ← (rows.filterMap id).foldlM (fun h r => do
        let h ← holdRange s o {} (dieOf o.core) write r.1 (rowBytes d.fmt d.cols) (esOf d.fmt) h
        if fmtScaled d.fmt then
          holdRange s o {} (dieOf o.core) false ((d.scale + r.2 * d.scstride) % 2 ^ 64) (4 * ceilDiv d.cols 128) 4 h
        else Except.ok h) h
      Except.ok (h, es.map fun e => BitVec.ofNat 64 e)

/-- The set-up of an operation with a copy descriptor (R285, R286, R288, R289). -/
def setupDesc (s : State) (o : EngOp) (k : CopyForm) (d : CopyDesc) : Except FaultRec (Held × List Word) :=
  let grid (write : Bool) (h : Held) := holdRange s o vaults (dieOf o.core) write d.taddr (gridBytes k d) 128 h
  let rows (write : Bool) (h : Held) := holdRows s o write d.saddr d.sstride d.rows (rowBytes d.fmt d.cols) (esOf d.fmt) 0x10 h
  match k with
  | .load _ => do
    let h ← grid true {}
    let h ← rows false h
    let h ← if fmtScaled d.fmt then holdRows s o false d.scale d.scstride d.rows (4 * ceilDiv d.cols 128) 4 0x28 h else .ok h
    .ok (h, [])
  | .store => do
    let h ← grid false {}
    let h ← rows true h
    .ok (h, [])
  | .gather => setupIndexed s o k d {}
  | .scatter => setupIndexed s o k d {}
  | .fill true => do
    let h ← rows true {}
    .ok (h, [])
  | .fill false => do
    let h ← grid true {}
    .ok (h, [])
  | .move xd =>
    if xd && !(s.fnOf o.launch).onDie d.xdie then .error (copyFormat o 7 0x18)
    else do
      let h ← holdRange s o vaults (dieOf o.core) false d.saddr (gridBytes k d) 128 {}
      let h ← if xd then holdRange s o { global := false, scratch := false } d.xdie true d.taddr (gridBytes k d) 128 h
              else holdRange s o vaults (dieOf o.core) true d.taddr (gridBytes k d) 128 h
      let overlap := h.rd.any fun a => h.wr.any fun b =>
        let lo (base page : Nat) : Nat := max (page * 4096) base - page * 4096
        let hi (base page : Nat) : Nat := min (page * 4096 + 4096) (base + gridBytes k d) - page * 4096
        decide (a.2 + lo d.saddr a.1 < b.2 + hi d.taddr b.1 ∧ b.2 + lo d.taddr b.1 < a.2 + hi d.saddr a.1)
      if overlap then .error (copyFormat o 7 0x08) else .ok (h, [])

/-! ### TWALK (R290) -/

structure WalkBlk where
  list : Nat
  ptab : Nat
  out : Nat
  desc : Nat
  n : Nat
  psh : Nat
  ptlen : Nat
  rstride : Nat
  deriving DecidableEq, Repr

def WalkBlk.ofBytes (bs : List Byte) : WalkBlk :=
  let f := fieldAt bs
  { list := f 0 8, ptab := f 8 8, out := f 0x10 8, desc := f 0x18 8, n := f 0x20 2, psh := f 0x22 2 % 8, ptlen := f 0x24 4,
    rstride := f 0x28 4 }

/-- The set-up of a TWALK: the output list, and the translations of its output and its descriptor. -/
def setupWalk (s : State) (o : EngOp) (bs : List Byte) : Except FaultRec (Held × List Word) :=
  let b := WalkBlk.ofBytes bs
  if fieldAt bs 0x22 2 / 8 ≠ 0 then .error (copyFormat o 0 0x22)
  else if fieldAt bs 0x2C 20 ≠ 0 then .error (copyFormat o 0 0x2C)
  else if b.n = 0 ∨ 4096 < b.n then .error (copyFormat o 2 0x20)
  else if b.psh = 7 then .error (copyFormat o 6 0x22)
  else if 4096 < b.n * 2 ^ b.psh then .error (copyFormat o 6 0x20)
  else do
    let h ← holdRange s o {} (dieOf o.core) false b.list (4 * b.n) 4 {}
    let xs := (List.range b.n).map fun j => ofBytes (readAt (s.view o.core) h.rd (b.list + 4 * j) 4)
    match (List.range b.n).find? fun j => xs.getD j 0 != 0xFFFFFFFF && decide (b.ptlen ≤ xs.getD j 0) with
    | some j => Except.error (o.faultRec 5 cIndexRange (b.list + 4 * j) (BitVec.ofNat 64 (j + 2 ^ 32 * xs.getD j 0)))
    | none =>
      let _ ← if b.ptab % 8 = 0 ∧ apertureOf b.ptab = .global then Except.ok []
        else engObj s o 5 {} (dieOf o.core) false b.ptab 8 8
      let h ← (xs.filter fun x => x != 0xFFFFFFFF).foldlM (fun h x => holdRange s o {} (dieOf o.core) false (b.ptab + 8 * x) 8 8 h) h
      let h ← holdRange s o {} (dieOf o.core) true b.out (8 * (b.n * 2 ^ b.psh)) 8 h
      let h ← holdRange s o vaults (dieOf o.core) true b.desc 64 64 h
      let entry (x : Nat) : Nat := if x = 0xFFFFFFFF then 0 else ofBytes (readAt (s.view o.core) h.rd (b.ptab + 8 * x) 8)
      .ok (h, (xs.map fun x =>
        let p := entry x
        (List.range (2 ^ b.psh)).map fun q => if p = 0 then (0 : Word) else BitVec.ofNat 64 (p + q * b.rstride)).flatten)

/-! ### Base-die streams: set-up (R291) -/

/-- The fields of STREAM and of the ring. -/
structure StreamBlk where
  nslot : Nat
  slotlen : Nat
  base : Nat
  sdesc : Nat
  istride : Int
  nitem : Nat
  done : Nat
  pull : Bool
  active : Bool
  sword : Nat
  deriving DecidableEq, Repr

def StreamBlk.ofBytes (bs : List Byte) : StreamBlk :=
  let f := fieldAt bs
  { nslot := f 0 2, slotlen := f 2 2, base := f 8 8, sdesc := f 0x10 8, istride := signedOf 64 (f 0x18 8), nitem := f 0x20 4,
    done := f 0x24 4, pull := bitOf (f 0x28 4) 0, active := bitOf (f 0x28 4) 1, sword := f 0x30 8 }

/-- The form of a stream's item, and its descriptor for item n (R292). -/
def StreamBlk.form (b : StreamBlk) : CopyForm := if b.pull then .store else .load 0
def StreamBlk.item (b : StreamBlk) (d : CopyDesc) (n : Nat) : CopyDesc :=
  { d with saddr := (((d.saddr : Int) + (n : Int) * b.istride) % (2 ^ 64 : Nat)).toNat
           taddr := ringSlotAddr b.slotlen b.base (n % ringSlots b.nslot) }

/-- Whether every byte of translated ranges lies in a slice of a die. -/
def inSlices (die : Nat) (ps : List (Nat × Nat)) : Bool :=
  ps.all fun p => !homeIsVault p.2 && !homeIsHost p.2 && homeChip p.2 == 0 && dieOf (homeCore p.2) == die

/-- The checks of a TSUB. -/
def setupStream (s : State) (o : EngOp) (cancel : Bool) (bs : List Byte) : Except FaultRec Unit :=
  let b := StreamBlk.ofBytes bs
  if bitsOf (fieldAt bs 0x28 4) 7 2 ≠ 0 ∨ bitsOf (fieldAt bs 0x28 4) 31 16 ≠ 0 then .error (copyFormat o 0 0x28)
  else if fieldAt bs 0x2C 4 ≠ 0 then .error (copyFormat o 0 0x2C)
  else if fieldAt bs 0x38 8 ≠ 0 then .error (copyFormat o 0 0x38)
  else if b.nitem = 0 then .error (copyFormat o 2 0x20)
  else if apertureOf o.a.toNat != .scratch then .error (copyFormat o 5 0)
  else if b.active && !cancel then .error (copyFormat o 5 0x28)
  else do
    let h ← holdRange s o vaults (dieOf o.core) false b.sdesc 64 64 {}
    let ds := readAt (s.view o.core) h.rd b.sdesc 64
    let d := CopyDesc.ofBytes ds
    if (descFault b.form d ds).isSome then Except.error (copyFormat o 5 0x10)
    else if (if b.slotlen % 8192 = 0 then 8192 else b.slotlen % 8192) * 128 < gridBytes b.form d then Except.error (copyFormat o 5 0x02)
    else do
      let _ ← if b.sword = 0 then Except.ok 0 else engSyncWord s o 5 b.sword
      (List.range b.nitem).foldlM (fun (_ : Unit) n => do
        let e := b.item d n
        let x := { o with a := BitVec.ofNat 64 b.sdesc }
        let h ← holdRows s x b.pull e.saddr e.sstride e.rows (rowBytes e.fmt e.cols) (esOf e.fmt) 0x10 {}
        let h ← if fmtScaled e.fmt then holdRows s x false e.scale e.scstride e.rows (4 * ceilDiv e.cols 128) 4 0x28 h else .ok h
        if inSlices (dieOf o.core) (h.rd ++ h.wr) then Except.ok () else Except.error (copyFormat o 5 0x10)) ()

/-- Writes bytes of a ring's control block at home. -/
def State.blockWrite (s : State) (core home : Nat) (bs : List Byte) : State :=
  ((s.drainTo core s.nextId home bs.length).writeHome home bs false).noteWritten home bs.length

/-- DIR and the bits beside ACTIVE and SCODE of the word at 0x28. -/
def flagsWord (pull active : Bool) (scode : Nat) : List Byte := [BitVec.ofNat 8 (boolNat pull + 2 * boolNat active), BitVec.ofNat 8 scode]

/-- A TSUB whose checks hold: a stream starts, or one is cancelled; the operation is complete at that point. -/
def State.startStream (s : State) (o : EngOp) (cancel : Bool) (block : Nat) (bs : List Byte) : State :=
  let b := StreamBlk.ofBytes bs
  let s := s.modOp o.id fun x => { x with started := true, again := false, done := true }
  if cancel then
    if b.active then
      ({ s with streams := s.streams.filter fun x => !(x.block == o.a && some x.team == s.opTeam o) }).blockWrite o.core (block + 0x28)
        (flagsWord b.pull false (fieldAt bs 0x29 1))
    else s
  else
    let s := (s.blockWrite o.core (block + 0x24) (toBytes 4 0)).blockWrite o.core (block + 0x28) (flagsWord b.pull true 0)
    let (n, s) := s.fresh
    { s with streams := s.streams ++ [{ id := n, core := o.core, squad := o.squad, team := (s.opTeam o).getD 0, launch := o.launch,
                                        block := o.a, pc := o.pc, pos := o.pos, lanes := o.lanes }] }

/-! ### The start of an operation (R285) -/

/-- A TSUB at its start: with four streams on its core a start waits, still counted in cp (R291). -/
def State.startTsub (s : State) (o : EngOp) (cancel : Bool) : State :=
  match engObj s o 5 vaults (dieOf o.core) true o.a.toNat 256 256 with
  | .error f => s.opFault o f
  | .ok ps =>
    let bs := readPieces (s.view o.core) ps
    match setupStream s o cancel bs with
    | .error f => s.opFault o f
    | .ok _ =>
      if !cancel && decide (4 ≤ s.streamsOn o.core) then
        s.modOp o.id fun x => { x with started := true, again := false }
      else s.startStream o cancel (match ps with | p :: _ => p.1 | [] => 0) bs

/-- The set-up of any other operation: block, fields, sync word, ranges. -/
def setupOp (s : State) (o : EngOp) (w : FM) : Except FaultRec (List Byte × Held × List Word × Nat) := do
  let ps ← engObj s o 5 vaults (dieOf o.core) false o.a.toNat 64 64
  let bs := readPieces (s.view o.core) ps
  match o.i with
  | .twalk _ =>
    let _ ← match w.sb with | .imm _ => Except.ok 0 | _ => engSyncWord s o 5 o.b.toNat
    let (h, xs) ← setupWalk s o bs
    .ok (bs, h, xs, xs.length)
  | _ =>
    let k := copyForm o.i
    let d := CopyDesc.ofBytes bs
    match descFault k d bs with
    | some (r, off) => Except.error (copyFormat o r off)
    | none => do
      let _ ← match w.sb with | .imm _ => Except.ok 0 | _ => engSyncWord s o 5 o.b.toNat
      let (h, xs) ← setupDesc s o k d
      .ok (bs, h, xs, destRows k d)

/-- A TWALK of the squad that is older than an operation and has not retired. -/
def State.walkBefore (s : State) (o : EngOp) : Bool :=
  s.ops.any fun x => x.squad == o.squad && decide (x.id < o.id) && (match x.i with | .twalk _ => true | _ => false)

/-- The operation that the copy engine of a core starts next: one that goes on with its set-up, a held one that restarts, else the oldest of its queue (R285, R296). -/
def State.nextCopy (s : State) (core : Nat) : Option EngOp :=
  let mine := s.ops.filter fun o => o.core == core && o.cls == .cp
  match mine.find? fun o => o.setup && !o.done && !s.walksFor o.id with
  | some o => some o
  | none =>
  if 8 ≤ (mine.filter fun o => s.inPlace o).length then none
  else
    match mine.find? fun o => o.again && !o.done with
    | some o => some o
    | none =>
      match mine.find? fun o => !o.started && !o.done with
      | some o => if s.walkBefore o || s.opFenced o then none else some o
      | none => none

/-- A TSUB that waits in its set-up for one of the four streams of its core, when one is free (R291). -/
def State.waitingTsub (s : State) (core : Nat) : Option EngOp :=
  if 4 ≤ s.streamsOn core then none
  else s.ops.find? fun o => o.core == core && o.inProgress && match o.i with | .tsub w => !w.mod.getLsbD 0 | _ => false

/-- COPY_OPERATION_START: a TSUB that has waited for a stream gets one; else the next operation starts, and an entry of the queue frees. -/
def execCopyOperationStart (core : Nat) (s : State) : Result :=
  match (s.waitingTsub core).or (s.nextCopy core) with
  | none => .next s
  | some o =>
    let s := s.modCore core fun c => { c with cpqdly := c.cpqdly + (if o.started then 0 else s.now - o.arrived) }
    let s := s.modOp o.id fun x => { x with started := true, again := false, setup := false }
    let s := s.wakeEngine 5 fun q => q.core == core
    match o.i with
    | .tsub w => .next (s.startTsub o (w.mod.getLsbD 0))
    | i =>
      match copyWord i with
      | none => .next s
      | some w =>
        match setupOp s o w with
        | .error f => .next (s.opFault o f)
        | .ok (bs, h, xs, n) =>
          .next (((s.eccFix h.reads).sliceReads o.core o.arrived h.reads).modOp o.id fun x =>
            { x with blk := bs, idx := xs, rd := h.rd, wr := h.wr, tr := [], wfault := [], row := 0, rows := n })

/-! ### The rows of an operation (R286 to R290, R293) -/

/-- Bytes b to b + n − 1 of canonical row r of a grid, in their order within the row. -/
def canonRead (mem : Memory) (rd : List (Nat × Nat)) (ta tj r n : Nat) : List Byte :=
  ((chunksOf 0 n).map fun p => readAt mem rd (ta + canonOff tj r p.1) p.2).flatten

/-- The elements of a storage row as canonical bytes. -/
def expandRow (mem : Memory) (rd : List (Nat × Nat)) (d : CopyDesc) (row scale : Nat) : List Byte :=
  let rb := readAt mem rd row (rowBytes d.fmt d.cols)
  let sb := if fmtScaled d.fmt then readAt mem rd scale (4 * ceilDiv d.cols 128) else []
  ((List.range d.cols).map fun j => toBytes d.w (expandElem d.fmt d.ct (fieldAt rb) (fieldAt sb) j)).flatten

/-- The storage bytes of a canonical row. -/
def storeRow (mem : Memory) (rd : List (Nat × Nat)) (d : CopyDesc) (ta tj r : Nat) : List Byte :=
  let cb := canonRead mem rd ta tj r (d.cols * d.w)
  ((List.range d.cols).map fun j => toBytes (esOf d.fmt) (storeElem d.fmt d.ct (fieldAt cb (j * d.w) d.w))).flatten

/-- The pattern of a TFILL, n bytes of it. -/
def fillBytes (fill n : Nat) : List Byte := (List.range n).map fun k => BitVec.ofNat 8 (fill / 256 ^ (k % 4))

/-- The padding of a grid: what stands in its rows beyond the matrix and beyond the columns (R277). -/
def padWrites (k : CopyForm) (d : CopyDesc) (f : Nat → List Byte) : List (Nat × List Byte) :=
  let tj := gridTJ k d
  ((List.range (gridTI k d * 64)).map fun r =>
    let b := if r < canonRows k d then canonCols k d * d.w else 0
    canonWrites d.taddr tj r b (f (tj * 128 - b))).flatten

/-- The writes of destination row r of an operation with a descriptor. -/
def rowWrites (mem : Memory) (o : EngOp) (k : CopyForm) (d : CopyDesc) (r : Nat) : List (Nat × List Byte) :=
  let tj := gridTJ k d
  match k with
  | .load xp =>
    let pads := if r = 0 then padWrites k d fun n => List.replicate n 0 else []
    if xp = 0 then pads ++ canonWrites d.taddr tj r 0 (expandRow mem o.rd d (d.saddr + r * d.sstride) (d.scale + r * d.scstride))
    else
      pads ++ canonWrites d.taddr tj r 0 (((List.range d.rows).map fun i =>
        let rd (off n : Nat) : Nat := ofBytes (readAt mem o.rd (d.saddr + i * d.sstride + off) n)
        let sc (off n : Nat) : Nat := ofBytes (readAt mem o.rd (d.scale + i * d.scstride + off) n)
        toBytes d.w (expandElem d.fmt d.ct rd sc r)).flatten)
  | .store => [(d.saddr + r * d.sstride, storeRow mem o.rd d d.taddr tj r)]
  | .gather =>
    (match indexRow o d r ((o.idx.getD r 0).toNat) with
     | .ok (some (row, i)) => canonWrites d.taddr tj r 0 (expandRow mem o.rd d row ((d.scale + i * d.scstride) % 2 ^ 64))
     | _ => canonWrites d.taddr tj r 0 (List.replicate (d.cols * d.w) 0))
  | .scatter =>
    (match indexRow o d r ((o.idx.getD r 0).toNat) with
     | .ok (some (row, _)) => [(row, storeRow mem o.rd d d.taddr tj r)]
     | _ => [])
  | .fill true => [(d.saddr + r * d.sstride,
      ((List.range d.cols).map fun _ => toBytes (esOf d.fmt) d.fill).flatten)]
  | .fill false =>
    (if r = 0 then ((List.range (gridTI k d * 64)).filter fun x => decide (canonRows k d ≤ x)).map fun x =>
        canonWrites d.taddr tj x 0 (fillBytes d.fill (tj * 128)) else []).flatten ++
      canonWrites d.taddr tj r 0 (fillBytes d.fill (tj * 128))
  | .move _ => canonWrites d.taddr tj r 0 (canonRead mem o.rd d.saddr tj r (tj * 128))

/-- The writes of output entry r of a TWALK; with the last entry the descriptor is made ready (R290). -/
def walkWrites (mem : Memory) (o : EngOp) (r : Nat) : List (Nat × List Byte) :=
  let b := WalkBlk.ofBytes o.blk
  let w18 := ofBytes (readAt mem o.wr (b.desc + 0x18) 4)
  [(b.out + 8 * r, toBytes 8 (o.idx.getD r 0).toNat)] ++
  (if r + 1 = o.rows then
    [(b.desc + 0x30, toBytes 8 b.out ++ toBytes 2 o.rows),
     (b.desc + 0x18, toBytes 4 (if bitOf w18 14 then w18 else w18 + 2 ^ 14))] else [])

/-- Writes of an operation through its held translations. -/
def State.opWrites (s : State) (o : EngOp) (ws : List (Nat × List Byte)) : State :=
  ws.foldl (fun s w =>
    (rangePieces w.1 w.2.length (w.2.length / 4096 + 2)).foldl (fun s p =>
      s.engWrite o.core o.squad o.launch (some o.id) (homeAt o.wr p.1) ((w.2.drop (p.1 - w.1)).take p.2)) s) s

/-- Bytes that one destination row counts for in byte mode (R293). -/
def rowAmount (o : EngOp) : Nat :=
  match o.i with
  | .twalk _ => 8
  | i =>
    let k := copyForm i
    let d := CopyDesc.ofBytes o.blk
    match k with
    | .store => d.cols * esOf d.fmt
    | .scatter => d.cols * esOf d.fmt
    | .fill true => d.cols * esOf d.fmt
    | _ => gridTJ k d * 128

/-- The sync word of an operation (R284). -/
def EngOp.syncWord (o : EngOp) : Option Word :=
  match copyWord o.i with
  | some w => (match w.sb with | .imm _ => none | _ => some o.b)
  | none => none

/-- COPY_ROW_WRITTEN: the next row of an operation is written, and its arrival posted; after the last one the operation is
complete. -/
def execCopyRowWritten (n : Nat) (s : State) : Result :=
  match s.ops.find? fun o => o.id == n && o.cls == .cp with
  | none => .next s
  | some o =>
    if !o.inProgress || decide (o.rows ≤ o.row) || o.rd.any (fun p => !s.reaches o.core p.2) then .next s
    else
      let mem := s.view o.core
      let ws := match o.i with
        | .twalk _ => walkWrites mem o o.row
        | i => rowWrites mem o (copyForm i) (CopyDesc.ofBytes o.blk) o.row
      let s := s.opWrites o ws
      let last := decide (o.row + 1 = o.rows)
      let s := s.modOp n fun x =>
        { x with row := x.row + 1, done := last, bytes := x.bytes + ((ws.map fun w => w.2.length).sum),
                 upds := if o.syncWord.isSome then x.upds + 1 else x.upds }
      match o.syncWord with
      | none => .next s
      | some va =>
        let home := match engSyncWord s o 5 va.toNat with | .ok h => h | .error _ => 0
        .next (s.sendUpd { id := 0, kind := .arrive 1 (rowAmount o), home := home, va := va, team := (s.opTeam o).getD 0,
                           core := o.core, op := some o.id, launch := o.launch })

/-! ### Streams (R292) -/

/-- An operation that stands for an item of a stream: its records name the TSUB (R295). -/
def Stream.asOp (x : Stream) : EngOp :=
  { id := 0, squad := x.squad, core := x.core, team := x.team, cls := .cp,
    i := .tload ⟨⟨31, false, .none, 0, false, false, 0⟩, .imm 0, .imm 0, 0⟩,
    a := x.block, launch := x.launch, pc := x.pc, pos := x.pos, lanes := x.lanes, tr := x.tr, wfault := x.wfault }

/-- A stream ends: ACTIVE falls. -/
def State.endStream (s : State) (x : Stream) (block : Nat) (pull : Bool) (scode : Nat) : State :=
  ({ s with streams := s.streams.filter fun y => y.id != x.id }).blockWrite x.core (block + 0x28) (flagsWord pull false scode)

/-- The sync engine of a block's vault flips the phase of slot i, after the older stores of the core to its byte (R268). -/
def State.flipPhase (s : State) (core block i : Nat) : State :=
  let at8 := block + 64 + i / 8
  let s := s.drainTo core s.nextId at8 1
  (s.blockWrite core at8 [s.mem.read at8 ^^^ BitVec.ofNat 8 (2 ^ (i % 8))]).modCore (homeCore at8) fun c => { c with syncops := c.syncops + 1 }

/-- Resident squads of a team. -/
def State.residents (s : State) (team : Nat) : List Squad :=
  s.squads.filter fun q => q.team == team && !q.roam && q.place == .resident

/-- The pre-emption of a team is under way: it has begun and has not been refused. -/
def State.preempting (s : State) (t : Team) : Bool :=
  t.preempt.isSome && (!t.refused || (s.residents t.id).any fun q => q.saving == some 1)

/-- STREAM_ITEM: a stream that waits on its team's new core goes on when fewer than four run there (notes/assumptions/74.md); else the next item moves when its slot's phase allows, its phase is flipped, DONE and the sync word advance; the stream
stops with its team and ends after its last item. -/
def execStreamItem (n : Nat) (s : State) : Result :=
  match s.streams.find? fun x => x.id == n with
  | none => .next s
  | some x =>
    let resident := match s.team? x.team with | some t => !s.preempting t && t.saved.isNone && !t.retired | none => false
    let o := x.asOp
    if !resident || x.held.isSome || s.walksFor n then .next s
    else if x.waiting then
      if 4 ≤ s.streamsOn x.core then .next s
      else .next { s with streams := s.streams.map fun (y : Stream) => if y.id = n then { y with waiting := false } else y }
    else
      match engObj s o 5 vaults (dieOf x.core) true x.block.toNat 256 256 with
      | .error _ => .next s
      | .ok ps =>
        let block := match ps with | p :: _ => p.1 | [] => 0
        let b := StreamBlk.ofBytes (readPieces (s.view x.core) ps)
        let i := b.done % ringSlots b.nslot
        let hold (f : FaultRec) : State :=
          if f.code = 0 then s.engWalk x.core 0 x.launch n f
          else if f.code = cPageNotPresent then
            { s with streams := s.streams.map fun (y : Stream) =>
                if y.id = n then { y with held := some f, tr := [], wfault := [] } else y }.reportFault 2
              x.launch x.core 0 0 f
          else
            let s := s.endStream x block b.pull f.code
            if f.code = cUncorrectableMemory then s.eccLaunch x.launch x.core 0 f else s.fatal x.launch x.core 0 [f]
        if b.nitem ≤ b.done then .next (s.endStream x block b.pull 0)
        else if ringPhase (s.view x.core) block i != b.pull then .next s
        else
          match holdRange s o vaults (dieOf x.core) false b.sdesc 64 64 {} with
          | .error f => .next (hold f)
          | .ok h =>
            let ds := readAt (s.view x.core) h.rd b.sdesc 64
            let d := b.item (CopyDesc.ofBytes ds) b.done
            let oi := { o with a := BitVec.ofNat 64 b.sdesc }
            match descFault b.form d ds with
            | some (r, off) => .next (hold (copyFormat oi r off))
            | none =>
              match setupDesc s oi b.form d, (if b.sword = 0 then Except.ok 0 else engSyncWord s o 5 b.sword) with
              | .error f, _ => .next (hold f)
              | _, .error f => .next (hold f)
              | .ok (h, _), .ok word =>
                let ws := ((List.range (destRows b.form d)).map fun r => rowWrites (s.view x.core) { o with rd := h.rd } b.form d r).flatten
                let s := ws.foldl (fun s w =>
                  (rangePieces w.1 w.2.length (w.2.length / 4096 + 2)).foldl (fun (s : State) p =>
                    s.blockWrite x.core (homeAt h.wr p.1) ((w.2.drop (p.1 - w.1)).take p.2)) s)
                  ((s.eccFix h.reads).sliceReads x.core s.now h.reads)
                let s := { s with streams := s.streams.map fun (y : Stream) => if y.id = n then { y with tr := [], wfault := [] } else y }
                let s := (s.flipPhase x.core block i).blockWrite x.core (block + 0x24) (toBytes 4 (b.done + 1))
                let s := if b.sword = 0 then s
                  else s.sendUpd { id := 0, kind := .add 1, home := word, va := BitVec.ofNat 64 b.sword, team := x.team, core := x.core,
                                   launch := x.launch }
                if b.done + 1 = b.nitem then .next (s.endStream x block b.pull 0) else .next s

/-- A held operation or stream is covered by a RESUME (R296, R420). -/
def State.copyResume (s : State) (o : EngOp) : State :=
  (s.modCore o.core fun c => { c with cpheld := c.cpheld + (s.now - o.arrived) }).modOp o.id fun x =>
    { x with held := none, again := true, tr := [], wfault := [], arrived := s.now }

end Sys2Proof.Machine
end

