-- ==== Sys2Proof/Machine/Matrix.lean ====
section
/-!
DEFINITION. The matrix engines (R299 to R321): tile descriptors, the arithmetic of products, the nine MTX instructions and the start of
an operation.
-/
namespace Sys2Proof.Machine

/-! ### Tile descriptors (R301 to R303) -/

def TileDesc.ty (d : TileDesc) : Nat := (d.extractLsb' 0 4).toNat
def TileDesc.kind (d : TileDesc) : Nat := (d.extractLsb' 4 3).toNat
/-- The address: bits [63:7] of BASE. -/
def TileDesc.addr (d : TileDesc) : Nat := (d.extractLsb' 7 57).toNat * 128
def TileDesc.step (d : TileDesc) : W32 := d.extractLsb' 64 32
def TileDesc.tstride (d : TileDesc) : Nat := (d.extractLsb' 96 32).toNat

/-- BASE advanced by STEP with its low bits as zero; TY and KIND stand (R303). -/
def TileDesc.advance (d : TileDesc) : TileDesc :=
  d.extractLsb' 64 64 ++ ((d.extractLsb' 0 64 : Word) + ((d.step &&& 0xFFFFFF80#32).signExtend 64))

def Squad.desc (q : Squad) (n : Nat) : TileDesc := Assoc.get 0 q.td n
def Squad.setDesc (q : Squad) (n : Nat) (d : TileDesc) : Squad := { q with td := Assoc.set 0 q.td n d }

/-- Classes of R302. -/
inductive TyClass where
  | float8 | float16 | int8 | other
  deriving DecidableEq, Repr

def tyClass (ty : Nat) : TyClass :=
  match ty with
  | 0 | 1 => .float8
  | 2 | 3 => .float16
  | 4 | 5 => .int8
  | _ => .other

def tyFmt (ty : Nat) : Fmt := [Fmt.e4m3, .e5m2, .bf16, .f16].getD ty .f32
def tyWidth (ty : Nat) : Nat := [1, 1, 2, 2, 1, 1, 4].getD ty 1

/-! ### Accumulators (R300) -/

def Squad.accElem (q : Squad) (a m n : Nat) : W32 := regGet q.acc (4096 * a + 64 * m + n)

/-- Gives the elements of accumulator a the values f row column. -/
def Squad.setAcc (q : Squad) (a : Nat) (f : Nat → Nat → W32) : Squad :=
  let block := ((List.range 4096).map fun k => (4096 * a + k, f (k / 64) (k % 64))).filter fun e => e.2 != 0
  { q with acc := (q.acc.filter fun e => decide (e.1 < 4096 * a)) ++ block ++ (q.acc.filter fun e => decide (4096 * a + 4096 ≤ e.1)) }

/-- The words of accumulator a, and those of its row m. -/
def accWords (a : Nat) : List Nat := (List.range 2048).map fun k => 2048 * a + k
def accRowWords (a m : Nat) : List Nat := (List.range 32).map fun k => 2048 * a + 32 * m + k

/-- Words of the accumulators are corrected, or written whole. -/
def Squad.accClear (q : Squad) (ws : List Nat) : Squad := { q with accErrs := q.accErrs.filter fun e => !ws.contains e.1 }

/-- An operation reads words of its squad's accumulators (R435). One with a double-bit error ends the launch; it has no device physical address, and
ADDR is a free value. -/
def State.accRead (s : State) (o : EngOp) (q : Squad) (eng : Nat) (ws : List Nat) (k : State → State) : State :=
  if q.accErrs.isEmpty then k s
  else if q.accErrs.any fun e => e.2 && ws.contains e.1 then
    let (v, s) := s.draw
    s.fatal o.launch o.core o.part [o.faultRec eng cUncorrectableMemory (v.toNat % 2 ^ 52) 0]
  else k (s.modSquad q.id fun x => x.accClear ws)

/-! ### Arithmetic (R304) -/

/-- K and G of a class. -/
def classK (c : TyClass) : Nat := if c = .float16 then 64 else 128
def classG (c : TyClass) : Nat := if c = .float16 then 8 else 16

/-- The sum of a group of products, exact, rounded to FP32; any NaN raises invalid. -/
def groupSum (a b : List FV) : W32 × Flags :=
  let ps := List.zipWith fvMul a b
  let r := match ps with
    | [] => ((FV.fin false 0 0, 0) : FV × Flags)
    | p :: rest => rest.foldl (fun (acc x : FV × Flags) => let z := fvAdd .rn acc.1 x.1; (z.1, acc.2 ||| x.2 ||| z.2)) p
  if r.1.isNaN then (BitVec.ofNat 32 (canonNaN .f32), flNV)
  else let z := roundFV .f32 .rn r.1; (BitVec.ofNat 32 z.1, z.2)

/-- One element of a float product: the groups in ascending k. -/
def floatElem (g : Nat) (d : W32) (a b : List FV) (fuel : Nat) : W32 × Flags :=
  match fuel with
  | 0 => (d, 0)
  | k + 1 =>
    if a.isEmpty then (d, 0)
    else
      let s := groupSum (a.take g) (b.take g)
      let x := add32 d s.1
      let r := floatElem g x.1 (a.drop g) (b.drop g) k
      (r.1, s.2 ||| x.2 ||| r.2)

/-- An operand element as an integer (R304). -/
def tyInt (ty x : Nat) : Int := if ty = 4 then signedOf 8 x else (x : Int)

/-- D(m, n) after the product of a row of A and a row of B, as element codes. -/
def productElem (ta tb : Nat) (d : W32) (a b : List Nat) : W32 × Flags :=
  if tyClass ta = .int8 then
    (BitVec.ofInt 32 (d.toNat + (List.zipWith (fun x y => tyInt ta x * tyInt tb y) a b).sum), 0)
  else floatElem (classG (tyClass ta)) d (a.map (fvOf (tyFmt ta))) (b.map (fvOf (tyFmt tb))) 16

/-- A row of the product: 64 elements with prior values d. -/
def productRow (ta tb : Nat) (a : List Nat) (bs : List (List Nat)) (d : Nat → W32) : List (W32 × Flags) :=
  bs.mapIdx fun n b => productElem ta tb (d n) a b

/-! ### Tiles -/

/-- Home of byte off of a translated range, whose pieces end at the bounds of its pages wherever it begins. -/
def homeOff (ps : List (Nat × Nat)) (off : Nat) : Nat :=
  match ps with
  | [] => 0
  | (h, n) :: rest => if off < n then h + off else homeOff rest (off - n)

/-- The n first elements of width w of canonical row m of a tile. -/
def tileRow (mem : Memory) (ps : List (Nat × Nat)) (w m n : Nat) : List Nat :=
  (List.range n).map fun j => mem.readN (homeOff ps (canonOff 1 m (j * w))) w

/-- The instruction's descriptors and what it is. -/
def mtxWord (i : Instr) : Option FM :=
  match i with
  | .mma w => some w
  | .mmag w => some w
  | .mmas w => some w
  | .mmad w => some w
  | .acz w => some w
  | .acld w => some w
  | .acst w => some w
  | .acrd w => some w
  | _ => none

def mtxAcc (w : FM) : Nat := (w.mod.extractLsb' 0 5).toNat
def mtxAux (w : FM) : Nat := (w.mod.extractLsb' 5 4).toNat

/-- The KIND of the auxiliary descriptor. -/
def auxKind (i : Instr) : Nat := match i with | .mmag _ => 1 | .mmas _ => 2 | _ => 3

/-! ### Issue (R299, R303, R306, R307) -/

/-- An MTX, ROW or SIG instruction: operands, role, and the whole squad (R107, R227). -/
def collectiveOp (e : Eng) (s : State) (ok : Squad → Bool) (k : Gang → Squad → State) : Result :=
  onGang s fun g q => checked s g q e (!q.roam && ok q)
    (if missingLanes g q ≠ 0 then s.decodeTrap g cIllegalConvergence else k g q)

/-- The instruction enters the queue of 32 of its engine. -/
def mtxEnqueue (s : State) (g : Gang) (q : Squad) (i : Instr) (a : Word) (tds : List Nat) (lanes : Lanes) : State :=
  s.enqueue g q (decide (32 ≤ s.queueOcc q.core .mx (engineOf q.part)))
    { id := 0, squad := 0, core := 0, launch := 0, cls := .mx, i := i, a := a, td := tds.map q.desc, lanes := lanes }

/-- Advances descriptors in order. -/
def Squad.advanceAll (q : Squad) (ns : List Nat) : Squad := ns.foldl (fun q n => q.setDesc n (q.desc n).advance) q

/-- An MTX operation that names descriptors: copies at issue, then the advances (R303). -/
def mtxIssue (i : Instr) (w : FM) (tds : List Src) (aux : Option Nat) (incs : List (Bool × Nat)) (s : State) : Result :=
  collectiveOp .mtx s
    (fun q => tds.all (fun x => srcOk q false .tile x) && decide (mtxAcc w < q.accs) &&
      match aux with | some n => decide (n < q.tiles) | none => true)
    fun g q =>
      let s' := mtxEnqueue s g q i 0 (tds.map srcNum ++ aux.toList) q.existing
      if s'.ops.length = s.ops.length then s'
      else s'.modSquad q.id fun x => x.advanceAll ((incs.filter (·.1)).map (·.2))

/-- MMAG, MMAS and MMAD. -/
def mtxAuxIssue (i : Instr) (w : FM) (s : State) : Result :=
  mtxIssue i w [w.sa, w.sb] (some (mtxAux w))
    [(w.mod.getLsbD 9, srcNum w.sa), (w.mod.getLsbD 10, srcNum w.sb), (w.mod.getLsbD 11, mtxAux w)] s

def execMma (w : FM) (s : State) : Result :=
  mtxIssue (.mma w) w [w.sa, w.sb] none [(w.mod.getLsbD 9, srcNum w.sa), (w.mod.getLsbD 10, srcNum w.sb)] s
def execMmag (w : FM) (s : State) : Result := mtxAuxIssue (.mmag w) w s
def execMmas (w : FM) (s : State) : Result := mtxAuxIssue (.mmas w) w s
def execMmad (w : FM) (s : State) : Result := mtxAuxIssue (.mmad w) w s
def execAcz (w : FM) (s : State) : Result := mtxIssue (.acz w) w [] none [] s
def execAcld (w : FM) (s : State) : Result := mtxIssue (.acld w) w [w.sa] none [(w.mod.getLsbD 9, srcNum w.sa)] s
def execAcst (w : FM) (s : State) : Result := mtxIssue (.acst w) w [w.sa] none [(w.mod.getLsbD 9, srcNum w.sa)] s

/-- ACRD (R314): its registers are interlocked until it performs. -/
def execAcrd (w : FM) (s : State) : Result :=
  collectiveOp .mtx s
    (fun q => decide (mtxAcc w < q.accs) && (w.c.dk == .vec || w.c.dk == .none) && dstOk q w.c 2 false false &&
      match w.sa with | .uni n => runOk n.toNat 1 (uniLimit q) | .imm _ => true | _ => false)
    fun g q =>
      let n := s.nextId
      let s' := mtxEnqueue s g q (.acrd w) ((val32 q 0 w.sa).setWidth 64) [] g.lanes
      if s'.ops.length = s.ops.length || w.c.nw || w.c.dk != .vec then s'
      else s'.modGang g.id fun y => { y with pend := y.pend ++ [(n, true, w.c.dn.toNat, 2)] }

/-- OPMAP (R315). -/
def execOpmap (w : FM) (s : State) : Result :=
  let rd := w.mod.getLsbD 0
  collectiveOp .mtx s
    (fun q => srcOk q false .tile w.sa &&
      if rd then w.c.dk == .uni && runOk w.c.dn.toNat 4 (uniLimit q)
      else match w.sb with | .uni n => runOk n.toNat 4 (uniLimit q) | _ => false)
    fun g q =>
      (s.modSquad q.id fun x =>
        if rd then x.setUni w.c.dn.toNat 4 (x.desc (srcNum w.sa)).toNat
        else x.setDesc (srcNum w.sa) (BitVec.ofNat 128 (regGetN x.ufile (srcNum w.sb) 4))).advance g.id

/-! ### The checks of an operation at its start (R303, R308 to R312, R319) -/

/-- OPMAP with a reason, a descriptor position and number, and the address of its object. -/
def opmapFault (o : EngOp) (reason pos num addr : Nat) : FaultRec :=
  o.faultRec 6 cOpmap addr (BitVec.ofNat 64 (reason + 16 * pos + 256 * num))
def accFault (o : EngOp) (reason acc idx addr : Nat) : FaultRec :=
  o.faultRec 6 cAccumulatorRange addr (BitVec.ofNat 64 (acc + 256 * reason + 65536 * idx))

/-- Position, number and copy of each descriptor. -/
def opDescs (o : EngOp) (w : FM) : List (Nat × Nat × TileDesc) :=
  (List.range o.td.length).map fun k =>
    (k, (if k = 0 then srcNum w.sa else if k = 1 then srcNum w.sb else mtxAux w), o.td.getD k 0)

/-- The checks of KIND, TY, class and low bits, in the order of R303. -/
def descChecks (o : EngOp) (w : FM) : Option FaultRec :=
  let ds := opDescs o w
  let one := match o.i with | .acld _ => true | .acst _ => true | _ => false
  let bad (reason : Nat) (p : Nat → TileDesc → Bool) : Option FaultRec :=
    (ds.find? fun d => p d.1 d.2.2).map fun d => opmapFault o reason d.1 d.2.1 d.2.2.addr
  (bad 1 fun k d => d.kind != (if k = 2 then auxKind o.i else 0)).orElse fun _ =>
  (bad 0 fun k d => k != 2 && decide ((if one then 6 else 5) < d.ty)).orElse fun _ =>
  (bad 4 fun k d => k == 2 && auxKind o.i == 3 && (d.ty == 0 || decide (4 < d.ty))).orElse fun _ =>
  (if !one && tyClass (o.td.getD 0 0).ty != tyClass (o.td.getD 1 0).ty then bad 2 fun k _ => k == 1 else none).orElse fun _ =>
  bad 5 fun _ d => d.step.toNat % 128 != 0 || d.tstride % 128 != 0

/-- An object of n bytes in the scratchpad or a lateral vault; ADDR is the object, and an object elsewhere, in another aperture or in none, has
reason 4 (R319). -/
def tileObj (s : State) (o : EngOp) (eng : Nat) (write : Bool) (va n : Nat) : Except FaultRec (List (Nat × Nat)) :=
  match engObj s o eng vaults (dieOf o.core) write (va % 2 ^ 64) n 1 with
  | .error f => .error { f with
      addr := BitVec.ofNat 64 va
      detail := if apertureOf (va % 2 ^ 64) = .none ∧ f.code = cAperture then memDetail 4 7 write false false true else f.detail }
  | .ok ps => .ok ps

/-- The 64 rows of a tile, n elements of width w each. -/
def tileRows (s : State) (o : EngOp) (va w n : Nat) : Except FaultRec (List (List Nat)) :=
  match tileObj s o 6 false va 8192 with
  | .error f => .error f
  | .ok ps => .ok ((List.range 64).map fun m => tileRow (s.view o.core) ps w m n)

/-- What an operation does to its squad's accumulators, its flags, and the bytes that it writes: home and bytes. -/
structure MtxOut where
  put : List (Nat × (Nat → Nat → W32)) := []
  flags : Flags := 0
  writes : List (Nat × List Byte) := []
  /-- words of the accumulators that it reads, and that it writes without reading them -/
  reads : List Nat := []
  fresh : List Nat := []

/-- Accumulator a with some rows replaced. -/
def accRows (q : Squad) (a : Nat) (rs : List (Nat × List (W32 × Flags))) : Nat → Nat → W32 := fun m n =>
  match rs.find? fun r => r.1 == m with
  | some r => (r.2.getD n (0, 0)).1
  | none => q.accElem a m n

def rowsFlags (rs : List (Nat × List (W32 × Flags))) : Flags :=
  rs.foldl (fun f r => r.2.foldl (fun f x => f ||| x.2) f) 0

/-- Products of rows of A with one B, into rows of accumulator a. -/
def mtxProduct (q : Squad) (a ta tb : Nat) (rows : List (Nat × List Nat)) (bs : List (List Nat)) : MtxOut :=
  let rs := rows.map fun r => (r.1, productRow ta tb r.2 bs (q.accElem a r.1))
  { put := [(a, accRows q a rs)], flags := rowsFlags rs, reads := rows.flatMap fun r => accRowWords a r.1 }

/-- MMA (R308). -/
def mmaRun (s : State) (o : EngOp) (q : Squad) (a : Nat) : Except FaultRec MtxOut := do
  let da := o.td.getD 0 0
  let db := o.td.getD 1 0
  let k := classK (tyClass da.ty)
  let ra ← tileRows s o da.addr (tyWidth da.ty) k
  let rb ← tileRows s o db.addr (tyWidth db.ty) k
  .ok (mtxProduct q a da.ty db.ty (ra.mapIdx fun m r => (m, r)) rb)

/-- The rows of A that a list of row numbers names; a number outside the grid's tiles names zeros. Of a grid in which nothing is named the
first tile is checked (R303). -/
def gatherRows (s : State) (o : EngOp) (d : TileDesc) (xs : List Nat) : Except FaultRec (List (Nat × List Nat)) := do
  let k := classK (tyClass d.ty)
  let named := (xs.filter fun x => decide (x < 4096)).eraseDups
  let _ ← if named.isEmpty then tileObj s o 6 false d.addr 8192 else Except.ok []
  named.mapM fun x =>
    match tileObj s o 6 false (d.addr + x / 64 * d.tstride) 8192 with
    | .error f => .error f
    | .ok ps => .ok (x, tileRow (s.view o.core) ps (tyWidth d.ty) (x % 64) k)

/-- MMAG (R309). -/
def mmagRun (s : State) (o : EngOp) (q : Squad) (w : FM) (a : Nat) : Except FaultRec MtxOut := do
  let da := o.td.getD 0 0
  let db := o.td.getD 1 0
  let dx := o.td.getD 2 0
  let ps ← tileObj s o 6 false dx.addr 256
  let blk := readPieces (s.view o.core) ps
  let gs := (List.range 64).map fun i => fieldAt blk (2 * i) 2
  let ss := (List.range 64).map fun i => fieldAt blk (128 + 2 * i) 2
  match (List.range 64).find? fun i => decide (4096 ≤ gs.getD i 0) && gs.getD i 0 != 0xFFFF with
  | some i => Except.error (opmapFault o 3 2 (mtxAux w) (dx.addr + 2 * i))
  | none =>
    let live (i : Nat) : Bool := ss.getD i 0 != 0xFFFF
    match (List.range 64).find? fun i => live i &&
        (decide (64 ≤ ss.getD i 0) || (List.range i).any fun j => ss.getD j 0 == ss.getD i 0) with
    | some i => Except.error (accFault o (if 64 ≤ ss.getD i 0 then 1 else 2) a i (dx.addr + 128 + 2 * i))
    | none => do
      let is := (List.range 64).filter live
      let ra ← gatherRows s o da (is.map fun i => gs.getD i 0)
      let rb ← tileRows s o db.addr (tyWidth db.ty) (classK (tyClass db.ty))
      let zero := List.replicate (classK (tyClass da.ty)) 0
      Except.ok (mtxProduct q a da.ty db.ty (is.map fun i =>
        (ss.getD i 0, match ra.find? fun r => r.1 == gs.getD i 0 with | some r => r.2 | none => zero)) rb)

/-- A legal lane code (R311). -/
def laneCodeOk (c : Nat) : Bool := [4, 8, 12, 9, 13, 14].contains c

/-- The logical row of a compressed row and its metadata words (R310). -/
def decompress (k : Nat) (row words : List Nat) : List Nat :=
  ((List.range (k / 2)).map fun g =>
    let c := words.getD (g / 8) 0 / 16 ^ (g % 8) % 16
    (List.range 4).map fun p =>
      if p = c % 4 then row.getD (2 * g) 0 else if p = c / 4 then row.getD (2 * g + 1) 0 else 0).flatten

/-- MMAS (R310, R311): two MMAs in sequence. -/
def mmasRun (s : State) (o : EngOp) (q : Squad) (a : Nat) : Except FaultRec MtxOut := do
  let da := o.td.getD 0 0
  let db := o.td.getD 1 0
  let dx := o.td.getD 2 0
  let k := classK (tyClass da.ty)
  let nw := if tyClass da.ty = .float16 then 4 else 8
  let ra ← tileRows s o da.addr (tyWidth da.ty) k
  let b0 ← tileRows s o db.addr (tyWidth db.ty) k
  let b1 ← tileRows s o (db.addr + 8192) (tyWidth db.ty) k
  let codes ← tileRows s o dx.addr 4 nw
  let bad := ((List.range 64).map fun m => (List.range nw).map fun j => (List.range 8).filterMap fun n =>
    let c := (codes.getD m []).getD j 0 / 16 ^ n % 16
    if laneCodeOk c then none else some (m, j, n, c)).flatten.flatten
  match bad with
  | (m, j, n, c) :: _ =>
    Except.error (o.faultRec 6 cSparseMetadata (dx.addr + canonOff 1 m (4 * j)) (BitVec.ofNat 64 (m + 256 * j + 65536 * n + 2 ^ 24 * c)))
  | [] =>
    let rs := ra.mapIdx fun m r =>
      let l := decompress k r (codes.getD m [])
      let p0 := productRow da.ty db.ty (l.take k) b0 (q.accElem a m)
      let p1 := productRow da.ty db.ty (l.drop k) b1 fun n => (p0.getD n (0, 0)).1
      (m, List.zipWith (fun (x y : W32 × Flags) => (y.1, x.2 ||| y.2)) p0 p1)
    Except.ok { put := [(a, accRows q a rs)], flags := rowsFlags rs, reads := accWords a }

/-- MMAD (R312). -/
def mmadRun (s : State) (o : EngOp) (q : Squad) (w : FM) (a : Nat) : Except FaultRec MtxOut := do
  let da := o.td.getD 0 0
  let db := o.td.getD 1 0
  let dx := o.td.getD 2 0
  let mt := dx.ty
  let ps ← tileObj s o 6 false dx.addr (256 * mt)
  let blk := readPieces (s.view o.core) ps
  let xs := (List.range (64 * mt)).map fun m => fieldAt blk (4 * m + 2) 2
  match (List.range (64 * mt)).find? fun m => decide (4096 ≤ xs.getD m 0) && xs.getD m 0 != 0xFFFF with
  | some m => Except.error (opmapFault o 3 2 (mtxAux w) (dx.addr + 4 * m))
  | none =>
    if q.accs ≤ a + mt - 1 then Except.error (accFault o 0 a 0 0)
    else do
      let ra ← gatherRows s o da xs
      let rb ← tileRows s o db.addr (tyWidth db.ty) (classK (tyClass db.ty))
      let outs := (List.range mt).map fun t =>
        let rows := (List.range 64).filterMap fun m =>
          match ra.find? fun r => r.1 == xs.getD (64 * t + m) 0 with
          | some r => if xs.getD (64 * t + m) 0 = 0xFFFF then none else some (m, r.2)
          | none => none
        mtxProduct q (a + t) da.ty db.ty rows rb
      Except.ok { put := (outs.map (·.put)).flatten, reads := outs.flatMap (·.reads), flags := outs.foldl (fun f x => f ||| x.flags) 0 }

/-- ACLD (R313). -/
def acldRun (s : State) (o : EngOp) (a : Nat) : Except FaultRec MtxOut := do
  let d := o.td.getD 0 0
  let w := tyWidth d.ty
  let t0 ← tileRows s o d.addr w (if w = 4 then 32 else 64)
  let t1 ← if w = 4 then tileRows s o (d.addr + 8192) w 32 else Except.ok []
  let elem (m n : Nat) : W32 × Flags :=
    let x := if w = 4 ∧ 32 ≤ n then (t1.getD m []).getD (n - 32) 0 else (t0.getD m []).getD n 0
    if d.ty = 6 then (BitVec.ofNat 32 x, 0)
    else if d.ty = 4 ∨ d.ty = 5 then (BitVec.ofInt 32 (tyInt d.ty x), 0)
    else let r := fConvert (tyFmt d.ty) .f32 .rn x; (BitVec.ofNat 32 r.1, r.2)
  .ok { put := [(a, fun m n => (elem m n).1)], fresh := accWords a,
        flags := ((List.range 4096).map fun k => (elem (k / 64) (k % 64)).2).foldl (fun f x => f ||| x) 0 }

/-- An accumulator element for a type, with the flags of its rounding (R313). -/
def acstElem (ty : Nat) (x : W32) : Nat × Flags :=
  if ty = 6 then (x.toNat, 0)
  else if ty = 4 then (encodeInt 8 (max (-128) (min 127 x.toInt)), 0)
  else if ty = 5 then ((max 0 (min 255 x.toInt)).toNat, 0)
  else fConvert .f32 (tyFmt ty) .rn x.toNat

/-- ACST (R313). -/
def acstRun (s : State) (o : EngOp) (q : Squad) (a : Nat) : Except FaultRec MtxOut := do
  let d := o.td.getD 0 0
  let w := tyWidth d.ty
  let p0 ← tileObj s o 6 true d.addr 8192
  let p1 ← if w = 4 then tileObj s o 6 true ((d.addr + 8192) % 2 ^ 64) 8192 else Except.ok []
  let elems := fun (m n : Nat) => acstElem d.ty (q.accElem a m n)
  let rowBytes (m lo n : Nat) : List Byte := ((List.range n).map fun j => toBytes w (elems m (lo + j)).1).flatten
  let tile (ps : List (Nat × Nat)) (lo n : Nat) : List (Nat × List Byte) :=
    ((List.range 64).map fun m => (canonWrites 0 1 m 0 (rowBytes m lo n)).map fun x => (homeOff ps x.1, x.2)).flatten
  .ok { flags := ((List.range 4096).map fun k => (elems (k / 64) (k % 64)).2).foldl (fun f x => f ||| x) 0
        reads := accWords a, writes := if w = 4 then tile p0 0 32 ++ tile p1 32 32 else tile p0 0 64 }

/-- What an operation does (R308 to R313). -/
def mtxRun (s : State) (o : EngOp) (q : Squad) (w : FM) : Except FaultRec MtxOut :=
  match descChecks o w with
  | some f => .error f
  | none =>
    let a := mtxAcc w
    match o.i with
    | .mma _ => mmaRun s o q a
    | .mmag _ => mmagRun s o q w a
    | .mmas _ => mmasRun s o q a
    | .mmad _ => mmadRun s o q w a
    | .acld _ => acldRun s o a
    | .acst _ => acstRun s o q a
    | _ => .ok { put := [(a, fun _ _ => 0)], fresh := accWords a }

/-- Occupancy in cycles (R321). -/
def mtxBusy (s : State) (o : EngOp) : Nat :=
  match o.i with
  | .mma _ | .mmag _ | .mmas _ => 128
  | .mmad _ =>
    let mt := min 4 (o.td.getD 2 0).ty
    let reps := match tileObj s o 6 false (o.td.getD 2 0).addr (256 * mt) with
      | .ok ps => (((List.range (64 * mt)).map fun m => fieldAt (readPieces (s.view o.core) ps) (4 * m + 2) 2).filter fun x =>
          x != 0xFFFF).eraseDups.length
      | .error _ => 0
    2 * reps + 16 * mt
  | .acz _ => 4
  | .acrd _ => 8
  | _ => 52

/-- The words that an ACRD reads: those of a row, or of a column. -/
def acrdWords (o : EngOp) (w : FM) : List Nat :=
  let sel := o.a.toNat % 64
  if w.mod.getLsbD 5 then accRowWords (mtxAcc w) sel else (List.range 64).map fun m => 2048 * mtxAcc w + 32 * m + sel / 2

/-- ACRD performs: its pair in every lane, its latch, and the end of the interlock (R314). -/
def acrdRun (s : State) (o : EngOp) (q : Squad) (w : FM) : State :=
  let sel := o.a.toNat % 64
  let val (l : Nat) : Nat :=
    let (x, y) := if w.mod.getLsbD 5 then (q.accElem (mtxAcc w) sel (2 * l), q.accElem (mtxAcc w) sel (2 * l + 1))
                  else (q.accElem (mtxAcc w) (2 * l) sel, q.accElem (mtxAcc w) (2 * l + 1) sel)
    x.toNat + 2 ^ 32 * y.toNat
  let c := { w.c with le := w.c.le && o.gang != 0 }
  let s := s.modSquad q.id fun x => (lanesOf o.lanes).foldl (fun x l => putLane x c 2 l (val l)) x
  { s with gangs := s.gangs.map fun (g : Gang) =>
      { g with pend := g.pend.filter fun p => p.1 != o.id, ready := if g.hangsOn o.id then s.now else g.ready } }

/-- Writes of an operation at homes. -/
def State.homeWrites (s : State) (o : EngOp) (ws : List (Nat × List Byte)) : State :=
  ws.foldl (fun s w => s.engWrite o.core o.squad o.launch (some o.id) w.1 w.2) s

/-- MATRIX_OPERATION_START: the head of the queue of an engine of a core is performed (R299), after every
earlier RSTAT of its squad has read (R325). -/
def execMatrixOperationStart (core engine : Nat) (s : State) : Result :=
  match s.ops.find? fun o => o.core == core && o.cls == .mx && engineOf o.part == engine && !o.started && !o.done with
  | none => .next s
  | some o =>
    if !s.mayStart o || s.ops.any fun x => x.squad == o.squad && x.cls == .rw && decide (x.id < o.id) && !x.started &&
        (match x.i with | .rstat _ => true | _ => false) then .next s
    else match s.squad? o.squad, mtxWord o.i with
    | some q, some w =>
      let add (n : Nat) (l : List Nat) : List Nat := (List.range 3).map fun k => l.getD k 0 + if k = engine then n else 0
      let s := s.modCore core fun c => { c with mxqdly := add (s.now - o.arrived) c.mxqdly, mxbusy := add (mtxBusy s o) c.mxbusy }
      let s := s.modOp o.id fun x => { x with started := true, done := true }
      let s := s.wakeEngine 6 fun x => x.core == core && engineOf x.part == engine
      match o.i with
      | .acrd _ => .next (s.accRead o q 6 (acrdWords o w) fun s => acrdRun s o q w)
      | _ =>
        match mtxRun s o q w with
        | .error f => .next (s.opFault o f)
        | .ok r =>
          .next (s.accRead o q 6 r.reads fun s =>
            let s := s.modSquad q.id fun x => r.put.foldl (fun x p => x.setAcc p.1 p.2) (x.accClear r.fresh)
            (s.modOp o.id fun x => { x with flags := r.flags }).homeWrites o r.writes)
    | _, _ => .next s

end Sys2Proof.Machine
end

