-- ==== Sys2Proof/Machine/Sfu.lean ====
section
/-!
DEFINITION. The SFU instructions (chapter "Special-function unit", R172 to R180): the special values and flags are exact; where the
specification gives an error bound only, the returned value is a free choice within the bound (Config.sfuValue), and the value
nearest to the exact result when that choice lies outside. The exact result is enclosed in fixed point with 512 fraction bits.
-/
namespace Sys2Proof.Machine

/-! ### Fixed point -/

/-- One, π, ln 2, √(2/π) and 2/√π with 512 fraction bits, truncated. -/
def fxOne : Nat := 2 ^ 512
def fxPi : Nat := 0x3243f6a8885a308d313198a2e03707344a4093822299f31d0082efa98ec4e6c89452821e638d01377be5466cf34e90c6cc0ac29b7c97c50dd3f84d5b5b5470917
def fxLn2 : Nat := 0xb17217f7d1cf79abc9e3b39803f2f6af40f343267298b62d8a0d175b8baafa2be7b876206debac98559552fb4afa1b10ed2eae35c138214427573b291169b825
def fxSqrt2Pi : Nat := 0xcc42299ea1b284687e59e2805d5c717fa7053e60a24e0db1808e369004c73a5d3bf158aa88fa7b6e47eba75766e9d11bd6284ef2e17c2a264f1d32688be119ff
def fxTwoSqrtPi : Nat := 0x120dd750429b6d11ae3a914fed7fd8688281341d7587cea2e7342b06199cc416180eb39f0b24e1e2281806c12d98f35d77a3e9ddc91c394f0e9eedf0efffd84a2

/-- The half width of an enclosure: 2^-300. -/
def fxEps : Nat := 2 ^ 212

/-- The half width of an enclosure of a function whose evaluation loses fewer bits: 2^-440. -/
def fxFine : Nat := 2 ^ 72

/-- The digits of the square root of n below 2^k. -/
def sqrtBits (n k r : Nat) : Nat :=
  match k with
  | 0 => r
  | j + 1 => sqrtBits n j (if (r + 2 ^ j) * (r + 2 ^ j) ≤ n then r + 2 ^ j else r)

/-- floor of the square root. -/
def natSqrt (n : Nat) : Nat := sqrtBits n (n.log2 / 2 + 1) 0

/-- Sum of a series t, t·x/d(n), ... in fixed point: each term is the last times x over d(n). -/
def fxSeries (fuel n : Nat) (x : Int) (d : Nat → Nat) (t acc : Int) : Int :=
  match fuel with
  | 0 => acc
  | k + 1 =>
    let t := t * x / (fxOne * d n : Nat)
    fxSeries k (n + 1) x d t (acc + t)

/-- e^r for 0 ≤ r < 1. -/
def fxExp (r : Nat) : Nat := (fxSeries 120 1 r (fun n => n) fxOne fxOne).toNat

/-- e^-x for x ≥ 0, in fixed point. -/
def fxExpNeg (x : Nat) : Nat :=
  let i := x / fxLn2 + 1
  fxExp (i * fxLn2 - x) / 2 ^ i

/-- The terms t^(2n+1)/(2n+1) of the logarithm's series. -/
def fxAtanh (fuel n z2 t acc : Nat) : Nat :=
  match fuel with
  | 0 => acc
  | k + 1 =>
    let t := t * z2 / fxOne
    fxAtanh k (n + 2) z2 t (acc + t / n)

/-- ln m for 1 ≤ m < 2. -/
def fxLn (m : Nat) : Nat :=
  let z := (m - fxOne) * fxOne / (m + fxOne)
  2 * fxAtanh 180 3 (z * z / fxOne) z z

def fxSin (r : Int) : Int := fxSeries 100 1 (-(r * r / fxOne)) (fun n => 2 * n * (2 * n + 1)) r r
def fxCos (r : Int) : Int := fxSeries 100 1 (-(r * r / fxOne)) (fun n => (2 * n - 1) * (2 * n)) fxOne fxOne

/-- The sum of (-t)^n / (n! (2n+1)), the series of the error function without its factor. -/
def fxErfSum (fuel n : Nat) (t : Nat) (a acc : Int) : Int :=
  match fuel with
  | 0 => acc
  | k + 1 =>
    let a := -(a * t / (fxOne * n : Nat))
    fxErfSum k (n + 1) t a (acc + a / (2 * n + 1 : Nat))

/-! ### Enclosures -/

/-- The exact result: its sign, its magnitude between lo and hi times 2^(k−512), and its exact magnitude m × 2^e where it is
dyadic. -/
structure Encl where
  neg : Bool
  lo : Nat
  hi : Nat
  k : Int
  exact : Option (Nat × Int) := none
  deriving DecidableEq, Repr

/-- A fixed-point value with its enclosing interval. -/
def enclose (neg : Bool) (v : Nat) (k : Int) : Encl := { neg := neg, lo := v - fxEps, hi := v + fxEps, k := k }

/-- The same within 2^-440. -/
def encloseFine (neg : Bool) (v : Nat) : Encl := { neg := neg, lo := v - fxFine, hi := v + fxFine, k := 0 }

/-- A dyadic value. -/
def encloseExact (neg : Bool) (m : Nat) (e : Int) : Encl :=
  { neg := neg, lo := m * fxOne, hi := m * fxOne, k := e, exact := some (m, e) }

/-- A nonzero value below 2^-200. -/
def encloseTiny (neg : Bool) : Encl := { neg := neg, lo := 1, hi := 2 ^ 300, k := 0 }

/-- An enclosure times m × 2^e. -/
def Encl.times (x : Encl) (neg : Bool) (m : Nat) (e : Int) : Encl :=
  { neg := x.neg != neg, lo := x.lo * m, hi := x.hi * m, k := x.k + e }

/-- |x| in fixed point, for 2^-149 ≤ |x| < 2^40. -/
def fxOf (m : Nat) (e : Int) : Nat := m * 2 ^ (e + 512).toNat

/-- |x| is above a bound. -/
def magAbove (m : Nat) (e : Int) (b : Nat) : Bool := decide (40 < (floorLog2 m : Int) + e) || decide (b * fxOne < fxOf m e)

/-- 2^x. -/
def enclExp2 (n : Bool) (m : Nat) (e : Int) : Encl :=
  if magAbove m e 200 then (if n then encloseTiny false else encloseExact false 1 200)
  else
    let x : Int := if n then -(fxOf m e : Int) else fxOf m e
    let i := x / (fxOne : Int)
    let f := (x % (fxOne : Int)).toNat
    if f = 0 then encloseExact false 1 i else enclose false (fxExp (f * fxLn2 / fxOne)) i

/-- e^x. -/
def enclExp (n : Bool) (m : Nat) (e : Int) : Encl :=
  if magAbove m e 150 then (if n then encloseTiny false else encloseExact false 1 200)
  else
    let x : Int := if n then -(fxOf m e : Int) else fxOf m e
    let i := x / (fxLn2 : Int)
    enclose false (fxExp (x - i * fxLn2).toNat) i

/-- A signed fixed-point value enclosed. -/
def enclInt (v : Int) : Encl := enclose (decide (v < 0)) v.natAbs 0

def enclLog2 (m : Nat) (e : Int) : Encl :=
  let l := floorLog2 m
  let ex := (l : Int) + e
  let f := m * fxOne / 2 ^ l
  if f = fxOne then encloseExact (decide (ex < 0)) ex.natAbs 0
  else enclInt (ex * fxOne + ((fxLn f * fxOne / fxLn2 : Nat) : Int))

def enclLn (m : Nat) (e : Int) : Encl :=
  let l := floorLog2 m
  enclInt (((l : Int) + e) * fxLn2 + (fxLn (m * fxOne / 2 ^ l) : Int))

/-- m × 2^e over l × 2^d. -/
def enclDiv (n : Bool) (m : Nat) (e : Int) (l : Nat) (d : Int) : Encl :=
  let v := m * fxOne / l
  if m * fxOne % l = 0 then encloseExact n v (e - d - 512) else enclose n v (e - d)

/-- 1 / √(m × 2^e). -/
def enclRsq (m : Nat) (e : Int) : Encl :=
  let m' := if e % 2 = 0 then m else 2 * m
  let e' := if e % 2 = 0 then e else e - 1
  let v := natSqrt (fxOne * fxOne / m')
  if v * v * m' = fxOne * fxOne then encloseExact false v (-(e' / 2) - 512) else enclose false v (-(e' / 2))

/-- √(m × 2^e). -/
def enclSqrt (m : Nat) (e : Int) : Encl :=
  let m' := if e % 2 = 0 then m else 2 * m
  let e' := if e % 2 = 0 then e else e - 1
  let v := natSqrt (m' * fxOne * fxOne)
  if v * v = m' * fxOne * fxOne then encloseExact false v (e' / 2 - 512) else enclose false v (e' / 2)

/-- sin x, or cos x, by the multiple of π/2 nearest to x (R174). -/
def enclTrig (cosine n : Bool) (m : Nat) (e : Int) : Encl :=
  let x : Int := if n then -(fxOf m e : Int) else fxOf m e
  let qn := (2 * x + (fxPi / 2 : Nat)) / (fxPi : Int)
  let r := x - qn * (fxPi : Int) / 2
  let v := match (qn + if cosine then 1 else 0) % 4 with
    | 0 => fxSin r
    | 1 => fxCos r
    | 2 => -(fxSin r)
    | _ => -(fxCos r)
  encloseFine (decide (v < 0)) v.natAbs

def enclTanh (n : Bool) (m : Nat) (e : Int) : Encl :=
  if magAbove m e 100 then enclose n fxOne 0
  else
    let t := fxExpNeg (2 * fxOf m e)
    encloseFine n ((fxOne - t) * fxOne / (fxOne + t))

def enclSigm (n : Bool) (m : Nat) (e : Int) : Encl :=
  if magAbove m e 200 then (if n then encloseTiny false else enclose false fxOne 0)
  else
    let t := fxExpNeg (fxOf m e)
    enclose false ((if n then t else fxOne) * fxOne / (fxOne + t)) 0

def enclSilu (n : Bool) (m : Nat) (e : Int) : Encl :=
  if n && magAbove m e 200 then encloseTiny true else (enclSigm n m e).times n m e

/-- erf(|x|/√2) for |x| ≤ 15. -/
def fxErfHalf (x : Nat) : Nat :=
  (fxErfSum 700 1 (x * x / fxOne / 2) fxOne fxOne * x / fxOne * fxSqrt2Pi / fxOne).toNat

def enclGelu (n : Bool) (m : Nat) (e : Int) : Encl :=
  if magAbove m e 15 then (if n then encloseTiny true else (enclose false fxOne 0).times false m e)
  else
    let h := fxErfHalf (fxOf m e)
    (enclose false ((if n then fxOne - h else fxOne + h) / 2) 0).times n m e

def enclErf (n : Bool) (m : Nat) (e : Int) : Encl :=
  if magAbove m e 10 then { neg := n, lo := fxOne - 2 ^ 390, hi := fxOne, k := 0 }
  else
    let x := fxOf m e
    enclose n (fxErfSum 700 1 (x * x / fxOne) fxOne fxOne * x / fxOne * fxTwoSqrtPi / fxOne).toNat 0

/-! ### The value within the bound (R175 to R178) -/

/-- m1 × 2^e1 compared with m2 × 2^e2. -/
def magLe (m1 : Nat) (e1 : Int) (m2 : Nat) (e2 : Int) : Bool :=
  let low := min e1 e2
  decide (m1 * 2 ^ (e1 - low).toNat ≤ m2 * 2 ^ (e2 - low).toNat)

/-- The distance of c from each end of the enclosure is at most the bound: n ulps, or 2^-12 of the magnitude, or, with absolute,
2^-22 (R176). The bound is all that is asked of c in the accurate grade (R178); the fast grade returns no subnormal value (R175). -/
def withinBound (acc : Bool) (n : Nat) (absolute : Bool) (x : Encl) (c : Nat) : Bool :=
  match fvOf .f32 c with
  | .nan _ => false
  | .inf _ => false
  | .fin cn m e =>
    let low := min (x.k - 512) (-200)
    let y1 := x.lo * 2 ^ (x.k - 512 - low).toNat
    let y2 := x.hi * 2 ^ (x.k - 512 - low).toNat
    let v := m * 2 ^ (e - low).toNat
    let gap := if cn = x.neg then max (y2 - v) (v - y1) else y2 + v
    let bound :=
      if acc then n * 2 ^ ((max ((floorLog2 m : Int) + e) (-126)) - 23 - low).toNat
      else max (y1 / 4096) (if absolute then 2 ^ (-22 - low).toNat else 0)
    decide (gap ≤ bound) && (acc || decide (m = 0 ∨ 2 ^ 23 ≤ m))

/-- Underflow of an inexact result r (R177): the exact result is tiny after rounding, as its own rounding shows, or the returned value is
subnormal (notes/assumptions/2.md). -/
def sfuTiny (rounded : Flags) (r : Nat) : Flags :=
  (rounded &&& flUF) ||| (let c := r % signBit .f32; if 0 < c ∧ c < 2 ^ 23 then flUF else 0)

/-- The returned value and its flags for a result that is no special value (R173 to R177). -/
def sfuPick (acc : Bool) (n : Nat) (absolute : Bool) (x : Encl) (choice : W32) : W32 × Flags :=
  let out (b : Nat) (fl : Flags) : W32 × Flags := (BitVec.ofNat 32 b, fl)
  if !magLe x.lo (x.k - 512) (2 ^ 24 - 1) 104 then out (withSign .f32 x.neg (infBits .f32)) (flOF ||| flNX)
  else if !acc && magLe (x.hi + 1) (x.k - 512) 1 (-126) then out (withSign .f32 x.neg 0) (flUF ||| flNX)
  else
    let nearest := roundFin .f32 .rn x.neg ((x.lo + x.hi) / 2) (x.k - 512)
    match x.exact with
    | some (m, e) =>
      let ex := roundFin .f32 .rn x.neg m e
      if acc && ex.2 == 0 then out ex.1 0
      else
        let r := if withinBound acc n absolute x choice.toNat then choice.toNat else ex.1
        out r (if r = ex.1 then ex.2 else flNX ||| sfuTiny ex.2 r)
    | none =>
      let r := if withinBound acc n absolute x choice.toNat then choice.toNat else nearest.1
      out r (flNX ||| sfuTiny nearest.2 r)

/-- A subnormal operand of the fast grade is read as a zero of its sign (R175). -/
def flushIn (acc : Bool) (a : Nat) : Nat :=
  if !acc && decide (a % signBit .f32 < 2 ^ 23) then a / signBit .f32 * signBit .f32 else a

/-- The fifteen functions, by their codes of R110. -/
inductive SfuFn where
  | exp2 | exp | log2 | ln | rcp | rsq | sqrt | sin | cos | tanh | sigm | gelu | silu | erf | fdiv
  deriving DecidableEq, Repr

def SfuFn.code (f : SfuFn) : Nat :=
  match f with
  | .exp2 => 0 | .exp => 1 | .log2 => 2 | .ln => 3 | .rcp => 4 | .rsq => 5 | .sqrt => 6 | .sin => 7 | .cos => 8
  | .tanh => 9 | .sigm => 10 | .gelu => 11 | .silu => 12 | .erf => 13 | .fdiv => 14

/-- The bound in ulps of the accurate grade where it is not correctly rounded (R176). -/
def sfuUlps (f : SfuFn) : Nat := match f with | .tanh | .gelu | .erf => 2 | _ => 1
def sfuAbsolute (f : SfuFn) : Bool := match f with | .log2 | .ln | .sin | .cos => true | _ => false

/-- The exact result at a finite nonzero operand that is no special value. -/
def sfuEncl (f : SfuFn) (n : Bool) (m : Nat) (e : Int) : Encl :=
  match f with
  | .exp2 => enclExp2 n m e
  | .exp => enclExp n m e
  | .log2 => enclLog2 m e
  | .ln => enclLn m e
  | .rcp => enclDiv n 1 0 m e
  | .rsq => enclRsq m e
  | .sqrt => enclSqrt m e
  | .sin => enclTrig false n m e
  | .cos => enclTrig true n m e
  | .tanh => enclTanh n m e
  | .sigm => enclSigm n m e
  | .gelu => enclGelu n m e
  | .silu => enclSilu n m e
  | .erf => enclErf n m e
  | .fdiv => encloseExact n m e

/-- The special values of R173 at ±0. -/
def sfuAtZero (f : SfuFn) (n : Bool) : W32 × Flags :=
  let z : W32 := if n then 0x80000000 else 0
  match f with
  | .exp2 | .exp | .cos => (0x3F800000, 0)
  | .log2 | .ln => (0xFF800000, flDZ)
  | .rcp | .rsq => (if n then 0xFF800000 else 0x7F800000, flDZ)
  | .sigm => (0x3F000000, 0)
  | .sqrt | .sin | .tanh | .gelu | .silu | .erf | .fdiv => (z, 0)

/-- The special values of R173 at ±∞. -/
def sfuAtInf (f : SfuFn) (n : Bool) : W32 × Flags :=
  let z : W32 := if n then 0x80000000 else 0
  let bad : W32 × Flags := (0x7FC00000, flNV)
  match f with
  | .exp2 | .exp => (if n then 0 else 0x7F800000, 0)
  | .log2 | .ln | .sqrt => if n then bad else (0x7F800000, 0)
  | .rcp => (z, 0)
  | .rsq => if n then bad else (0, 0)
  | .sin | .cos => bad
  | .tanh | .erf => (if n then 0xBF800000 else 0x3F800000, 0)
  | .sigm => (if n then 0 else 0x3F800000, 0)
  | .gelu | .silu => (if n then 0x80000000 else 0x7F800000, 0)
  | .fdiv => (z, 0)

/-- Finite nonzero operands outside the domain (R173, R174). -/
def sfuDomainError (f : SfuFn) (n : Bool) (m : Nat) (e : Int) : Bool :=
  match f with
  | .log2 | .ln | .rsq | .sqrt => n
  | .sin | .cos => !magLe m e 1 20
  | _ => false

/-- A one-operand function (R173). -/
def sfu1 (acc : Bool) (f : SfuFn) (x : W32) : W32 × Flags :=
  match fvOf .f32 (flushIn acc x.toNat) with
  | .nan sg => (0x7FC00000, if sg then flNV else 0)
  | .inf n => sfuAtInf f n
  | .fin n m e =>
    if m = 0 then sfuAtZero f n
    else if sfuDomainError f n m e then (0x7FC00000, flNV)
    else if (f = .log2 ∨ f = .ln) ∧ x = 0x3F800000 then (0, 0)
    else if acc && f == .rcp then
      (let r := divFin .f32 .rn n 1 0 m e; (BitVec.ofNat 32 r.1, r.2))
    else if acc && f == .sqrt then
      let m' := if e % 2 = 0 then m else 2 * m
      let e' := if e % 2 = 0 then e else e - 1
      let v := natSqrt (m' * 2 ^ 128)
      let r := roundFin .f32 .rn false (2 * v + boolNat (v * v != m' * 2 ^ 128)) (e' / 2 - 65)
      (BitVec.ofNat 32 r.1, r.2)
    else sfuPick acc (sfuUlps f) (sfuAbsolute f) (sfuEncl f n m e) (Config.sfuValue acc f.code x 0)

/-- FDIV (R173, R176): the fast grade returns zero for a finite divisor above 2^126 and a finite nonzero dividend. -/
def sfu2 (acc : Bool) (x y : W32) : W32 × Flags :=
  let a : W32 := BitVec.ofNat 32 (flushIn acc x.toNat)
  let b : W32 := BitVec.ofNat 32 (flushIn acc y.toNat)
  if acc then div32 a b
  else
    match fvOf .f32 a.toNat, fvOf .f32 b.toNat with
    | .fin n m e, .fin k l d =>
      if m = 0 ∨ l = 0 then div32 a b
      else if !magLe l d 1 126 then (BitVec.ofNat 32 (withSign .f32 (n != k) 0), flUF ||| flNX)
      else sfuPick false 1 false (enclDiv (n != k) m e l d) (Config.sfuValue false 14 x y)
    | _, _ => div32 a b

/-- An SFU instruction of one operand (R172). -/
def sfuOp1 (s : State) (w : FM) (acc : Bool) (f : SfuFn) : Result :=
  laneOp s .sfu w.c (fun q => operandsOk q w.c [(.r32, w.sa)] 1 true false) 1
    fun _ _ q l => let r := sfu1 acc f (BitVec.ofNat 32 (valFloat .f32 q l w.sa)); (r.1.toNat, r.2)

def sfuOp2 (s : State) (w : FM) (acc : Bool) : Result :=
  laneOp s .sfu w.c (fun q => operandsOk q w.c [(.r32, w.sa), (.r32, w.sb)] 1 true false) 1
    fun _ _ q l =>
      let r := sfu2 acc (BitVec.ofNat 32 (valFloat .f32 q l w.sa)) (BitVec.ofNat 32 (valFloat .f32 q l w.sb))
      (r.1.toNat, r.2)

def execExp2 (w : FM) (s : State) : Result := sfuOp1 s w false .exp2
def execExp2Acc (w : FM) (s : State) : Result := sfuOp1 s w true .exp2
def execExp (w : FM) (s : State) : Result := sfuOp1 s w false .exp
def execExpAcc (w : FM) (s : State) : Result := sfuOp1 s w true .exp
def execLog2 (w : FM) (s : State) : Result := sfuOp1 s w false .log2
def execLog2Acc (w : FM) (s : State) : Result := sfuOp1 s w true .log2
def execLn (w : FM) (s : State) : Result := sfuOp1 s w false .ln
def execLnAcc (w : FM) (s : State) : Result := sfuOp1 s w true .ln
def execRcp (w : FM) (s : State) : Result := sfuOp1 s w false .rcp
def execRcpAcc (w : FM) (s : State) : Result := sfuOp1 s w true .rcp
def execRsq (w : FM) (s : State) : Result := sfuOp1 s w false .rsq
def execRsqAcc (w : FM) (s : State) : Result := sfuOp1 s w true .rsq
def execSqrt (w : FM) (s : State) : Result := sfuOp1 s w false .sqrt
def execSqrtAcc (w : FM) (s : State) : Result := sfuOp1 s w true .sqrt
def execSin (w : FM) (s : State) : Result := sfuOp1 s w false .sin
def execSinAcc (w : FM) (s : State) : Result := sfuOp1 s w true .sin
def execCos (w : FM) (s : State) : Result := sfuOp1 s w false .cos
def execCosAcc (w : FM) (s : State) : Result := sfuOp1 s w true .cos
def execTanh (w : FM) (s : State) : Result := sfuOp1 s w false .tanh
def execTanhAcc (w : FM) (s : State) : Result := sfuOp1 s w true .tanh
def execSigm (w : FM) (s : State) : Result := sfuOp1 s w false .sigm
def execSigmAcc (w : FM) (s : State) : Result := sfuOp1 s w true .sigm
def execGelu (w : FM) (s : State) : Result := sfuOp1 s w false .gelu
def execGeluAcc (w : FM) (s : State) : Result := sfuOp1 s w true .gelu
def execSilu (w : FM) (s : State) : Result := sfuOp1 s w false .silu
def execSiluAcc (w : FM) (s : State) : Result := sfuOp1 s w true .silu
def execErf (w : FM) (s : State) : Result := sfuOp1 s w false .erf
def execErfAcc (w : FM) (s : State) : Result := sfuOp1 s w true .erf
def execFdiv (w : FM) (s : State) : Result := sfuOp2 s w false
def execFdivAcc (w : FM) (s : State) : Result := sfuOp2 s w true

end Sys2Proof.Machine
end

