-- ==== Sys2Proof/Machine/Row.lean ====
section
/-!
DEFINITION. The row engine (R322 to R336): row statistics, selection, merging and page bounds.
-/
namespace Sys2Proof.Machine

/-! ### Row statistics (R323, R324) -/

def rstatOp (m : BitVec 12) : Nat := (m.extractLsb' 5 2).toNat
def rstatFast (m : BitVec 12) : Bool := m.getLsbD 7
def rstatInt (m : BitVec 12) : Bool := m.getLsbD 8

/-- A fold that gathers flags. -/
def foldFlags (f : W32 → W32 → W32 × Flags) (y : W32) (xs : List W32) : W32 × Flags :=
  xs.foldl (fun (acc : W32 × Flags) x => let r := f acc.1 x; (r.1, acc.2 ||| r.2)) (y, 0)

/-- maximumNumber over a row from −∞; a row of NaNs gives the canonical NaN. -/
def rowMax (xs : List W32) : W32 × Flags :=
  let r := foldFlags (fun y x => let z := fMinMax .f32 true y.toNat x.toNat; (BitVec.ofNat 32 z.1, z.2)) 0xFF800000 xs
  if xs.all fun x => (fvOf .f32 x.toNat).isNaN then (BitVec.ofNat 32 (canonNaN .f32), r.2) else r

/-- The statistic of one row, mu its subtrahend. -/
def rowStat (m : BitVec 12) (mu : W32) (xs : List W32) : W32 × Flags :=
  match rstatOp m, rstatInt m with
  | 0, false => rowMax xs
  | 0, true => (xs.foldl (fun y x => if y.toInt < x.toInt then x else y) 0x80000000, 0)
  | 1, false => foldFlags add32 0 xs
  | 1, true => (xs.foldl (fun y x => y + x) 0, 0)
  | 2, _ => foldFlags (fun y x => fma32 x x y) 0 xs
  | _, _ => foldFlags (fun y x =>
      let t := add32 x (BitVec.ofNat 32 (fNeg .f32 mu.toNat))
      let e := sfu1 (!rstatFast m) .exp t.1
      let z := add32 y e.1
      (z.1, t.2 ||| e.2 ||| z.2)) 0 xs

/-! ### Issue (R322, R323, R332) -/

/-- A ROW instruction enters the queue of 32. -/
def rowEnqueue (s : State) (g : Gang) (q : Squad) (i : Instr) (a : Word) : State :=
  s.enqueue g q (decide (32 ≤ s.queueOcc q.core .rw 0))
    { id := 0, squad := 0, core := 0, launch := 0, cls := .rw, i := i, a := a, lanes := q.existing }

/-- RSTAT reads its subtrahend at issue; the registers of its result are interlocked until it performs (R325). -/
def execRstat (w : FM) (s : State) : Result :=
  let ex := rstatOp w.mod == 3
  collectiveOp .row s
    (fun q => w.c.dk == .vec && dstOk q w.c 2 false false && decide (mtxAcc w < q.accs) &&
      (!ex || match w.sa with | .vec n => runOk n.toNat 2 (vecLimit q) | _ => false))
    fun g q =>
      let n := s.nextId
      let s' := rowEnqueue s g q (.rstat w) 0
      if s'.ops.length = s.ops.length then s'
      else
        let mus := if ex then (List.range 32).map fun l => val64 q l w.sa else []
        (s'.modOp n fun o => { o with idx := mus }).modGang g.id fun y => { y with pend := y.pend ++ [(n, true, w.c.dn.toNat, 2)] }

/-- TOPK, TOPKM and PBOUND. -/
def rowBlockOp (i : Instr) (w : FM) (s : State) : Result :=
  collectiveOp .row s (fun q => srcOk q true .uni64 w.sa) fun g q => rowEnqueue s g q i (val64 q 0 w.sa)

def execTopk (w : FM) (s : State) : Result := rowBlockOp (.topk w) w s
def execTopkm (w : FM) (s : State) : Result := rowBlockOp (.topkm w) w s
def execPbound (w : FM) (s : State) : Result := rowBlockOp (.pbound w) w s

/-! ### Candidates and their order (R328) -/

/-- The floating type of a TY code; INT32 has none. -/
def rowFmt (ty : Nat) : Fmt := if ty = 1 then .bf16 else if ty = 3 then .f16 else .f32
def rowWidth (ty : Nat) : Nat := if ty = 1 ∨ ty = 3 then 2 else 4

structure Cand where
  key : Nat
  idx : Nat
  /-- in list B -/
  second : Bool
  pos : Nat
  deriving DecidableEq, Repr

/-- Key a is greater than key b. -/
def keyAbove (ty a b : Nat) : Bool :=
  if ty = 2 then decide (signedOf 32 b < signedOf 32 a)
  else
    let x := fvOf (rowFmt ty) a
    let y := fvOf (rowFmt ty) b
    if x.isNaN then false else if y.isNaN then true else fvBelow y x

/-- Candidate a ranks above candidate b. -/
def Cand.above (ty : Nat) (a b : Cand) : Bool :=
  if keyAbove ty a.key b.key then true
  else if keyAbove ty b.key a.key then false
  else if a.idx != b.idx then decide (a.idx < b.idx)
  else if a.second != b.second then !a.second
  else decide (a.pos < b.pos)

/-- Puts a candidate in its place of a ranked list. -/
def rankInsert (ty : Nat) (x : Cand) (l : List Cand) : List Cand :=
  match l with
  | [] => [x]
  | y :: rest => if x.above ty y then x :: y :: rest else y :: rankInsert ty x rest

def rankSort (ty : Nat) (l : List Cand) : List Cand := l.foldl (fun acc x => rankInsert ty x acc) []

def keyZero (ty k : Nat) : Bool := if ty = 2 then k == 0 else (fvOf (rowFmt ty) k).isZero
def Cand.present (ty : Nat) (nz : Bool) (x : Cand) : Bool := x.idx != 0xFFFFFFFF && !(nz && keyZero ty x.key)
def keyOut (ty k : Nat) : Nat := if ty != 2 && (fvOf (rowFmt ty) k).isNaN then canonNaN (rowFmt ty) else k
def padKey (ty : Nat) : Nat := if ty = 1 then 0xFF80 else if ty = 2 then 0x80000000 else 0xFF800000

/-- The flags of a selection: a signalling NaN key raises invalid. -/
def candFlags (ty : Nat) (l : List Cand) : Flags :=
  if ty != 2 && l.any fun x => (fvOf (rowFmt ty) x.key).isSNaN then flNV else 0

/-! ### Row blocks (R326, R327) -/

structure RowBlk where
  srca : Nat
  idxa : Nat
  srcb : Nat
  idxb : Nat
  outk : Nat
  outi : Nat
  na : Nat
  nb : Nat
  k : Nat
  ty : Nat
  pstride : Nat
  deriving DecidableEq, Repr

def RowBlk.ofBytes (bs : List Byte) : RowBlk :=
  let f := fieldAt bs
  { srca := f 0 8, idxa := f 8 8, srcb := f 0x10 8, idxb := f 0x18 8, outk := f 0x20 8, outi := f 0x28 8, na := f 0x30 2,
    nb := f 0x32 2, k := f 0x34 2, ty := f 0x36 2 % 4, pstride := f 0x38 4 }

/-- OPMAP with a reason and the offset of a field (R334). -/
def rowFault (o : EngOp) (reason off : Nat) : FaultRec := o.faultRec 7 cOpmap o.a.toNat (BitVec.ofNat 64 (reason + 256 * off))

/-- The checks of a block's fields in ascending order of offset: reason and offset. -/
def rowFieldFault (i : Instr) (b : RowBlk) (bs : List Byte) : Option (Nat × Nat) :=
  let res := fieldAt bs 0x36 2 / 4
  let checks : List (Bool × Nat × Nat) := match i with
    | .topk _ => [(b.srcb != 0, 6, 0x10), (b.idxb != 0, 6, 0x18), (decide (4096 < b.na), 7, 0x30), (b.nb != 0, 6, 0x32),
        (b.k == 0 || decide (4096 < b.k), 7, 0x34), (res != 0, 6, 0x36), (b.ty == 3, 8, 0x36), (b.pstride != 0, 6, 0x38)]
    | .topkm _ => [(decide (4096 < b.na), 7, 0x30), (decide (4096 < b.nb), 7, 0x32),
        (b.k == 0 || decide (4096 < b.k), 7, 0x34), (res != 0, 6, 0x36), (b.ty == 3, 8, 0x36), (b.pstride != 0, 6, 0x38)]
    | _ => [(b.idxb != 0, 6, 0x18), (b.outi != 0, 6, 0x28), (b.na == 0 || decide (4096 < b.na), 7, 0x30),
        (b.nb == 0 || decide (4096 < b.nb), 7, 0x32), (b.k != 0, 6, 0x34), (res != 0, 6, 0x36), (b.ty == 2, 8, 0x36)]
  (checks.find? (·.1)).map (·.2)

/-- An array in the scratchpad or a lateral vault, aligned. -/
def vaultArr (s : State) (o : EngOp) (eng : Nat) (write : Bool) (va n align : Nat) : Except FaultRec (List (Nat × Nat)) :=
  match engObj s o eng vaults (dieOf o.core) write va n align with
  | .ok ps => .ok ps
  | .error f => .error { f with addr := BitVec.ofNat 64 va }

/-- Elements of w bytes of an array. -/
def readElems (mem : Memory) (ps : List (Nat × Nat)) (w n : Nat) : List Nat :=
  let bs := readPieces mem ps
  (List.range n).map fun j => fieldAt bs (w * j) w

/-- The pieces of n bytes at an offset of an array. -/
def subPieces (ps : List (Nat × Nat)) (off n : Nat) : List (Nat × Nat) :=
  match ps with
  | [] => []
  | (h, k) :: rest =>
    if n = 0 then []
    else if k ≤ off then subPieces rest (off - k) n
    else (h + off, min n (k - off)) :: subPieces rest 0 (n - min n (k - off))

/-- Bytes at the homes of an array. -/
def overPieces (ps : List (Nat × Nat)) (bs : List Byte) : List (Nat × List Byte) :=
  (ps.foldl (fun (acc : List (Nat × List Byte) × List Byte) p => (acc.1 ++ [(p.1, acc.2.take p.2)], acc.2.drop p.2)) ([], bs)).1

/-- What an operation writes, and its flags. -/
structure RowOut where
  writes : List (Nat × List Byte) := []
  flags : Flags := 0

/-- The outputs of a selection from candidates (R329): OUTK[j] and OUTI[j] for ascending j, and OUTN last. -/
def selectOut (b : RowBlk) (nz : Bool) (cs : List Cand) (pk pi pn : List (Nat × Nat)) : RowOut :=
  let live := cs.filter fun x => x.present b.ty nz
  let ranked := rankSort b.ty live
  let w := rowWidth b.ty
  let entry (j : Nat) : Nat × Nat := match ranked[j]? with | some x => (keyOut b.ty x.key, x.idx) | none => (padKey b.ty, 0xFFFFFFFF)
  { writes := ((List.range b.k).flatMap fun j =>
        overPieces (subPieces pk (w * j) w) (toBytes w (entry j).1) ++ overPieces (subPieces pi (4 * j) 4) (toBytes 4 (entry j).2)) ++
      overPieces pn (toBytes 4 (min b.k live.length))
    flags := candFlags b.ty live }

/-- The candidates of a list. -/
def candsOf (keys idxs : List Nat) (second : Bool) : List Cand :=
  keys.mapIdx fun i k => { key := k, idx := idxs.getD i i, second := second, pos := i }

/-- TOPK and TOPKM (R329, R330). -/
def topkRun (s : State) (o : EngOp) (b : RowBlk) (merge nz : Bool) : Except FaultRec RowOut := do
  let w := rowWidth b.ty
  let mem := s.view o.core
  let zero (p : Nat) : Except FaultRec Unit :=
    if p = 0 then .error (EngFault.toRec { code := cAperture, reason := 4, addr := 0 } 7 o.pos o.lanes o.pc false) else .ok ()
  let _ ← if merge then zero b.idxa else Except.ok ()
  let _ ← if merge then zero b.idxb else Except.ok ()
  let ka ← vaultArr s o 7 false b.srca (w * b.na) w
  let ia ← if b.idxa = 0 then Except.ok [] else vaultArr s o 7 false b.idxa (4 * b.na) 4
  let kb ← if merge then vaultArr s o 7 false b.srcb (w * b.nb) w else Except.ok []
  let ib ← if merge then vaultArr s o 7 false b.idxb (4 * b.nb) 4 else Except.ok []
  let pk ← vaultArr s o 7 true b.outk (w * b.k) w
  let pi ← vaultArr s o 7 true b.outi (4 * b.k) 4
  let pn ← vaultArr s o 7 true (o.a.toNat + 0x3C) 4 4
  let la := candsOf (readElems mem ka w b.na) (if b.idxa = 0 then [] else readElems mem ia 4 b.na) false
  let lb := if merge then candsOf (readElems mem kb w b.nb) (readElems mem ib 4 b.nb) true else []
  .ok (selectOut b nz (la ++ lb) pk pi pn)

/-- The bound of a page (R331): none once it is NaN, when the products of the dimensions that follow still round and raise their flags. -/
def pageBound (f : Fmt) (q lo hi : List Nat) : Nat × Flags :=
  let terms := List.zipWith (fun (x : Nat) (y : Nat × Nat) => (fvOf f x, fvOf f y.1, fvOf f y.2)) q (List.zip lo hi)
  let r := terms.foldl (fun (acc : Option Nat × Flags) t =>
    let a := (fvMul t.1 t.2.1).1
    let b := (fvMul t.1 t.2.2).1
    if a.isNaN || b.isNaN then (none, acc.2 ||| flNV)
    else
      let m := roundFV .f32 .ru (if fvBelow a b then b else a)
      match acc.1 with
      | none => (none, acc.2 ||| m.2)
      | some s =>
        let z := fAdd .f32 .ru s m.1
        if (fvOf .f32 z.1).isNaN then (none, acc.2 ||| m.2 ||| flNV) else (some z.1, acc.2 ||| m.2 ||| z.2)) (some 0, 0)
  (r.1.getD (canonNaN .f32), r.2)

/-- Two lists of pieces share a byte. -/
def piecesMeet (a b : List (Nat × Nat)) : Bool := a.any fun x => b.any fun y => decide (x.1 < y.1 + y.2 ∧ y.1 < x.1 + x.2)

/-- PBOUND (R331). -/
def pboundRun (s : State) (o : EngOp) (b : RowBlk) : Except FaultRec RowOut := do
  let w := rowWidth b.ty
  let mem := s.view o.core
  let mis : FaultRec := EngFault.toRec { code := cMisaligned, addr := o.a.toNat + 0x38 } 7 o.pos o.lanes o.pc false
  let _ ← if b.pstride % w ≠ 0 then Except.error mis else Except.ok ()
  let pq ← vaultArr s o 7 false b.srca (w * b.nb) w
  let plo ← (List.range b.na).mapM fun p => vaultArr s o 7 false (b.idxa + p * b.pstride) (w * b.nb) w
  let phi ← (List.range b.na).mapM fun p => vaultArr s o 7 false (b.srcb + p * b.pstride) (w * b.nb) w
  let po ← vaultArr s o 7 true b.outk (4 * b.na) 4
  if piecesMeet po pq || plo.any (piecesMeet po) || phi.any (piecesMeet po) then Except.error (rowFault o 9 0x20)
  else
    let q := readElems mem pq w b.nb
    let rs := (List.range b.na).map fun p =>
      pageBound (rowFmt b.ty) q (readElems mem (plo.getD p []) w b.nb) (readElems mem (phi.getD p []) w b.nb)
    Except.ok { writes := overPieces po ((rs.map fun r => toBytes 4 r.1).flatten), flags := rs.foldl (fun f r => f ||| r.2) 0 }

/-- A block operation as a whole. -/
def rowRun (s : State) (o : EngOp) : Except FaultRec (RowBlk × RowOut) := do
  let ps ← vaultArr s o 7 false o.a.toNat 64 64
  let bs := readPieces (s.view o.core) ps
  let b := RowBlk.ofBytes bs
  match rowFieldFault o.i b bs with
  | some (r, off) => Except.error (rowFault o r off)
  | none => do
    let r ← match o.i with
      | .topk w => topkRun s o b false (w.mod.getLsbD 0)
      | .topkm w => topkRun s o b true (w.mod.getLsbD 0)
      | _ => pboundRun s o b
    Except.ok (b, r)

/-- A list that R328 has ranked. -/
def ranked (ty : Nat) (l : List Cand) : Bool := (List.zip l (l.drop 1)).all fun p => !(p.2.above ty p.1)

/-- Occupancy in cycles (R336). -/
def rowBusy (s : State) (o : EngOp) (b : RowBlk) : Nat :=
  let w := rowWidth b.ty
  let list (src idx n : Nat) (second : Bool) : List Cand :=
    match vaultArr s o 7 false src (w * n) w, vaultArr s o 7 false idx (4 * n) 4 with
    | .ok k, .ok i => candsOf (readElems (s.view o.core) k w n) (readElems (s.view o.core) i 4 n) second
    | _, _ => []
  match o.i with
  | .topk _ => 24 + ceilDiv b.na 8 + ceilDiv b.k 16
  | .topkm _ =>
    if ranked b.ty (list b.srca b.idxa b.na false) && ranked b.ty (list b.srcb b.idxb b.nb true)
    then 24 + ceilDiv (b.na + b.nb) 32 + ceilDiv b.k 16 else 24 + ceilDiv (b.na + b.nb) 8 + ceilDiv b.k 16
  | _ => 24 + ceilDiv (b.na * b.nb) 64

/-- RSTAT performs: two rows for every lane that exists and has not exited (R324). -/
def rstatRun (s : State) (o : EngOp) (q : Squad) (w : FM) : State :=
  let stat (l r : Nat) : W32 × Flags :=
    let mu := o.idx.getD l 0
    rowStat w.mod (if r % 2 = 0 then mu.setWidth 32 else mu.extractLsb' 32 32) ((List.range 64).map fun c => q.accElem (mtxAcc w) r c)
  let rs := (lanesOf q.liveLanes).map fun l => (l, stat l (2 * l), stat l (2 * l + 1))
  let s := s.modSquad q.id fun x => rs.foldl (fun x r => putLane x w.c 2 r.1 (r.2.1.1.toNat + 2 ^ 32 * r.2.2.1.toNat)) x
  let s := s.modOp o.id fun x => { x with flags := rs.foldl (fun f r => f ||| r.2.1.2 ||| r.2.2.2) 0 }
  { s with gangs := s.gangs.map fun (g : Gang) =>
      { g with pend := g.pend.filter fun p => p.1 != o.id, ready := if g.hangsOn o.id then s.now else g.ready } }

/-- The MTX operations of a squad before an operation have all retired (R325). -/
def State.mtxBefore (s : State) (o : EngOp) : Bool :=
  s.ops.any fun x => x.squad == o.squad && x.cls == .mx && decide (x.id < o.id)

/-- ROW_OPERATION_START: the head of the core's queue is performed. -/
def execRowOperationStart (core : Nat) (s : State) : Result :=
  match s.ops.find? fun o => o.core == core && o.cls == .rw && !o.started && !o.done with
  | none => .next s
  | some o =>
    let isStat := match o.i with | .rstat _ => true | _ => false
    if !s.mayStart o || isStat && s.mtxBefore o then .next s
    else
      match s.squad? o.squad with
      | none => .next s
      | some q =>
        let run := rowRun s o
        let busy := match o.i, run with
          | .rstat w, _ => if rstatOp w.mod = 3 then 64 else 32
          | _, .ok (b, _) => rowBusy s o b
          | _, .error _ => 24
        let s := s.modCore core fun c => { c with rwqdly := c.rwqdly + (s.now - o.arrived), rwbusy := c.rwbusy + busy }
        let s := s.modOp o.id fun x => { x with started := true, done := true }
        let s := s.wakeEngine 7 fun x => x.core == core
        match o.i with
        | .rstat w => .next (s.accRead o q 7 (accWords (mtxAcc w)) fun s => rstatRun s o q w)
        | _ =>
          match run with
          | .error f => .next (s.opFault o f)
          | .ok (_, r) => .next ((s.modOp o.id fun x => { x with flags := r.flags }).homeWrites o r.writes)

end Sys2Proof.Machine
end

