-- ==== Sys2Proof/Machine/Route.lean ====
section
/-!
DEFINITION. The routing engine (R371 to R383): ROUTE as a program issues it, and its operations: the definition of a shape entry, and
the pass that chooses experts, weighs them, counts them and lists their tokens.
-/
namespace Sys2Proof.Machine

/-! ### The EXP class -/

/-- An EXP instruction whose operands are checked, when its guard holds in some lane: it acts once per gang; a roaming thread has no
counters. -/
def expOp (s : State) (c : Common) (ok : Squad → Bool) (k : Gang → Squad → Lanes → Nat → State) : Result :=
  onGang s fun g q => checked s g q .exp (!q.roam && guardFieldOk q c && ok q)
    (let held := heldLanes c g q
     if held = 0 then s.advance g.id else k g q held (lowest held))

/-- Gangs of a die that wait for room in the queue of a die-level engine present their word again. -/
def State.wakeExp (s : State) (die : Nat) (route : Bool) : State :=
  s.wakeWaits fun g q => g.wait == .queue && g.header.eng == 10 && ((opBits g.word).toNat == 0) == route && dieOf q.core == die

/-- Read latency from a core's mesh position to a home (R72); none for host memory and other chips, whose time the specification
does not fix. -/
def pathRead (_s : State) (core home : Nat) : Option Nat :=
  if homeIsVault home then some (22 + 3 * hops core (homeCore home))
  else if homeIsHost home || homeChip home != 0 then none
  else if homeCore home = core then some 296
  else
    let a := dieOf core
    let b := dieOf (homeCore home)
    let cross := if a = b then 0 else if a + b = 3 then 2 else 1
    some (296 + 2 * (10 + 2 * hops core (homeCore home)) + 144 * cross)

/-! ### ROUTE (R377, R378) -/

/-- An immediate entry number is 0 to 63. -/
def entryOk (x : Src) : Bool := match x with | .imm v => !v.msb && decide (v.toNat < 64) | _ => true

def execRoute (w : FM) (s : State) : Result :=
  let isDef := w.mod.getLsbD 0
  expOp s w.c (fun q => srcOk q true .uni64 w.sa && (!isDef || (srcOk q true .r32 w.sb && entryOk w.sb))) fun g q held l =>
    let va := (val64 q l w.sa).toNat
    let go : State := s.enqueue g q (decide (64 ≤ s.routeOcc (dieOf q.core)))
      { id := 0, squad := 0, core := 0, cls := .xp, i := .route w, a := BitVec.ofNat 64 va, b := (val32 q l w.sb).setWidth 64, lanes := held }
    if isDef then taskObj s g q held va 32 32 (fun a => a != .stack) go
    else taskObj s g q held va 128 128 (fun a => a == .scratch || a == .lateral) go

/-! ### Faults and objects (R373, R381) -/

/-- ROUTE_CONFIG: reason, byte offset of the field, entry. -/
def routeConfig (o : EngOp) (addr : Nat) (reason off ent : Nat) : FaultRec :=
  o.faultRec 0xF1 cRouteConfig addr (BitVec.ofNat 64 (reason + 256 * off + 65536 * (ent % 64)))

/-- An object of an operation: a disallowed aperture, a crossing and a misalignment are reason 3. -/
def routeObj (s : State) (o : EngOp) (al : Allow) (write : Bool) (va n align off ent : Nat) : Except FaultRec (List (Nat × Nat)) :=
  if va % align != 0 then .error (routeConfig o va 3 off ent)
  else
    match taskRange s o.launch (s.opTeam o) (dieOf o.core) al write va n with
    | .ok ps => .ok ps
    | .error e => if e.code = cAperture then .error (routeConfig o va 3 off ent) else .error (e.toRec 0xF1 o.pos o.lanes o.pc write)

/-- A fault at the start of an operation: PAGE_NOT_PRESENT holds it, any other ends its launch (R381, R435). -/
def State.dieOpFault (s : State) (o : EngOp) (f : FaultRec) : State :=
  if f.code = cPageNotPresent ∨ f.code = cUncorrectableMemory then s.opFault o f
  else (s.modOp o.id fun x => { x with done := true }).fatal o.launch o.core o.part [f]

/-! ### Shape entries (R371, R372) -/

/-- Entries of each virtual device that owns core groups of a die: an equal share, rounded down to a power of two. -/
def State.shapeShare (s : State) (d : Nat) : Nat :=
  2 ^ floorLog2 (64 / max 1 (s.fns.filter fun f => f.onDie d).length)

/-- The place of entry n of a function in the die's table. -/
def shapeKey (fn n : Nat) : Nat := 64 * fn + n

def Die.shape? (d : Die) (key : Nat) : Option RouteShape := (d.shapes.find? fun x => x.1 == key).map (·.2)

/-- A definition reads its source image and checks it. -/
def shapeOf (s : State) (o : EngOp) : Except FaultRec (Nat × RouteShape) := do
  let n := o.b.toNat
  let die := dieOf o.core
  let _ ← if s.shapeShare die ≤ n then Except.error (routeConfig o o.a.toNat 2 0 n) else Except.ok ()
  let ps ← routeObj s o {} false o.a.toNat 32 32 0 n
  let f := fieldAt (readPieces (s.view o.core) ps)
  let bad (b : Bool) (reason off : Nat) : Except FaultRec Unit := if b then .error (routeConfig o o.a.toNat reason off n) else .ok ()
  let _ ← bad (decide (8192 ≤ f 0 2)) 0 0
  let _ ← bad (decide (2048 ≤ f 2 2)) 0 2
  let _ ← bad (decide (16 ≤ f 4 4)) 0 4
  let _ ← bad (decide (8192 ≤ f 0x10 2)) 0 0x10
  let _ ← bad (f 0x12 14 != 0) 0 0x12
  let e : RouteShape := { t := f 0 2, e := f 2 2, k := f 4 4, tstride := f 8 4, estride := f 0x0C 4, lcap := f 0x10 2 }
  let _ ← bad (e.t == 0 || decide (4096 < e.t)) 1 0
  let _ ← bad (e.e == 0 || decide (1024 < e.e)) 1 2
  let _ ← bad (e.k == 0 || decide (8 < e.k) || decide (e.e < e.k)) 1 4
  let _ ← bad (e.tstride % 2 != 0) 1 8
  let _ ← bad (e.estride == 0 || e.estride % 2 != 0) 1 0x0C
  let _ ← bad (e.lcap == 0 || e.lcap % 64 != 0 || decide (4096 < e.lcap)) 1 0x10
  .ok (shapeKey (s.spaceIds o.launch).1 n, e)

/-! ### The weights of a token (R374) -/

/-- The engine's exponent unit on a difference d ≤ 0: a value within its error bound, and not above 1 (notes/assumptions/2.md); or, with near, the one
nearest to e^d. -/
def routeExp (near : Bool) (d : Nat) : Nat :=
  let v := fvOf .f32 d
  if v.isZero then 0x3F800000
  else if fvLt v (.fin true 88 0) then 0
  else
    match v with
    | .fin n m e =>
      let x := enclExp n m e
      let at32 (y scale : Nat) : Nat := (roundFin .f32 .rn false (y * scale) (x.k - 533)).1
      let lo := at32 x.hi (2 ^ 21 - 1)
      let hi := min 0x3F800000 (at32 x.lo (2 ^ 21 + 1))
      let c := (Config.expValue (BitVec.ofNat 32 d)).toNat
      if !near && decide (lo ≤ c ∧ c ≤ hi) then c else min hi (at32 ((x.lo + x.hi) / 2) (2 ^ 21))
    | _ => 0

/-- The logits of a token in rank order: expert, and the logit's BF16 bits. -/
def rankLogits (ls : List (Nat × Nat)) : List (Nat × Nat) :=
  let above (a b : Nat × Nat) : Bool :=
    let x := fvOf .bf16 a.2
    let y := fvOf .bf16 b.2
    if x.isNaN then false else if y.isNaN then true else fvLt y x
  sortBy (fun a b => !(above b a)) ls

/-- d of a winner of BF16 logit b below the greatest one, top. -/
def rankGap (top b : Nat) : Nat :=
  if fvEq (fvOf .bf16 b) (fvOf .bf16 top) then 0 else (fAdd .f32 .rn (b * 65536) (fNeg .f32 (top * 65536))).1

/-- e^(b − top) of two BF16 logits, at the exact difference: its ends in units of 2^-732. -/
def exactExp (top b : Nat) : Nat × Nat :=
  match fvOf .bf16 top, fvOf .bf16 b with
  | .fin tn tm te, .fin bn bm be =>
    let low := min te be
    let at0 (n : Bool) (m : Nat) (e : Int) : Int := (if n then -1 else 1) * ((m * 2 ^ (e - low).toNat : Nat) : Int)
    let gap := (at0 tn tm te - at0 bn bm be).natAbs
    if gap = 0 then (2 ^ 732, 2 ^ 732)
    else
      let x := enclExp true gap low
      (x.lo * 2 ^ (x.k + 220).toNat, x.hi * 2 ^ (x.k + 220).toNat)
  | x, y => if fvEq x y then (2 ^ 732, 2 ^ 732) else (0, 0)

/-- Each weight of a winner with d ≥ −88 lies within 4 ulp of the exact softmax over the winners. -/
def softmaxOk (bs : List Nat) (ws : List W32) : Bool :=
  let top := bs.headD 0
  let xs := bs.map (exactExp top)
  let lo := (xs.map (·.1)).sum
  let hi := (xs.map (·.2)).sum
  (bs.zip (xs.zip ws)).all fun p =>
    fvLt (fvOf .f32 (rankGap top p.1)) (.fin true 88 0) ||
      withinBound true 4 false { neg := false, lo := p.2.1.1 * fxOne / hi, hi := p.2.1.2 * fxOne / max 1 lo + 1, k := 0 } p.2.2.toNat

/-- u_i / S of the winners that are no NaN, in rank order. -/
def rankQuotients (near : Bool) (bs : List Nat) : List W32 :=
  let us := bs.map fun b => routeExp near (rankGap (bs.headD 0) b)
  let sum := us.foldl (fun a u => (fAdd .f32 .rn a u).1) 0
  us.map fun u => (div32 (BitVec.ofNat 32 u) (BitVec.ofNat 32 sum)).1

/-- The weights of the winners, in rank order: the quotients of some values of the exponent unit that keep the bound on the weights, else of the
nearest ones (notes/assumptions/2.md). -/
def winWeights (ws : List Nat) : List W32 :=
  let live := ws.filter fun b => !(fvOf .bf16 b).isNaN
  let qs := rankQuotients false live
  let qs := if softmaxOk live qs then qs else rankQuotients true live
  (ws.foldl (fun (acc : List W32 × List W32) b =>
    if (fvOf .bf16 b).isNaN then (acc.1 ++ [0], acc.2)
    else (acc.1 ++ [acc.2.headD 0], acc.2.drop 1)) ([], qs)).1

/-! ### A pass (R373 to R376) -/

/-- What a pass has counted so far: index entries, weights, the picks of each expert (token, rank), NaN tokens, drops. -/
structure PassOut where
  idx : List Nat := []
  wgt : List W32 := []
  lists : List (Nat × List (Nat × Nat)) := []
  nantok : Nat := 0
  drops : Nat := 0
  deriving DecidableEq, Repr

/-- One token's winners, in rank order. -/
def passToken (lcap : Nat) (p : PassOut) (t : Nat) (win : List (Nat × Nat)) : PassOut :=
  let picks := (List.range win.length).map fun r => (r, win.getD r (0, 0))
  let p := { p with
    wgt := p.wgt ++ winWeights (win.map (·.2))
    nantok := p.nantok + boolNat (win.any fun x => (fvOf .bf16 x.2).isNaN) }
  picks.foldl (fun (p : PassOut) x =>
    let (r, e, b) := x
    let mine := Assoc.get [] p.lists e
    if (fvOf .bf16 b).isNaN then { p with idx := p.idx ++ [e + 0x8000] }
    else if mine.length < lcap then { p with idx := p.idx ++ [e], lists := Assoc.set [] p.lists e (mine ++ [(t, r)]) }
    else { p with idx := p.idx ++ [e + 0x4000], drops := p.drops + 1 }) p

/-- The whole pass over the logits. -/
def passRun (z : RouteShape) (logit : Nat → Nat → Nat) : PassOut :=
  (List.range z.t).foldl (fun p t =>
    passToken z.lcap p t ((rankLogits ((List.range z.e).map fun e => (e, logit t e))).take z.k)) {}

/-- What a pass writes, object by object. -/
structure PassPlan where
  writes : List (List (Nat × Nat) × List Byte)
  sync : Option (Nat × Nat)
  /-- where the logits lie, the first piece first -/
  reads : List (Nat × Nat)
  z : RouteShape
  deriving DecidableEq, Repr

/-- The logits, one list of 2-byte elements for each token, and where they lie. -/
def logitRows (s : State) (o : EngOp) (z : RouteShape) (base ent : Nat) : Except FaultRec (List (List Nat) × List (Nat × Nat)) := do
  let mem := s.view o.core
  let _ ← if apertureOf base = .none ∨ apertureOf base ≠ apertureOf (base + (z.t - 1) * z.tstride + (z.e - 1) * z.estride + 1) then
      Except.error (routeConfig o base 3 0 ent) else Except.ok ()
  let read (va n : Nat) : Except FaultRec (List (Nat × Nat)) := routeObj s o {} false va n 2 0 ent
  let rows ← (List.range z.t).mapM fun t =>
    if z.estride ≤ 4096 then do
      let ps ← read (base + t * z.tstride) ((z.e - 1) * z.estride + 2)
      let bs := readPieces mem ps
      Except.ok ((List.range z.e).map fun e => fieldAt bs (e * z.estride) 2, ps)
    else do
      let es ← (List.range z.e).mapM fun e => do
        let ps ← read (base + t * z.tstride + e * z.estride) 2
        Except.ok (ofBytes (readPieces mem ps), ps)
      Except.ok (es.map (·.1), es.flatMap (·.2))
  .ok (rows.map (·.1), rows.flatMap (·.2))

/-- The pad of a list: up to the next multiple of 64. -/
def padTo64 {α : Type} (l : List α) (x : α) : List α := l ++ List.replicate (roundUp l.length 64 - l.length) x

/-- Two ranges of addresses have a byte in common. -/
def rangesMeet (a b : Nat × Nat) : Bool := decide (a.1 < b.1 + b.2 ∧ b.1 < a.1 + a.2 ∧ 0 < a.2 ∧ 0 < b.2)

/-- The reads, the checks and the results of a pass. -/
def passPlan (s : State) (o : EngOp) : Except FaultRec PassPlan := do
  let blk ← routeObj s o { global := false } true o.a.toNat 128 128 0 0
  let bs := readPieces (s.view o.core) blk
  let f := fieldAt bs
  let ent := f 0x40 4 % 64
  let bad (b : Bool) (addr reason off : Nat) : Except FaultRec Unit := if b then .error (routeConfig o addr reason off ent) else .ok ()
  let _ ← bad (decide (64 ≤ f 0x40 4)) o.a.toNat 0 0x40
  let _ ← bad (f 0x4C 52 != 0) o.a.toNat 0 0x4C
  let die := dieOf o.core
  let z ← match (s.die die).shape? (shapeKey (s.spaceIds o.launch).1 ent) with
    | some z => if ent < s.shapeShare die then Except.ok z else Except.error (routeConfig o o.a.toNat 2 0x40 ent)
    | none => Except.error (routeConfig o o.a.toNat 2 0x40 ent)
  let list := f 0x20 8
  let rank := f 0x28 8
  let ntile := f 0x30 8
  let sync := f 0x38 8
  let _ ← bad (rank != 0 && list == 0) o.a.toNat 5 0x28
  let _ ← bad (f 0 8 % 2 != 0) (f 0 8) 3 0
  let logits ← logitRows s o z (f 0 8) ent
  let out (va n align off : Nat) : Except FaultRec (List (Nat × Nat)) := routeObj s o {} true va n align off ent
  let idx ← out (f 8 8) (2 * z.t * z.k) 2 8
  let wgt ← out (f 0x10 8) (4 * z.t * z.k) 4 0x10
  let hist ← out (f 0x18 8) (4 * z.e) 4 0x18
  let lst ← if list = 0 then Except.ok [] else out list (2 * z.e * z.lcap) 128 0x20
  let rnk ← if rank = 0 then Except.ok [] else out rank (z.e * z.lcap) 1 0x28
  let nt ← if ntile = 0 then Except.ok [] else out ntile 8 8 0x30
  let syn ← if sync = 0 then Except.ok [] else routeObj s o {} true sync 16 16 0x38 ent
  let objs := [(o.a.toNat, 128), (f 8 8, 2 * z.t * z.k), (f 0x10 8, 4 * z.t * z.k), (f 0x18 8, 4 * z.e),
    (list, if list = 0 then 0 else 2 * z.e * z.lcap), (rank, if rank = 0 then 0 else z.e * z.lcap), (ntile, if ntile = 0 then 0 else 8)]
  let meet := (List.range 7).any fun i => (List.range i).any fun j => rangesMeet (objs.getD i (0, 0)) (objs.getD j (0, 0))
  let _ ← bad meet o.a.toNat 4 0
  let p := passRun z fun t e => (logits.1.getD t []).getD e 0
  let picks (e : Nat) : List (Nat × Nat) := Assoc.get [] p.lists e
  let counts := (List.range z.e).map fun e => (picks e).length
  let used := (List.range z.e).filter fun e => !(picks e).isEmpty
  let tail (ps : List (Nat × Nat)) (off : Nat) : List (Nat × Nat) :=
    (ps.foldl (fun (acc : List (Nat × Nat) × Nat) p =>
      if acc.2 = 0 then (acc.1 ++ [p], 0)
      else if p.2 ≤ acc.2 then (acc.1, acc.2 - p.2)
      else (acc.1 ++ [(p.1 + acc.2, p.2 - acc.2)], 0)) ([], off)).1
  let lists := if list = 0 then [] else used.map fun e =>
    (tail lst (2 * e * z.lcap), ((padTo64 ((picks e).map (·.1)) 0xFFFF).map (toBytes 2)).flatten)
  let ranks := if rank = 0 then [] else used.map fun e =>
    (tail rnk (e * z.lcap), ((padTo64 ((picks e).map (·.2)) 0xFF).map (toBytes 1)).flatten)
  let tiles := (counts.map fun n => ceilDiv n 64).foldl (· + ·) 0
  .ok { z := z
        reads := logits.2
        sync := (syn.head?.map fun x => (x.1, sync))
        writes := [(idx, (p.idx.map (toBytes 2)).flatten), (wgt, (p.wgt.map fun w => toBytes 4 w.toNat).flatten),
                   (hist, (counts.map (toBytes 4)).flatten)] ++ lists ++ ranks ++
                  (if ntile = 0 then [] else [(nt, toBytes 8 tiles)]) ++ [(tail blk 0x44, toBytes 4 p.nantok ++ toBytes 4 p.drops)] }

/-! ### ROUTE_OPERATION_START -/

/-- Cycle in which an operation arrives at its die's routing engine (R383). -/
def routeArrival (o : EngOp) : Nat := o.arrived + 14 + 2 * hops o.core (dieOf o.core * 96 + 42)

/-- The operation that starts next: one that restarts, or the first of the queue whose squad has none held before it; it starts once the
earlier accesses of its lanes are performed (R379). -/
def State.nextRoute (s : State) (die : Nat) : Option EngOp :=
  let mine := s.ops.filter fun o => o.isRoute && dieOf o.core == die && !o.done
  match mine.find? fun o => o.again && o.held.isNone with
  | some o => some o
  | none =>
    firstBy (fun (a b : EngOp) =>
        let x := routeArrival a
        let y := routeArrival b
        decide (x < y) || (x == y && (decide (a.core < b.core) || (a.core == b.core && decide (a.id < b.id)))))
      (mine.filter fun o => !o.started && decide (routeArrival o ≤ s.now) &&
        !(mine.any fun x => x.squad == o.squad && decide (x.id < o.id) && (x.held.isSome || x.again)))
    |>.filter fun o => !s.opFenced o

/-- ROUTE_OPERATION_START: an operation reads, checks and translates everything, and then performs its writes, which are on their way
home; SYNC gains 1 after them (R378, R379). -/
def execRouteOperationStart (die : Nat) (s : State) : Result :=
  match s.nextRoute die with
  | none => .next s
  | some o =>
    let wait := if o.again then 0 else s.now - routeArrival o
    let s := s.modDie die fun d => { d with rtqdly := d.rtqdly + wait }
    let s := s.modOp o.id fun x => { x with started := true, again := false }
    let s := s.wakeExp die true
    let pos := die * 96 + 42
    let busy (s : State) (home n : Nat) : State :=
      match pathRead s pos home with
      | some p => s.modDie die fun d => { d with rtbusy := d.rtbusy + n + p }
      | none => let (r, s) := s.draw; s.modDie die fun d => { d with rtbusy := d.rtbusy + n + r.toNat }
    match o.i with
    | .route w =>
      if w.mod.getLsbD 0 then
        match shapeOf s o with
        | .error f => .next (s.dieOpFault o f)
        | .ok (key, e) =>
          let at0 := match routeObj s o {} false o.a.toNat 32 32 0 0 with | .ok ps => ps | .error _ => []
          let home := (at0.headD (0, 0)).1
          let s := (s.eccFix at0).modDie die fun d => { d with shapes := (d.shapes.filter fun x => x.1 != key) ++ [(key, e)] }
          .next ((busy s home 20).modOp o.id fun x => { x with done := true })
      else
        match passPlan s o with
        | .error f => .next (s.dieOpFault o f)
        | .ok p =>
          let s := s.eccFix p.reads
          let s := p.writes.foldl (fun (s : State) x => s.engWritePieces o.core o.squad o.launch (some o.id) x.1 x.2) s
          let s := match p.sync with
            | some (home, va) =>
              (s.sendUpd { id := 0, kind := .add 1, home := home, va := BitVec.ofNat 64 va, team := o.team, core := o.core,
                           op := some o.id, launch := o.launch }).modOp o.id fun x => { x with upds := 1 }
            | none => s
          let s := busy s (p.reads.headD (0, 0)).1 (36 + p.z.t * ceilDiv p.z.e 128 + ceilDiv (p.z.t * p.z.k) 32 + ceilDiv p.z.e 64)
          .next (s.modOp o.id fun x => { x with done := true })
    | _ => .next s

end Sys2Proof.Machine
end

