-- ==== Sys2Proof/Machine/Combine.lean ====
section
/-!
DEFINITION. The combine buffer (R384 to R408): CBOPEN, CBPUT, CBCLOSE and CBSTAT as a program issues them, and the buffer's events: the
opening of a context, the admission of rows, timeouts, releases, readmissions, and the closing of a context.
-/
namespace Sys2Proof.Machine

/-! ### The instructions (R399, R400, R402) -/

/-- A context operand: a uniform register, or an immediate from 0 to 7. -/
def ctxOk (q : Squad) (x : Src) : Bool :=
  srcOk q true .r32 x && match x with | .imm v => !v.msb && decide (v.toNat < 8) | _ => true
/-- A tag operand: a uniform register, or an immediate that is not negative. -/
def tagOk (q : Squad) (x : Src) : Bool := srcOk q true .r32 x && match x with | .imm v => !v.msb | _ => true

def vaultOnly (a : Aperture) : Bool := a == .scratch || a == .lateral

/-- The queue of the die's buffer is full (R386). -/
def State.cbFull (s : State) (q : Squad) : Bool := decide (64 ≤ s.cbOcc (dieOf q.core))

def execCbopen (w : FM) (s : State) : Result :=
  expOp s w.c (fun q => srcOk q true .uni64 w.sa && ctxOk q w.sb) fun g q held l =>
    let va := (val64 q l w.sa).toNat
    taskObj s g q held va 128 128 vaultOnly
      (s.enqueue g q (s.cbFull q) { id := 0, squad := 0, core := 0, cls := .xp, i := .cbopen w, a := BitVec.ofNat 64 va,
                                    b := (val32 q l w.sb).setWidth 64, lanes := held })

/-- CBPUT: the gang waits at it until the buffer answers (R392). -/
def execCbput (w : FM) (s : State) : Result :=
  expOp s w.c (fun q => srcOk q true .uni64 w.sa && tagOk q w.sb) fun g q held l =>
    let va := (val64 q l w.sa).toNat
    taskObj s g q held va 16 (if w.mod.getLsbD 3 then 128 else 16) vaultOnly
      (if s.cbFull q then s.stall g.id .queue
       else if 65535 ≤ q.cnt.xp then s.stall g.id (.limit .xp)
       else (s.enterOp g q { id := 0, squad := 0, core := 0, cls := .xp, i := .cbput w, a := BitVec.ofNat 64 va,
                             b := (val32 q l w.sb).setWidth 64, lanes := held }).hold g.id (.cbput false))

def execCbclose (w : FM) (s : State) : Result :=
  expOp s w.c (fun q => ctxOk q w.sa) fun g q held l =>
    s.enqueue g q (s.cbFull q) { id := 0, squad := 0, core := 0, cls := .xp, i := .cbclose w, b := (val32 q l w.sa).setWidth 64, lanes := held }

/-- The register that a CBSTAT writes. -/
def cbstatWrites (c : Common) : List (Bool × Nat × Nat) :=
  if c.nw then [] else match c.dk with | .vec => [(true, c.dn.toNat, 1)] | .uni => [(false, c.dn.toNat, 1)] | _ => []

/-- CBSTAT: the gang waits for its value as for a remote load (R402): it blocks, past its word. -/
def execCbstat (w : FM) (s : State) : Result :=
  expOp s w.c (fun q => ctxOk q w.sa && destNamed w.c && dstOk q w.c 1 true false) fun g q _ l =>
    let (n, s) := s.fresh
    let x : Cbstat := { id := n, sel := (w.mod.extractLsb' 0 3).toNat, ctx := (val32 q l w.sa).toNat, lanes := g.lanes, pc := g.pc,
                        pos := g.pos, word := g.word, since := s.now }
    (s.modGang g.id fun y => { y with
      stats := y.stats ++ [x], block := y.block ++ [n], pend := y.pend ++ (cbstatWrites w.c).map fun r => (n, r.1, r.2.1, r.2.2) }).advance g.id

/-! ### Contexts (R384) -/

/-- Contexts of each virtual device that owns core groups of a die. -/
def State.ctxShare (s : State) (d : Nat) : Nat := 2 ^ floorLog2 (8 / max 1 (s.fns.filter fun f => f.onDie d).length)

/-- The place of context n of a function among those of a die. -/
def ctxKey (fn n : Nat) : Nat := 8 * fn + n

def Die.ctx (d : Die) (k : Nat) : CbCtx := Assoc.get {} d.ctxs k
def State.modCtx (s : State) (die k : Nat) (f : CbCtx → CbCtx) : State :=
  s.modDie die fun d => { d with ctxs := Assoc.set {} d.ctxs k (f (d.ctx k)) }

/-- The context that an operation names: for a CBPUT its MOD, else its operand. -/
def EngOp.ctxNum (o : EngOp) : Nat := match o.i with | .cbput w => (w.mod.extractLsb' 0 3).toNat | _ => o.b.toNat
def State.opCtx (s : State) (o : EngOp) : Nat := ctxKey (s.spaceIds o.launch).1 o.ctxNum

/-- Bytes of an element of the arrival type and of the output type. -/
def CbCtx.aw (c : CbCtx) : Nat := if c.aty = 0 then 2 else 4
def CbCtx.ow (c : CbCtx) : Nat := if c.oty = 1 then 4 else 2
def CbCtx.rowBytes (c : CbCtx) : Nat := c.d * c.aw
def CbCtx.ringEntry (c : CbCtx) : Nat := c.rowBytes + 128
def CbCtx.tok (c : CbCtx) (t : Nat) : Token := c.toks.getD t { expect := 0, released := true, reported := true }
def CbCtx.modTok (c : CbCtx) (t : Nat) (f : Token → Token) : CbCtx := { c with toks := c.toks.mapIdx fun k x => if k = t then f x else x }
def CbCtx.slotsUsed (c : CbCtx) : Nat := (c.toks.filter fun x => x.slot.isSome).length
def CbCtx.slotFree (c : CbCtx) : Bool := decide (c.slotsUsed < c.nslot)
/-- Index and weight of rank r of token t in the snapshot (R388). -/
def CbCtx.index (c : CbCtx) (t r : Nat) : Nat := (c.snapI.getD (t * c.k + r) 0).toNat
def CbCtx.weight (c : CbCtx) (t r : Nat) : W32 := c.snapW.getD (t * c.k + r) 0
def CbCtx.expert (c : CbCtx) (t r : Nat) : Nat := c.index t r % 1024

/-- The ranks of a set of ranks. -/
def ranksOf (b : BitVec 8) : List Nat := (List.range 8).filter fun r => b.getLsbD r
def rankBit (r : Nat) : BitVec 8 := BitVec.ofNat 8 (2 ^ r)

/-- A token is complete when its bitmap holds every expected rank (R389). -/
def Token.complete (x : Token) : Bool :=
  x.expect == 0 || match x.slot with | some z => x.expect &&& ~~~z.bits == 0 | none => false

/-! ### Memory of a context (R404) -/

/-- Where an address of an open context leads now: a home; the copy of a saved team's scratchpad; or a window that is no more. -/
inductive CbSpot where
  | home (h : Nat)
  | frame (va : Nat)
  | gone
  deriving DecidableEq, Repr

def cbSpot (s : State) (c : CbCtx) (va : Nat) : CbSpot :=
  if apertureOf va = .scratch then
    match s.team? c.team with
    | none => .gone
    | some t =>
      if t.retired then .gone
      else match t.saved with
        | some frame => .frame (frame.toNat + 0x700 + (va - scrBase))
        | none => .home (scratchSpot t (va - scrBase)).1
  else .home (homeAt c.trans va)

/-- A range in parts that cross no 256-byte boundary: addresses and lengths. -/
def spans256 (va n fuel : Nat) : List (Nat × Nat) :=
  match fuel with
  | 0 => []
  | k + 1 =>
    if n = 0 then []
    else
      let here := min n (256 - va % 256)
      (va, here) :: spans256 (va + here) (n - here) k

/-- The buffer writes bytes for a context: posted, and counted to the context's release; a saved team's part as an update of its copy. -/
def State.cbWrite (s : State) (c : CbCtx) (va : Nat) (bs : List Byte) : State :=
  ((spans256 va bs.length (bs.length / 256 + 2)).foldl (fun (acc : State × List Byte) p =>
    let here := acc.2.take p.2
    let s := match cbSpot acc.1 c p.1 with
      | .home h => acc.1.engWrite 384 0 c.launch (some c.tag) h here
      | .frame _ => acc.1.sendUpd { id := 0, kind := .write here, home := 0, va := BitVec.ofNat 64 p.1, asc := c.asc, fn := c.fn,
                                    team := c.team, core := 384, op := some c.tag, launch := c.launch }
      | .gone => acc.1
    (s, acc.2.drop p.2)) (s, bs)).1

/-- The buffer reads bytes for a context; what no longer stands anywhere, or stands in error, is a free value. -/
def State.cbRead (s : State) (c : CbCtx) (va n : Nat) : State × List Byte :=
  let m := s.view 384
  let (f, a) := ((s.fn? c.fn).getD { id := c.fn }, (s.asc? c.fn c.asc).getD { id := c.asc })
  (spans256 va n (n / 256 + 2)).foldl (fun (acc : State × List Byte) p =>
    let free : State × List Byte :=
      (List.range p.2).foldl (fun x _ => let (w, s) := x.1.draw; (s, x.2 ++ [w.setWidth 8])) acc
    match cbSpot acc.1 c p.1 with
    | .home h => if (acc.1.eccDouble h p.2).isSome then free else (acc.1.eccCorrect h p.2, acc.2 ++ m.readBytes h p.2)
    | .frame v => (match pageNow s f a v with | .ok h _ => (acc.1, acc.2 ++ m.readBytes h p.2) | _ => free)
    | .gone => free) (s, [])

/-- The word with a double-bit error that such a read meets (R435); it ends the launch of the context. -/
def State.cbErr (s : State) (c : CbCtx) (va n : Nat) : Option Nat :=
  s.eccPieces ((spans256 va n (n / 256 + 2)).filterMap fun p => match cbSpot s c p.1 with | .home h => some (h, p.2) | _ => none)

/-- The end of the launches that use the word, if there is one. -/
def State.cbLost (s : State) (c : CbCtx) (word : Option Nat) : State :=
  match word with | some w => s.eccFatal c.launch 0xFFFF 0 0xF2 0 0 0 w | none => s

/-! ### Logs (R396) -/

/-- Writes entry COUNT mod LOGN of a log at an address, and the header with COUNT + 1. -/
def State.logEntry (s : State) (c : CbCtx) (log count : Nat) (lo : List Byte) (die : Nat) : State :=
  if log = 0 then s
  else
    let s := s.cbWrite c (log + 16 + 16 * (count % max 1 c.logn)) (lo ++ toBytes 8 (s.clock die))
    s.cbWrite c log (toBytes 8 (count + 1) ++ toBytes 8 0)

/-- An entry of the late log. -/
def State.lateEntry (s : State) (die key token rank reason : Nat) : State :=
  let c := (s.die die).ctx key
  let expert := if reason = 3 ∨ c.t ≤ token ∨ c.k ≤ rank then 0xFFFF else c.expert token rank
  let s := s.logEntry c c.llog c.llogged (toBytes 2 token ++ toBytes 1 rank ++ toBytes 1 reason ++ toBytes 2 expert ++ toBytes 2 0) die
  s.modCtx die key fun c => { c with llogged := c.llogged + 1 }

/-- discard(x) of R389. -/
def State.discardRow (s : State) (die key token rank reason : Nat) : State :=
  (s.lateEntry die key token rank reason).modCtx die key fun c => { c with late := c.late + 1 }

/-! ### Faults (R406) -/

/-- COMBINE_CONFIG or COMBINE_OVERFLOW. -/
def cbRec (o : EngOp) (code addr reason off ctx token : Nat) : FaultRec :=
  o.faultRec 0xF2 code addr (BitVec.ofNat 64 (reason + 256 * off + 65536 * (ctx % 8) + 2 ^ 32 * token))

/-! ### The combine (R393) -/

/-- Element c of a row of bytes, widened exactly to FP32. -/
def widenAt (aty : Nat) (row : List Byte) (c : Nat) : W32 :=
  if aty = 0 then BitVec.ofNat 32 (fieldAt row (2 * c) 2 * 65536) else BitVec.ofNat 32 (fieldAt row (4 * c) 4)

/-- The order of the sum: ascending expert, then ascending rank. -/
def CbCtx.sumOrder (c : CbCtx) (t : Nat) (ranks : List Nat) : List Nat :=
  sortBy (fun a b => decide (c.expert t a < c.expert t b) || (c.expert t a == c.expert t b && decide (a ≤ b))) ranks

/-- The weights that apply to the ranks of a sum. -/
def CbCtx.sumWeights (c : CbCtx) (t : Nat) (missing : Bool) (order : List Nat) : List W32 :=
  let ws := order.map (c.weight t)
  if c.policy = 1 ∧ missing then
    let sum := ws.foldl (fun a w => (add32 a w).1) 0
    ws.map fun w => if sum = 0 ∨ sum = 0x80000000 then 0 else (div32 w sum).1
  else ws

/-- The output row from weighted rows, in order. -/
def combineRow (aty oty d : Nat) (terms : List (W32 × List Byte)) : List Byte :=
  ((List.range d).map fun c =>
    let acc := terms.foldl (fun (acc : W32) x => (fma32 x.1 (widenAt aty x.2 c) acc).1) 0
    match oty with
    | 1 => toBytes 4 acc.toNat
    | 0 => toBytes 2 (fConvert .f32 .bf16 .rn acc.toNat).1
    | _ => toBytes 2 (fConvert .f32 .f16 .rn acc.toNat).1).flatten

/-! ### A release (R394, R395, R397) -/

/-- The rows that become reportable are reported: under ORDER = TOKEN in token order, with one update for each. -/
def State.reportRows (s : State) (die key t fuel : Nat) : State :=
  match fuel with
  | 0 => s
  | n + 1 =>
    let c := (s.die die).ctx key
    let x := c.tok t
    if decide (c.t ≤ t) || !x.released then s
    else
      let s := if x.reported then s
        else
          let s := s.modCtx die key fun c => c.modTok t fun y => { y with reported := true }
          if c.sync = 0 then s
          else s.sendUpd { id := 0, kind := .add (c.d * c.ow), home := c.syncHome, va := BitVec.ofNat 64 c.sync, asc := c.asc, fn := c.fn,
                           team := c.team, core := 384, op := some c.tag, launch := c.launch }
      if c.order then s.reportRows die key (t + 1) n else s

/-- The first token whose row has not been reported. -/
def CbCtx.nextReport (c : CbCtx) : Nat := (c.toks.findIdx? fun x => !x.reported).getD c.t

/-- A release of token t: the missing-log entry with its cause, if a rank is missing; the output row; the slot; the report. -/
def State.releaseToken (s : State) (die key t cause : Nat) : State :=
  let c := (s.die die).ctx key
  let x := c.tok t
  let bits := match x.slot with | some z => z.bits &&& x.expect | none => 0
  let rows := match x.slot with | some z => z.rows | none => []
  let missing := x.expect &&& ~~~bits != 0
  let s := if missing then
      (s.logEntry c c.mlog c.miss (toBytes 2 t ++ toBytes 1 x.expect.toNat ++ toBytes 1 bits.toNat ++ toBytes 1 c.policy ++
        toBytes 1 cause ++ toBytes 2 0) die).modCtx die key fun c => { c with miss := c.miss + 1 }
    else s
  let useFall := missing && c.policy == 2
  let lost := if useFall then s.cbErr c (c.fbk + t * c.fstride) c.rowBytes else none
  let (s, fall) := if useFall then s.cbRead c (c.fbk + t * c.fstride) c.rowBytes else (s, [])
  let order := c.sumOrder t (ranksOf (if c.policy = 2 then x.expect else bits))
  let ws := c.sumWeights t missing order
  let terms := (ws.zip order).map fun p => (p.1, if bits.getLsbD p.2 then Assoc.get [] rows p.2 else fall)
  let s := s.cbWrite c (c.out + t * c.ostride) (combineRow c.aty c.oty c.d terms)
  let s := s.modCtx die key fun c =>
    { (c.modTok t fun y => { y with released := true, slot := none }) with done := c.done + 1 }
  let s := s.modDie die fun d => { d with cbrel := d.cbrel + 1 }
  (if c.order then s.reportRows die key ((s.die die).ctx key).nextReport c.t else s.reportRows die key t 1).cbLost c lost

/-! ### The queue (R386) -/

/-- The operation that stands at the head of a die's queue: a CBOPEN that restarts, or the first to arrive; an operation of a squad
follows the squad's held ones. A CBOPEN or a CBPUT, which reads, starts once the earlier accesses of its lanes are performed (R403). -/
def State.headCb (s : State) (die : Nat) : Option EngOp :=
  let mine := s.ops.filter fun o => o.isCb && dieOf o.core == die && !o.done
  match mine.find? fun o => o.again && o.held.isNone with
  | some o => some o
  | none =>
    firstBy (fun (a b : EngOp) =>
        let x := cbArrival a
        let y := cbArrival b
        decide (x < y) || (x == y && (decide (a.core < b.core) || (a.core == b.core && decide (a.id < b.id)))))
      (mine.filter fun o => !o.started && decide (cbArrival o ≤ s.now) &&
        !(mine.any fun x => x.squad == o.squad && decide (x.id < o.id) && (x.held.isSome || x.again)))
    |>.filter fun o => (match o.i with | .cbclose _ => true | _ => false) || !s.opFenced o

/-- An operation leaves the queue: its delay is counted, and gangs that the full queue held present their word again. -/
def State.startCb (s : State) (die : Nat) (o : EngOp) : State :=
  let wait := if o.again then 0 else s.now - cbArrival o
  let held := match (s.die die).heldPut with | some (n, t) => if n = o.id then s.now - t else 0 | none => 0
  let s := s.modDie die fun d => { d with
    cbqdly := d.cbqdly + wait + held
    heldPut := match d.heldPut with | some (n, t) => if n = o.id then none else some (n, t) | none => none }
  (s.modOp o.id fun x => { x with started := true, again := false }).wakeExp die false

/-! ### Opening: CONTEXT_OPEN (R387, R388) -/

/-- An object as the block names it: address, bytes, alignment, the apertures it may lie in, whether it is written, byte offset of its
field. A strided object is one of these for each row. -/
structure CbObj where
  va : Nat
  n : Nat
  align : Nat
  al : Allow := {}
  write : Bool := false
  off : Nat
  deriving DecidableEq, Repr

/-- The checks of an object that need no translation: its aperture, its alignment, and its boundaries. -/
def CbObj.ok (s : State) (o : EngOp) (x : CbObj) : Bool :=
  x.va % x.align == 0 && apertureOf x.va == apertureOf (x.va + x.n - 1) &&
  match apertureOf x.va with
  | .global => x.al.global
  | .scratch => x.al.scratch && (match s.team? o.team with | some t => decide (x.va - scrBase + x.n ≤ t.scratch) | none => false)
  | .lateral => x.al.lateral && (rangePieces x.va x.n (x.n / 4096 + 2)).all fun p =>
      match latSpot s o.launch (dieOf o.core) (p.1 + p.2 - 1 - latBase) with | .vault _ _ => true | _ => false
  | _ => false

/-- The objects of a block (R387). -/
def CbCtx.objects (c : CbCtx) (idx wgt : Nat) : List CbObj :=
  let row (base stride n align off : Nat) (write : Bool) : List CbObj :=
    (List.range c.t).map fun t => { va := base + t * stride, n := n, align := align, write := write, off := off }
  let log (va off : Nat) : List CbObj :=
    if va = 0 then [] else [{ va := va, n := 16 + 16 * c.logn, align := 16, write := true, off := off }]
  [{ va := idx, n := 2 * c.t * c.k, align := 2, off := 0x00 }, { va := wgt, n := 4 * c.t * c.k, align := 4, off := 0x08 }] ++
  row c.out c.ostride (c.d * c.ow) 16 0x10 true ++
  (if c.policy = 2 then row c.fbk c.fstride c.rowBytes c.aw 0x18 false else []) ++
  [{ va := c.ring, n := c.ringn * c.ringEntry, align := 128, al := { scratch := false, lateral := false }, write := true, off := 0x20 }] ++
  log c.mlog 0x30 ++ log c.llog 0x38

/-- The words that R260 allows for SYNC. -/
def CbCtx.syncObj (c : CbCtx) : CbObj := { va := c.sync, n := 16, align := 16, al := { global := false }, write := true, off := 0x28 }

/-- The context that a block describes, or the reason and offset of the first field that fails. -/
def cbFields (f : Nat → Nat → Nat) : Except (Nat × Nat) CbCtx :=
  let w := f 0x44 4
  let c : CbCtx :=
    { out := f 0x10 8, fbk := f 0x18 8, ring := f 0x20 8, sync := f 0x28 8, mlog := f 0x30 8, llog := f 0x38 8
      t := f 0x40 2, d := f 0x42 2, k := bitsOf w 3 0, aty := bitsOf w 5 4, oty := bitsOf w 7 6, policy := bitsOf w 9 8, order := bitOf w 10
      timeout := f 0x48 4, blockT := f 0x4C 4, ostride := f 0x50 4, fstride := f 0x54 4, nslot := f 0x58 2, ringn := f 0x5A 2
      logn := f 0x5C 2 }
  let bad (b : Bool) (reason off : Nat) : Option (Nat × Nat) := if b then some (reason, off) else none
  let e := (((((((((((((((bad (bitsOf w 31 11 != 0) 0 0x44
    ).or (bad (f 0x5E 34 != 0) 0 0x5E)
    ).or (bad (c.t == 0 || decide (4096 < c.t)) 1 0x40)
    ).or (bad (c.d % 256 != 0 || c.d == 0 || decide (16384 < c.d)) 1 0x42)
    ).or (bad (c.k == 0 || decide (8 < c.k)) 1 0x44)
    ).or (bad (decide (1 < c.aty)) 1 0x44)
    ).or (bad (c.oty == 3) 1 0x44)
    ).or (bad ((c.policy == 2) != (c.fbk != 0)) 1 0x18)
    ).or (bad (c.timeout == 0) 1 0x48)
    ).or (bad (c.blockT == 0) 1 0x4C)
    ).or (bad (c.ostride % 16 != 0 || decide (c.ostride < c.d * c.ow)) 1 0x50)
    ).or (bad (c.fstride % c.aw != 0 || (c.policy != 2 && c.fstride != 0)) 1 0x54)
    ).or (bad (c.nslot == 0) 1 0x58)
    ).or (bad (c.ringn == 0) 1 0x5A)
    ).or (bad (c.logn == 0) 1 0x5C))
  match e with | some x => .error x | none => .ok c

/-- The lowest place of n bytes in a function's slot share of a die (R385). -/
def State.slotRoom (s : State) (die fn n : Nat) : Option Nat :=
  let share := match s.fn? fn with | some f => f.share * 2 ^ 20 | none => 0
  let used := ((s.die die).ctxs.filter fun c => c.2.isOpen && c.1 / 8 == fn).map fun c => (c.2.regionAt, c.2.region)
  ((0 :: used.map fun x => x.1 + x.2).filter fun a => decide (a + n ≤ share) && !(used.any fun x => rangesMeet x (a, n))).min?

/-- Where the index and weight tensors of a block lie, whose entries a CBOPEN reads. -/
def cbReads (s : State) (o : EngOp) (c : CbCtx) : List (Nat × Nat) :=
  let get (va n : Nat) : List (Nat × Nat) :=
    match taskRange s o.launch (s.opTeam o) (dieOf o.core) {} false va n with | .ok ps => ps | .error _ => []
  let f := fieldAt (readPieces (s.view o.core) (get o.a.toNat 128))
  get (f 0 8) (2 * c.t * c.k) ++ get (f 8 8) (4 * c.t * c.k)

/-- What a CBOPEN reads, checks, translates and allocates. -/
def cbPlan (s : State) (o : EngOp) : Except FaultRec CbCtx := do
  let die := dieOf o.core
  let n := o.ctxNum
  let bad (b : Bool) (addr reason off : Nat) : Except FaultRec Unit :=
    if b then .error (cbRec o cCombineConfig addr reason off n 0) else .ok ()
  let va := o.a.toNat
  let _ ← bad (decide (s.ctxShare die ≤ n) || ((s.die die).ctx (s.opCtx o)).isOpen) va 2 0
  let blk ← match taskRange s o.launch (s.opTeam o) die { global := false } false va 128 with
    | .ok ps => Except.ok ps
    | .error e => if e.code = cAperture then Except.error (cbRec o cCombineConfig va 3 0 n 0) else Except.error (e.toRec 0xF2 o.pos o.lanes o.pc false)
  let mem := s.view o.core
  let f := fieldAt (readPieces mem blk)
  let c ← match cbFields f with
    | .error (reason, off) => Except.error (cbRec o cCombineConfig va reason off n 0)
    | .ok c => Except.ok c
  let objs := c.objects (f 0 8) (f 8 8)
  let all := objs ++ (if c.sync = 0 then [] else [c.syncObj])
  let _ ← match all.find? fun x => !(x.ok s o) with
    | some x => bad true x.va 3 x.off
    | none => Except.ok ()
  let blkObj : CbObj := { va := va, n := 128, align := 128, off := 0 }
  let meets (x : CbObj) (i : Nat) : Bool :=
    x.write && ((blkObj :: objs).mapIdx fun j y => decide (j ≠ i + 1) && rangesMeet (x.va, x.n) (y.va, y.n)).any id
  let _ ← match (objs.mapIdx fun i x => (x, meets x i)).find? fun x => x.2 with
    | some x => bad true x.1.va 4 x.1.off
    | none => Except.ok ()
  let trans ← all.foldlM (fun (m : List (Nat × Nat)) x =>
    match taskRange s o.launch (s.opTeam o) die {} x.write x.va x.n with
    | .ok ps => Except.ok (if apertureOf x.va = .scratch then m else joinPages m (pagesOf x.va ps))
    | .error e =>
      if e.code = cAperture then Except.error (cbRec o cCombineConfig x.va 3 x.off n 0)
      else Except.error (e.toRec 0xF2 o.pos o.lanes o.pc x.write)) []
  let region := roundUp (64 * c.t + c.nslot * (128 + c.k * c.rowBytes)) 4096
  let fn := (s.spaceIds o.launch).1
  let at0 ← match s.slotRoom die fn region with
    | some a => Except.ok a
    | none => Except.error (cbRec o cCombineConfig va 5 0x58 n 0)
  let table (a w : Nat) : List Nat :=
    match taskRange s o.launch (s.opTeam o) die {} false a (w * c.t * c.k) with
    | .ok ps => let bs := readPieces mem ps; (List.range (c.t * c.k)).map fun k => fieldAt bs (w * k) w
    | .error _ => []
  let idx := table (f 0 8) 2
  .ok { c with
    isOpen := true, launch := o.launch, fn := fn, asc := (s.spaceIds o.launch).2, team := o.team, block := va
    snapI := idx.map (BitVec.ofNat 16), snapW := (table (f 8 8) 4).map (BitVec.ofNat 32)
    toks := (List.range c.t).map fun t =>
      { expect := (((List.range c.k).filter fun r => idx.getD (t * c.k + r) 0 / 0x4000 == 0).map rankBit).foldl (· ||| ·) 0 }
    region := region, regionAt := at0, trans := trans
    syncHome := if c.sync = 0 then 0 else match taskRange s o.launch (s.opTeam o) die {} true c.sync 16 with
      | .ok ((h, _) :: _) => h
      | _ => 0 }

/-- CONTEXT_OPEN: the CBOPEN at the head of the queue starts. -/
def execContextOpen (die : Nat) (s : State) : Result :=
  match s.headCb die with
  | none => .next s
  | some o =>
    match o.i with
    | .cbopen _ =>
      let s := s.startCb die o
      (match cbPlan s o with
       | .error f => .next (s.dieOpFault o f)
       | .ok c =>
         let (tag, s) := (s.eccFix (cbReads s o c)).fresh
         let c := { c with tag := tag }
         let s := s.modCtx die (s.opCtx o) fun _ => c
         let zero (va : Nat) (s : State) : State := if va = 0 then s else s.cbWrite c va (toBytes 16 0)
         .next ((zero c.llog (zero c.mlog s)).modOp o.id fun x => { x with done := true }))
    | _ => .next s

/-! ### Readmission (R391) -/

/-- What happens to a row of a token and rank that has come to a context: discarded, admitted, into the ring, or held. -/
inductive RowFate where
  | discard (reason : Nat)
  | slot (fresh : Bool)
  | ring
  | hold
  deriving DecidableEq, Repr

/-- The decision of R389; again: the row is the ring's head. -/
def CbCtx.fate (c : CbCtx) (token rank : Nat) (again : Bool) : RowFate :=
  let x := c.tok token
  if c.t ≤ token ∨ c.k ≤ rank then .discard 3
  else if !x.expect.getLsbD rank then .discard 2
  else if x.released then .discard 0
  else
    match x.slot with
    | some z => if z.bits.getLsbD rank || z.flight.getLsbD rank then .discard 1 else .slot false
    | none =>
      if c.slotFree && (again || c.rtags.isEmpty) then .slot true
      else if !again && decide (c.rtags.length < c.ringn) then .ring
      else .hold

/-- The head of a context's ring can be readmitted or discarded. -/
def CbCtx.ringReady (c : CbCtx) : Bool :=
  c.isOpen && match c.rtags with | x :: _ => c.fate x.1 x.2 true != .hold | [] => false

/-- A row is on its way into its token's slot, which is allocated if fresh. -/
def State.enterSlot (s : State) (die : Nat) (x : RowFlight) (fresh : Bool) : State :=
  let (n, s) := s.fresh
  let s := s.modCtx die x.ctx fun c => c.modTok x.token fun t =>
    let z := if fresh then { admitted := s.now } else t.slot.getD { admitted := s.now }
    { t with slot := some { z with flight := z.flight ||| rankBit x.rank } }
  s.modDie die fun d => { d with rowsIn := d.rowsIn ++ [{ x with id := n }] }

/-- RING_READMISSION: the entry at the ring's head goes to a slot, or is discarded. -/
def execRingReadmission (die key : Nat) (s : State) : Result :=
  let c := (s.die die).ctx key
  match c.rtags with
  | [] => .next s
  | (token, rank) :: _ =>
    if !c.ringReady then .next s
    else
      let lost := s.cbErr c (c.ring + c.rhead * c.ringEntry + 128) c.rowBytes
      let (s, row) := s.cbRead c (c.ring + c.rhead * c.ringEntry + 128) c.rowBytes
      let s := s.modCtx die key fun c => { c with rtags := c.rtags.drop 1, rhead := (c.rhead + 1) % max 1 c.ringn }
      match c.fate token rank true with
      | .discard r => .next ((s.discardRow die key token rank r).cbLost c lost)
      | .slot fresh => .next ((s.enterSlot die { id := 0, ctx := key, token := token, rank := rank, row := row } fresh).cbLost c lost)
      | _ => .next s

/-! ### Arrivals: ROW_ADMISSION, ROW_COMPLETE (R389, R392) -/

/-- The pieces of the row that a CBPUT posts: contiguous, or a row of a canonical grid of TJ columns of tiles. -/
def putPieces (s : State) (o : EngOp) (can : Bool) (c : CbCtx) : Except EngFault (List (Nat × Nat)) :=
  let va := o.a.toNat
  let get (a n : Nat) : Except EngFault (List (Nat × Nat)) := engRange s o.launch (some o.team) none (dieOf o.core) { global := false } false a n
  if can then
    let row := o.b.toNat / 2 ^ 20 % 4096
    let tj := c.rowBytes / 128
    if apertureOf va != apertureOf (va + canonOff tj row (c.rowBytes - 16) + 15) then .error { code := cAperture, addr := va }
    else (List.range (c.rowBytes / 16)).foldlM (fun acc k =>
      match get (va + canonOff tj row (16 * k)) 16 with | .ok ps => .ok (acc ++ ps) | .error e => .error e) []
  else get va c.rowBytes

/-- The gang of a CBPUT is answered. -/
def State.answerPut (s : State) (o : EngOp) : State :=
  s.modGang o.gang fun g => if g.wait = .cbput false then { g with wait := .cbput true } else g

/-- A context of the die whose ring's head can be readmitted: that comes before any arrival. -/
def State.readmitting (s : State) (die : Nat) : Bool := (s.die die).ctxs.any fun c => c.2.ringReady

/-- A CBPUT has been held for more than the BLOCK cycles of its context, which is open: it is discarded, whatever has become free since (R392). -/
def State.overdue (s : State) (die : Nat) (o : EngOp) : Bool :=
  let c := (s.die die).ctx (s.opCtx o)
  c.isOpen && match (s.die die).heldPut with | some (n, since) => n == o.id && decide (since + c.blockT < s.now) | none => false

/-- ROW_ADMISSION: the CBPUT at the head of the queue is placed, discarded or held. -/
def execRowAdmission (die : Nat) (s : State) : Result :=
  match s.headCb die with
  | none => .next s
  | some o =>
    match o.i with
    | .cbput w =>
      if s.readmitting die || s.overdue die o then .next s
      else
        let key := s.opCtx o
        let c := (s.die die).ctx key
        let token := o.b.toNat % 65536
        let rank := o.b.toNat / 65536 % 8
        let fail (reason : Nat) : State :=
          (s.startCb die o).dieOpFault o (cbRec o cCombineConfig o.a.toNat reason 0 o.ctxNum 0)
        let finish (s : State) : State := (s.answerPut o).modOp o.id fun x => { x with done := true }
        if s.ctxShare die ≤ o.ctxNum ∨ c.isOpen = false then .next (fail 2)
        else
          match putPieces s o (w.mod.getLsbD 3) c with
          | .error _ => .next (fail 7)
          | .ok ps =>
            match s.eccPieces ps with
            | some w =>
              .next ((s.startCb die o).dieOpFault o (o.faultRec 0xF2 cUncorrectableMemory (w % 2 ^ 52) 0))
            | none =>
            match c.fate token rank false with
            | .discard r => .next (finish ((s.startCb die o).discardRow die key token rank r))
            | .slot fresh =>
              .next (((s.startCb die o).enterSlot die { id := 0, ctx := key, token := token, rank := rank, op := some o.id, core := o.core,
                                                        pieces := ps } fresh).answerPut o)
            | .ring =>
              let s := s.startCb die o
              let place := (c.rhead + c.rtags.length) % max 1 c.ringn
              let row := readPieces (s.view o.core) ps
              let s := s.cbWrite { c with tag := o.id } (c.ring + place * c.ringEntry)
                (toBytes 2 token ++ toBytes 1 rank ++ toBytes 125 0 ++ row)
              .next (finish (s.modCtx die key fun c => { c with rtags := c.rtags ++ [(token, rank)] }))
            | .hold =>
              .next (match (s.die die).heldPut with
                | some (n, _) => if n = o.id then s else s.modDie die fun d => { d with heldPut := some (o.id, s.now) }
                | none => s.modDie die fun d => { d with heldPut := some (o.id, s.now) })
    | _ => .next s

/-- A token that holds a slot has reached its timeout (R394). -/
def CbCtx.timedOut (c : CbCtx) (t now : Nat) : Bool :=
  let x := c.tok t
  !x.released && !x.complete && match x.slot with | some z => decide (z.admitted + c.timeout ≤ now) | none => false

/-- ROW_COMPLETE: the last element of a row is in its slot, or comes too late. -/
def execRowComplete (die row : Nat) (s : State) : Result :=
  match (s.die die).rowsIn.find? fun x => x.id == row with
  | none => .next s
  | some x =>
    let c := (s.die die).ctx x.ctx
    let t := c.tok x.token
    if (match t.slot with | some z => c.timedOut x.token s.now && decide (z.admitted + c.timeout < s.now) | none => false) then .next s
    else
      let bytes := if x.op.isNone then x.row else readPieces (s.view x.core) x.pieces
      let s := s.modDie die fun d => { d with rowsIn := d.rowsIn.filter fun y => y.id != row }
      let s := match x.op with | some o => s.modOp o fun y => { y with done := true } | none => s
      if t.released then .next (s.discardRow die x.ctx x.token x.rank 0)
      else
        .next (s.modCtx die x.ctx fun c => c.modTok x.token fun t =>
          { t with slot := t.slot.map fun z =>
              { z with flight := z.flight &&& ~~~(rankBit x.rank), bits := z.bits ||| rankBit x.rank, rows := z.rows ++ [(x.rank, bytes)] } })

/-- CBPUT_ANSWER: the gang goes on (R392). -/
def execCbputAnswer (s : State) : Result :=
  onWait s (fun g _ => g.wait == .cbput true) fun g _ => (s.unhold g).advance g.id

/-- COMBINE_OVERFLOW: the held CBPUT has been held for BLOCK cycles, and is discarded with reason 4. -/
def execCombineOverflow (die : Nat) (s : State) : Result :=
  match (s.die die).heldPut, s.headCb die with
  | some (n, since), some o =>
    let key := s.opCtx o
    let c := (s.die die).ctx key
    let token := o.b.toNat % 65536
    let rank := o.b.toNat / 65536 % 8
    if o.id ≠ n ∨ s.now < since + c.blockT ∨ (s.overdue die o = false ∧ (c.fate token rank false ≠ .hold ∨ s.readmitting die)) then .next s
    else
      let s := (s.startCb die o).discardRow die key token rank 4
      .next (s.dieOpFault o (cbRec o cCombineOverflow o.a.toNat 0 0 o.ctxNum token))
  | _, _ => .next s

/-! ### Timeouts and releases: TOKEN_TIMEOUT, TOKEN_RELEASE (R394, R395) -/

/-- TOKEN_TIMEOUT: a token that is not complete at its timeout is released under the policy; under FAULT the launch that opened the
context ends. -/
def execTokenTimeout (die key token : Nat) (s : State) : Result :=
  let c := (s.die die).ctx key
  if !c.isOpen || !c.timedOut token s.now then .next s
  else
    let s := s.releaseToken die key token 0
    if c.policy = 3 then
      .next (s.fatal c.launch 0xFFFF 0 [{
        code := cCombineConfig, eng := 0xF2, addr := BitVec.ofNat 64 c.block,
        detail := BitVec.ofNat 64 (6 + 65536 * (key % 8) + 2 ^ 32 * token) }])
    else .next s

/-- TOKEN_RELEASE: a complete token is combined and released. -/
def execTokenRelease (die key token : Nat) (s : State) : Result :=
  let c := (s.die die).ctx key
  if !c.isOpen || decide (c.t ≤ token) || (c.tok token).released || !(c.tok token).complete then .next s
  else .next (s.releaseToken die key token 0)

/-! ### Closing: CONTEXT_CLOSE (R397, R398) -/

/-- The context closes: every unreleased token is released, the ring's entries are discarded, the region is free. -/
def State.closeCtx (s : State) (die key : Nat) : State :=
  let c := (s.die die).ctx key
  let s := ((List.range c.t).filter fun t => !(c.tok t).released).foldl (fun s t => s.releaseToken die key t 1) s
  let s := c.rtags.foldl (fun s x => s.lateEntry die key x.1 x.2 4) s
  s.modCtx die key fun c => { done := c.done, miss := c.miss, late := c.late, nslot := c.nslot }

/-- A context may close: every row that has reached it has been handled, none being on its way into a slot; its ring's head is not due for
readmission (R391), and no token has timed out and waits for that event (R394). -/
def State.ctxQuiet (s : State) (die key : Nat) : Bool :=
  let c := (s.die die).ctx key
  !((s.die die).rowsIn.any fun x => x.ctx == key) && !c.ringReady && !((List.range c.t).any fun t => c.timedOut t s.now)

/-- A context whose launch has ended, and that no CBPUT which had arrived by then still concerns. -/
def State.endedCtx (s : State) (die : Nat) : Option Nat :=
  ((s.die die).ctxs.find? fun c =>
    match c.2.closing with
    | some t => c.2.isOpen && s.ctxQuiet die c.1 &&
        !(s.ops.any fun o => o.isCb && dieOf o.core == die && !o.started && !o.done && decide (cbArrival o ≤ t) && s.opCtx o == c.1)
    | none => false).map (·.1)

/-- CONTEXT_CLOSE: the CBCLOSE at the head of the queue, or the end of the launch that opened a context. The writes that the close causes are the
CBCLOSE's: a wait on xp of its squad that releases orders them before later accesses (R403). -/
def execContextClose (die : Nat) (s : State) : Result :=
  let ended : Result := match s.endedCtx die with | some k => .next (s.closeCtx die k) | none => .next s
  match s.headCb die with
  | none => ended
  | some o =>
    match o.i with
    | .cbclose _ =>
      let key := s.opCtx o
      let c := (s.die die).ctx key
      if s.ctxShare die ≤ o.ctxNum then
        .next ((s.startCb die o).dieOpFault o (cbRec o cCombineConfig 0 2 0 o.ctxNum 0))
      else if !c.isOpen then .next ((s.startCb die o).modOp o.id fun x => { x with done := true })
      else if !s.ctxQuiet die key then ended
      else
        let before := s.nextId
        let s := (s.startCb die o).closeCtx die key
        let mine (x : Option Nat) : Bool := x == some c.tag
        let n := (s.upds.filter fun u => mine u.op).length
        let s := { s with
          ents := s.ents.map fun (e : Ent) =>
            if mine e.op then { e with op := some o.id, squad := if before ≤ e.id then o.squad else e.squad } else e
          upds := s.upds.map fun (u : Upd) => if mine u.op then { u with op := some o.id } else u }
        .next (s.modOp o.id fun x => { x with done := true, upds := x.upds + n })
    | _ => ended

/-! ### CBSTAT_RESULT (R402) -/

/-- What CBSTAT reads. -/
def CbCtx.stat (c : CbCtx) (sel : Nat) : Nat :=
  match sel with
  | 0 => c.nslot - c.slotsUsed
  | 1 => c.rtags.length
  | 2 => c.done
  | 3 => c.miss
  | 4 => c.late
  | _ => boolNat c.isOpen

/-- The result of a CBSTAT reaches the lanes of its gang, which no longer blocks on it. -/
def State.cbstatDone (s : State) (g : Gang) (x : Cbstat) (v : Nat) : State :=
  let s := (s.landing g.squad g.id x.since).result { g with lanes := x.lanes } (Common.ofWord x.word) 1 v
  s.modGang g.id fun y => { y with
    stats := y.stats.filter fun z => z.id != x.id, block := y.block.filter fun b => b != x.id,
    pend := y.pend.filter fun p => p.1 != x.id, ready := s.now }

/-- CBSTAT_RESULT: the buffer serves the instruction, after the squad's earlier combine operations have reached it. -/
def execCbstatResult (s : State) : Result :=
  match s.here? with
  | none => .next s
  | some (g, q) =>
    match g.stats with
    | [] => .next s
    | x :: _ =>
      if s.ops.any fun o => o.squad == q.id && o.isCb && decide (o.id < x.id) && !o.started && !o.done &&
          (match (s.die (dieOf q.core)).heldPut with | some (n, _) => n != o.id | none => true) then .next s
      else
        let die := dieOf q.core
        if s.ctxShare die ≤ x.ctx then
          .next (s.fatal q.launch q.core q.part [{
            code := cCombineConfig, eng := 0xF2, coff := x.pos, lanes := x.lanes, pc := x.pc
            detail := BitVec.ofNat 64 (2 + 65536 * (x.ctx % 8)) }])
        else
          let c := (s.die die).ctx (ctxKey (s.spaceIds q.launch).1 x.ctx)
          .next (s.cbstatDone g x (c.stat x.sel))

end Sys2Proof.Machine
end

