-- ==== Sys2Proof/Machine/Migrate.lean ====
section
/-!
DEFINITION. The migration engine (R232 to R259): the MIG instructions, departures, bundles, arrivals, spill rings and the pool, and the
caddies that bin arriving threads into gangs.
-/
namespace Sys2Proof.Machine

/-! ### MIGR, RATOM, PIN (R252, R254, R255) -/

def migrDesc (w : FA) : MemDesc :=
  { c := w.c, n := 1, store := false, atomic := false, uniform := false, plain := true, base := w.base, regs := 0,
    addr := faAddr w, ok := fun q => q.roam && guardFieldOk q w.c && srcOk q false .base w.base }

/-- Where MIGR sends a lane: the home of its address, unless that is host memory or the current core. -/
def migrGoes (_ : Gang) (q : Squad) (x : Acc) : Option (Nat × Nat) :=
  match x.spot with
  | .vault _ core => if core = q.core then none else some (core, 0)
  | .page _ home =>
    if homeIsHost home || (homeChip home == 0 && homeCore home == q.core) then none else some (homeCore home, homeChip home)
  | _ => none

/-- MIGR: it stands first in its clause (R251), accesses nothing, and the lanes that are at home go on. -/
def execMigr (w : FA) (s : State) : Result :=
  onGang s fun g q => checked s g q .mig ((migrDesc w).ok q)
    (memSettleBy (fun _ => true) false migrGoes s g q (migrDesc w) fun s g _ _ => s.advance g.id)

/-- RATOM: ATOM at the home of its address, without migrating, at any place of its clause. -/
def execRatom (w : FM) (s : State) : Result :=
  onGang s fun g q => checked s g q .mig ((atomDesc w).ok q)
    (memSettleBy (fun _ => false) true (fun _ _ _ => none) s g q (atomDesc w)
      (atomPerform (atomDesc w) (.atom (atomAop w.mod) (atomTy w.mod)) (ordAcq (atomOrd w.mod)) (ordRel (atomOrd w.mod))
        (atomScope w.mod) (atomB w) fun _ _ => 0))

def execPin (w : FM) (s : State) : Result :=
  onGang s fun g q => checked s g q .mig (q.roam && guardFieldOk q w.c)
    ((s.modSquad q.id fun x => x.modLanes (heldLanes w.c g q) fun _ y => { y with pin := !w.mod.getLsbD 0 }).advance g.id)

/-! ### HOME and AQSTAT (R253, R257) -/

/-- The description of a home: core, chip, W, host memory, and whether it is the current core. -/
def homeWord (s : State) (q : Squad) (core chip : Nat) (w host : Bool) : Nat :=
  (if host then 2 ^ 20 else (s.fnOf q.launch).virtCore core + 2 ^ 9 * ((chip + (s.spaceOf q.launch).2.chip) % 1024)) +
  2 ^ 19 * boolNat w + (if !host && core == q.core && chip == 0 then 2 ^ 21 else 0)

/-- What HOME writes for an address. A lateral vault of the device has a home at each of its offsets; that of a core that the device does not
own has none (notes/assumptions/21.md). -/
def homeValue (s : State) (g : Gang) (q : Squad) (a : Nat) : Nat :=
  let none32 := 2 ^ 32 - 1
  match apertureOf a with
  | .global =>
    (match pageSpot s g q a with
     | .page e home => homeWord s q (homeCore home) (homeChip home) e.w (homeIsHost home)
     | _ => none32)
  | .lateral =>
    let core := dieOf q.core * 96 + (a - latBase) / 2 ^ 23
    if (s.fnOf q.launch).owns core then homeWord s q core 0 true false else none32
  | _ => none32

/-- HOME: a TLB miss is walked; it faults in no case. -/
def execHome (w : FM) (s : State) : Result :=
  onGang s fun g q => checked s g q .mig (destNamed w.c && operandsOk q w.c [(.r64, w.sa)] 1 true false && (match w.sa with | .vec _ => true | .uni _ => true | _ => false))
    (let held := heldLanes w.c g q
     let lanes := if w.c.dk = .uni then (lanesOf held).take 1 else lanesOf held
     let misses := (lanes.map fun l => (val64 q l w.sa).toNat).filter fun a =>
       apertureOf a == .global && pageSpot s g q a == .miss
     if misses.isEmpty then
       (s.modSquad q.id fun _ => resultPut g q w.c 1 fun l => (homeValue s g q (val64 q l w.sa).toNat, 0)).advance g.id
     else s.startWalks g q misses)

/-- Free thread slots of a core. -/
def State.slotsUsed (s : State) (core : Nat) : Nat := ((List.range 12).map (s.partSlots core)).foldl (· + ·) 0
def State.openBins (s : State) (core : Nat) : Nat := (s.bins.filter fun b => b.core == core).length

/-- AQSTAT: exact for the current core, from the die's table for another; of a core that the device does not have, all ones. -/
def aqValue (s : State) (q : Squad) (sel n : Nat) : Nat :=
  match (s.fnOf q.launch).physCore n with
  | none => 2 ^ 32 - 1
  | some core =>
    let d := s.die (dieOf q.core)
    let here := core == q.core
    match sel with
    | 0 => if here then (s.core core).inbound.length else Assoc.get 0 d.poolQ core
    | 1 => if here then s.ringOcc core else Assoc.get 0 d.pool core
    | 2 => 3072 - (if here then s.slotsUsed core else Assoc.get 0 d.poolS core)
    | _ => if here then s.openBins core else Assoc.get 0 d.poolB core

def execAqstat (w : FM) (s : State) : Result :=
  laneOp s .mig w.c (fun q => destNamed w.c && operandsOk q w.c [(.r32, w.sa)] 1 true false) 1
    fun s _ q l => (aqValue s q (w.mod.extractLsb' 0 2).toNat (val32 q l w.sa).toNat, 0)

/-! ### SPAWN (R256) -/

/-- The fault of a child's clause address. R256 gives no reason of the APERTURE: an address of another aperture is reported with reason 4
(notes/assumptions/56.md). -/
def spawnFault (a : Nat) : Option (Nat × Nat) :=
  if a % 8 != 0 then some (cMisaligned, 0)
  else
    match apertureOf a with
    | .global => none
    | .none => some (cAperture, 0)
    | _ => some (cAperture, 4)

/-- One child for each lane in ascending order, while the reserve lasts; the status of each lane. A child's cumulative set starts as its
parent's: the spawn is a release, and the child's first instruction its acquire. -/
def spawnAll (w : FM) (s : State) (q : Squad) (lanes : List Nat) : State × List (Nat × Nat) :=
  lanes.foldl (fun (acc : State × List (Nat × Nat)) l =>
    let s := acc.1
    match s.launch? q.launch with
    | none => (s, acc.2 ++ [(l, 1)])
    | some x =>
      if x.live < x.demand then
        let (n, s) := s.fresh
        let s := s.modLaunch q.launch fun x => { x with live := x.live + 1 }
        let s := s.modCore q.core fun c => { c with migout := c.migout + 1 }
        let leaf : Leaf := { s.travel q l 2 (val64 q l w.sa) with
          wid := val64 q l w.sb, ff := 0, pin := false, hops := 0, got := [], carry := [] }
        ({ s with flights := s.flights ++ [{ id := n, leaf := leaf, src := dieOf q.core }] }, acc.2 ++ [(l, 0)])
      else (s, acc.2 ++ [(l, 1)])) (s, [])

/-- SPAWN: of a uniform one the single child takes the registers and predicates of the lowest lane whose guard holds, which R256 leaves open
(notes/assumptions/66.md). -/
def execSpawn (w : FM) (s : State) : Result :=
  let pairOk (x : Src) : Bool := match x with | .vec _ => true | .uni _ => true | _ => false
  onGang s fun g q => checked s g q .mig
    (q.roam && operandsOk q w.c [(.r64, w.sa), (.r64, w.sb)] 1 true false && pairOk w.sa && pairOk w.sb)
    (let held := heldLanes w.c g q
     let lanes := if w.c.dk = .uni then (lanesOf held).take 1 else lanesOf held
     let fault (l : Nat) : Option (Nat × Nat) := spawnFault (val64 q l w.sa).toNat
     match lanes.find? fun l => (fault l).isSome with
     | some l =>
       let f := (fault l).getD (0, 0)
       let mask := lanesMask (lanes.filter fun x => (fault x).map (·.1) == some f.1)
       s.takeTrap g f.1 (if w.c.dk = .uni then held else mask) (val64 q l w.sa) (memDetail f.2 7 false false false false)
     | none =>
       let (s, st) := spawnAll w s q lanes
       (s.modSquad q.id fun x => resultPut g x w.c 1 fun l => (Assoc.get 1 st l, 0)).advance g.id)

/-! ### Departures: LEAF_DEPART, LEAF_SEND (R239, R240) -/

/-- The thread of a lane has no operation outstanding: every posted remote, host-memory or lateral-vault store and every RED is
acknowledged, every update of a sync object is performed, and every load has returned. A plain store to the own slice may stand in the
core's store buffer yet: the departure does not propagate it (R86). -/
def State.laneDrained (s : State) (q : Squad) (l : Nat) : Bool :=
  !(s.ents.any fun e => e.squad == q.id && e.who.getLsbD l &&
      (e.rm || e.host || homeIsVault e.home || (match e.post with | .red _ _ _ => true | _ => false))) &&
  !(s.upds.any fun u => u.op.isNone && u.squad == q.id && u.lanes.getLsbD l) && !(s.loadsOut q (lanesMask [l]))

/-- LEAF_DEPART: lanes of one departure go in ascending order; a lane that finds the departure buffer full waits in its slot. -/
def execLeafDepart (squad lane : Nat) (s : State) : Result :=
  match s.squad? squad with
  | none => .next s
  | some q =>
    let x := q.lane lane
    match x.st with
    | .departing core chip full =>
      let earlier := (List.range lane).any fun l => (q.lane l).pc == x.pc && (match (q.lane l).st with | .departing _ _ _ => true | _ => false)
      if earlier || !s.laneDrained q lane then .next s
      else if 64 ≤ (s.core q.core).depart.length then
        .next (if full.isSome then s
               else s.modSquad squad fun y => y.modLane lane fun z => { z with st := .departing core chip (some s.now) })
      else
        let leaf : Leaf := { s.travel q lane 1 x.pc with
          hops := x.hops + 1, stamp := 0, dcore := core, dchip := (chip + (s.spaceOf q.launch).2.chip) % 1024 }
        let s := s.modCore q.core fun c => { c with depart := c.depart ++ [leaf] }
        .next (s.vacate squad (lanesMask [lane]))
    | _ => .next s

/-- A leaf for another chip joins the open bundle of its chip, or opens one (R237). -/
def State.bundleLeaf (s : State) (die : Nat) (x : Leaf) : State :=
  match s.bundles.find? fun b => b.die == die && b.chip == x.dchip && !b.sent && decide (b.leaves.length < 32) with
  | some b => { s with bundles := s.bundles.map fun (y : OutBundle) => if y.id = b.id then { y with leaves := y.leaves ++ [x] } else y }
  | none =>
    let (n, s) := s.fresh
    { s with bundles := s.bundles ++ [{ id := n, die := die, chip := x.dchip, first := s.now, leaves := [x] }] }

/-- LEAF_SEND: the oldest leaf of a core's departure buffer enters the network; one whose launch has ended is discarded. One for another chip goes
to the nearest die with a port up (R428). -/
def execLeafSend (core : Nat) (s : State) : Result :=
  match (s.core core).depart with
  | [] => .next s
  | x :: rest =>
    let s := s.modCore core fun c => { c with depart := rest }
    if s.launchEnded x.launch then .next (s.dropLeaf core x.launch)
    else
      let s := s.modCore core fun c => { c with migout := c.migout + 1 }
      if x.dchip = (s.spaceOf x.launch).2.chip then
        let (n, s) := s.fresh
        .next { s with flights := s.flights ++ [{ id := n, leaf := x, src := dieOf core }] }
      else .next (s.bundleLeaf ((s.portDie (dieOf core) none).getD (dieOf core)) x)

/-! ### Bundles: BUNDLE_SEND, BUNDLE_ARRIVAL, TRANSPORT_RETRY_LIMIT (R236, R237) -/

/-- BUNDLE_SEND: a bundle of 32 leaves, or one that has waited 64 cy, goes to the transport on a port of its die. When both of
them are down, its leaves go to the nearest die with a port up, and wait while there is none (R428). -/
def execBundleSend (die chip : Nat) (s : State) : Result :=
  match s.bundles.find? fun b => b.die == die && b.chip == chip && !b.sent && (b.leaves.length == 32 || decide (b.first + 64 ≤ s.now)) with
  | none => .next s
  | some b =>
    if !s.portUp die none then
      match s.portDie die none with
      | none => .next s
      | some d => .next (b.leaves.foldl (fun (s : State) x => s.bundleLeaf d x) { s with bundles := s.bundles.filter fun x => x.id != b.id })
    else .next { s with bundles := s.bundles.map fun (x : OutBundle) => if x.id = b.id then { x with sent := true } else x }

/-- A valid bundle header (R237): version, count, and reserved bits, those beside SCHIP and BCHIP among them; BCHIP is not compared with the
chip's own number (notes/assumptions/57.md). -/
def bundleOk (bs : List Byte) : Bool :=
  let f := fieldAt bs
  f 0 1 == 1 && decide (1 ≤ f 1 1 ∧ f 1 1 ≤ 32) && decide (f 2 2 < 1024) && decide (f 4 2 < 1024) && f 6 10 == 0 &&
  bs.length == 16 + 128 * f 1 1

/-- A thread that comes back from another chip is no longer in the transport; one that was created elsewhere adds to the live count. -/
def State.leafReturns (s : State) (x : Leaf) : State :=
  let mine (y : Leaf) : Bool := y.launch == x.launch && y.wid == x.wid
  if s.bundles.any fun b => b.sent && b.leaves.any mine then
    let drop (b : OutBundle) : OutBundle := if b.sent then { b with leaves := b.leaves.filter fun y => !(mine y) } else b
    { s with bundles := (s.bundles.map drop).filter fun (b : OutBundle) => !(b.sent && b.leaves.isEmpty) }
  else s.modLaunch x.launch fun l => { l with live := l.live + 1 }

/-- BUNDLE_ARRIVAL: an invalid bundle is discarded and counted; the leaves of a valid one are on the network of the package. -/
def execBundleArrival (core : Nat) (b : Bundle) (s : State) : Result :=
  if !bundleOk b.bytes then .next (s.modCore core fun c => { c with migdrop := c.migdrop + 1 })
  else
    let n := fieldAt b.bytes 1 1
    .next ((List.range n).foldl (fun (s : State) k =>
      let (x, ok) := Leaf.ofBytes ((b.bytes.drop (16 + 128 * k)).take 128)
      let s := s.leafReturns x
      let (i, s) := s.fresh
      { s with flights := s.flights ++ [{ id := i, leaf := x, bad := !ok, src := dieOf core }] }) s)

/-- TRANSPORT_RETRY_LIMIT: LINK_LOST for every launch with a leaf in a bundle that the transport cannot deliver. -/
def execTransportRetryLimit (bundle : Nat) (s : State) : Result :=
  match s.bundles.find? fun b => b.id == bundle && b.sent with
  | none => .next s
  | some b =>
    let s := { s with bundles := s.bundles.filter fun x => x.id != bundle }
    .next (((b.leaves.map (·.launch)).eraseDups).foldl (fun (s : State) h =>
      if s.launchEnded h then s else s.fatal h 0xFFFF 0 [{ code := cLinkLost }]) s)

/-! ### Arrivals: LEAF_ARRIVAL, RING_READBACK, TRANSIT_CREDIT (R236, R243, R244) -/

/-- Leaves held for a core, in its own ring or in transit, that no fault holds. -/
def State.heldFor (s : State) (d : Nat) : List RingEnt := s.rings.filter fun r => r.frec.isNone && r.leaf.dcore == d

/-- A leaf sent against a credit is on its way to core d, with a stamp below the one given: it enters the queue first (R244). -/
def State.creditBefore (s : State) (d : Nat) (stamp : W32) : Bool :=
  s.flights.any fun f => f.leaf.transit && f.leaf.dcore == d && decide (f.leaf.stamp.toNat < stamp.toNat)

/-- A core's inbound queue has an entry that no credit reserves. -/
def State.inboundRoom (s : State) (d : Nat) : Bool :=
  decide ((s.core d).inbound.length + (s.flights.filter fun f => f.leaf.transit && f.leaf.dcore == d).length < 256)

def State.pushInbound (s : State) (d : Nat) (x : Leaf) : State :=
  s.modCore d fun c => { c with inbound := c.inbound ++ [{ x with transit := false }] }

/-- A leaf reaches its core: it is stamped once, and placed in the queue, in the core's ring, or in the pool. While leaves are held for
the core, a later arrival does not overtake them. -/
def State.placeLeaf (s : State) (d : Nat) (x : Leaf) : State :=
  let s := if x.stamp = 0 then s.modCore d fun c => { c with stamp := c.stamp + 1 } else s
  let x := if x.stamp = 0 then { x with stamp := (s.core d).stamp } else x
  if s.inboundRoom d && (s.heldFor d).isEmpty && !s.creditBefore d x.stamp then s.pushInbound d x
  else if s.ringOcc d < (s.core d).ringCap then
    (s.ringPut d x none).modCore d fun c => { c with spilled := c.spilled + 1 }
  else s.toPool d x none

/-- LEAF_ARRIVAL. Threads that their launch or one parent created arrive in the order of their creation. -/
def execLeafArrival (n : Nat) (s : State) : Result :=
  match s.flights.find? fun f => f.id == n with
  | none => .next s
  | some f =>
    let x := f.leaf
    if !s.joined f.src (dieOf x.dcore) || x.transit && s.creditBefore x.dcore x.stamp then .next s
    else if (x.kind == 2 || x.kind == 3) && s.flights.any fun y => decide (y.id < n) && y.leaf.kind == x.kind && y.leaf.launch == x.launch &&
        y.leaf.dcore == x.dcore then .next s
    else
      let s := { s with flights := s.flights.filter fun y => y.id != n }
      if f.bad then .next (s.badLeaf x.dcore x true)
      else if s.launchEnded x.launch then .next (s.dropLeaf x.dcore x.launch)
      else if x.transit then .next (s.pushInbound x.dcore x)
      else .next (s.placeLeaf x.dcore x)

/-- The held leaf of a core with the lowest stamp. -/
def State.nextHeld (s : State) (d : Nat) : Option RingEnt :=
  firstBy (fun (a b : RingEnt) => decide (a.leaf.stamp.toNat < b.leaf.stamp.toNat)) (s.heldFor d)

/-- RING_READBACK: an entry of a core's ring whose launch has ended is discarded; else the lowest-stamped leaf held for the core, when it
stands in the core's own ring, enters its queue. -/
def execRingReadback (core : Nat) (s : State) : Result :=
  match s.rings.find? fun r => r.core == core && s.launchEnded r.leaf.launch with
  | some r => .next ((s.ringTake core r.slot).dropLeaf core r.leaf.launch)
  | none =>
    match s.nextHeld core with
    | some r =>
      if r.core = core ∧ s.inboundRoom core = true ∧ s.creditBefore core r.leaf.stamp = false then
        .next (s.ringRead r fun s => s.pushInbound core r.leaf)
      else .next s
    | none => .next s

/-- TRANSIT_CREDIT: the lowest-stamped leaf held for the core, when it stands in another ring, is sent against a credit. -/
def execTransitCredit (core : Nat) (s : State) : Result :=
  match s.nextHeld core with
  | some r =>
    if r.core = core ∨ s.inboundRoom core = false then .next s
    else .next (s.ringRead r fun s =>
      let (n, s) := s.fresh
      { s with flights := s.flights ++ [{ id := n, leaf := { r.leaf with transit := true }, src := dieOf r.core }] })
  | none => .next s

/-! ### Caddies: ARRIVAL_DISPATCH, BIN_RELEASE (R246, R247, R248) -/

/-- A partition can hold one more roaming thread (R24). -/
def State.canHold (s : State) (core part : Nat) : Bool :=
  decide (s.partSlots core part + 1 ≤ 256) && decide (s.partWords core part false + 16 ≤ 65536)

/-- A thread in its lane, from its leaf. -/
def laneOfLeaf (x : Leaf) : Lane :=
  { st := .run, wid := x.wid, v := (List.range 16).foldl (fun (f : RegFile) k => regSet f k (x.v.getD k 0)) []
    p := x.pred.setWidth 24, ff := x.ff, pin := x.pin, hops := x.hops, seen := x.seen, got := x.got, carry := x.carry }

/-- The threads of a bin become one gang, in the order of their arrival. -/
def State.releaseBin (s : State) (b : Bin) : State :=
  let s := { s with bins := s.bins.filter fun x => x.id != b.id }
  let params := match s.launch? b.launch with | some l => l.params | none => []
  let (q, s) := s.fresh
  let (g, s) := s.fresh
  let sq : Squad :=
    { id := q, launch := b.launch, roam := true, core := b.core, part := b.part
      lanes := (List.range 32).map fun k => match b.leaves[k]? with | some x => laneOfLeaf x | none => {}
      u := (List.range 32).foldl (fun (u : RegFile) n => regSet u n (params.getD n 0)) [] }
  { s with
    squads := s.squads ++ [sq]
    gangs := s.gangs ++ [{ id := g, squad := q, lanes := sq.existing, pc := b.pc, entry := s.now, ready := s.now
                           block := s.livePosts (b.leaves.flatMap Leaf.own).eraseDups }] }

/-- A partition's shadow swap holds its bins (R36, R247). -/
def State.binsHeld (s : State) (core part : Nat) : Bool := (s.part core part).shadow || decide (s.now < (s.part core part).swapAt)

/-- A bin is released at once, or, while a shadow swap holds it, when the swap ends. -/
def State.forceBin (s : State) (b : Bin) : State :=
  if s.binsHeld b.core b.part then
    { s with bins := s.bins.map fun (x : Bin) => if x.id = b.id then { x with forced := true } else x }
  else s.releaseBin b

/-- The leaf enters a bin. -/
def State.joinBin (s : State) (core bin : Nat) (x : Leaf) : State :=
  let add (b : Bin) : Bin := if b.id = bin then { b with leaves := b.leaves ++ [x], entered := b.entered ++ [s.now] } else b
  let s := { s with bins := s.bins.map add }
  s.modCore core fun c => { c with inbound := c.inbound.drop 1, migin := c.migin + 1 }

/-- Steps 2 to 4 of R246; again: step 3 may still be taken. -/
def State.openBin (s : State) (core : Nat) (x : Leaf) (again : Nat) : State :=
  let can := (List.range 12).filter (s.canHold core)
  let roomy := can.filter fun p => decide ((s.bins.filter fun b => b.core == core && b.part == p).length < 16)
  match firstBy (fun (a b : Nat) => decide (s.partSlots core a < s.partSlots core b)) roomy with
  | some p =>
    let (n, s) := s.fresh
    let b : Bin := { id := n, core := core, part := p, launch := x.launch, pc := x.pc, opened := s.now, leaves := [] }
    let s := { s with bins := s.bins ++ [b] }
    s.joinBin core n x
  | none =>
    match again, can with
    | k + 1, p :: _ =>
      (match s.bins.find? fun b => b.core == core && b.part == p && !b.forced with
       | some b => (s.forceBin b).openBin core x k
       | none => s)
    | _, _ => s

/-- ARRIVAL_DISPATCH: the leaf at the head of a core's inbound queue goes to a bin; one whose launch has ended is discarded. -/
def execArrivalDispatch (core : Nat) (s : State) : Result :=
  match (s.core core).inbound with
  | [] => .next s
  | x :: _ =>
    if s.launchEnded x.launch then
      .next ((s.modCore core fun c => { c with inbound := c.inbound.drop 1 }).dropLeaf core x.launch)
    else
      match s.bins.find? fun b => b.core == core && b.launch == x.launch && b.pc == x.pc && !b.forced && decide (b.leaves.length < 32) with
      | some b => if s.canHold core b.part then .next (s.joinBin core b.id x) else .next ((s.forceBin b).openBin core x 1)
      | none => .next (s.openBin core x 1)

/-- A bin's time has come: it is full, its wait is over, it is forced, or a shadow swap that held it has ended; and no swap holds it
(R247). -/
def State.binDue (s : State) (b : Bin) : Bool :=
  !(s.binsHeld b.core b.part) &&
  (b.leaves.length == 32 || b.forced || decide (b.opened + (s.core b.core).binwait ≤ s.now) || decide (b.opened < (s.part b.core b.part).swapAt))

/-- BIN_RELEASE: bins of a partition that are due are released in the order of their opening. -/
def execBinRelease (bin : Nat) (s : State) : Result :=
  match s.bins.find? fun b => b.id == bin with
  | none => .next s
  | some b =>
    if !s.binDue b || s.bins.any fun x => x.core == b.core && x.part == b.part && decide (x.id < b.id) && s.binDue x then .next s
    else .next (s.releaseBin b)

/-! ### POOL_TABLE_REFRESH (R242) -/

/-- The cores with a leaf, a thread or a bin. -/
def State.poolCores (s : State) : List Nat :=
  ((s.rings.map (·.core)) ++ (s.cores.map (·.1)) ++ (s.squads.map (·.core)) ++ (s.bins.map (·.core))).eraseDups

/-- The table of a die learns the occupancies of its own cores, or (wide) of the cores of the other dies. -/
def State.poolRefresh (s : State) (die : Nat) (wide : Bool) : State :=
  let there (c : Nat) : Bool := (dieOf c == die) != wide
  let cores := s.poolCores.filter there
  let put (f : Nat → Nat) (t : List (Nat × Nat)) : List (Nat × Nat) :=
    cores.foldl (fun t c => Assoc.set 0 t c (f c)) (t.filter fun x => !there x.1)
  s.modDie die fun d => { d with
    pool := put s.ringOcc d.pool
    poolQ := put (fun c => (s.core c).inbound.length) d.poolQ
    poolS := put s.slotsUsed d.poolS
    poolB := put s.openBins d.poolB
    poolAt := if wide then d.poolAt else s.now
    poolWide := if wide then s.now else d.poolWide }

/-- POOL_TABLE_REFRESH: entries of a table are sent. -/
def execPoolTableRefresh (die : Nat) (wide : Bool) (s : State) : Result := .next (s.poolRefresh die wide)

/-- The refreshes whose time has come: of the entries for the die's own cores every 16 cy, and of those for the other dies every 64 cy. -/
def State.poolsDue (s : State) : State :=
  (List.range s.dies.length).foldl (fun s d =>
    let s := if (s.die d).poolAt + 16 ≤ s.now then s.poolRefresh d false else s
    if (s.die d).poolWide + 64 ≤ s.now then s.poolRefresh d true else s) s

end Sys2Proof.Machine
end

