-- ==== Sys2Proof/Machine/Frames.lean ====
section
/-!
DEFINITION. Context frames and team frames (R26 to R30), the saves of squads and teams (R37, R39, R363), their restore (R38, R201,
R224, R230, R265), what a refused save does (R29), and the swap of a partition to its shadow context (R36).
-/
namespace Sys2Proof.Machine

/-! ### Waits that a frame records (R27, R28) -/

/-- Whether a gang stands at a wait that a save can record: its instruction executes again on restore. -/
def State.recordable (s : State) (g : Gang) (q : Squad) : Bool :=
  match g.wait with
  | .sync _ _ _ got => got.isNone
  | .ring _ _ _ _ _ got => !got
  | .counter _ _ => true
  | .join _ _ _ _ got => got.isNone || q.saving == some 3
  | .barrier _ rounds pending => !pending && !rounds.isEmpty
  | .queue => g.header.eng == 9
  | .cbput false => (s.heldPutOf g q).isSome
  | .waitz => true
  | .collective => true
  | _ => false

/-- A gang stands where a save can record it: at a clause boundary or head, or at a recordable wait. -/
def State.stands (s : State) (g : Gang) (q : Squad) : Bool :=
  match g.phase with
  | .body => s.recordable g q
  | _ => g.block.isEmpty && (s.recordable g q || g.wait == .none || g.wait == .fetch)

/-- WAITKIND of a wait (R27). -/
def Wait.kindCode (w : Wait) : Nat :=
  match w with
  | .sync _ _ _ _ => 1
  | .barrier _ _ _ => 2
  | .ring _ _ _ _ _ _ => 3
  | .counter _ _ => 4
  | .waitz => 4
  | .join _ _ _ _ _ => 5
  | .rejoin => 6
  | _ => 0

/-- WAITADDR and WAITVAL of a gang's wait; those that the spec does not give are free values (notes/assumptions/1.md). -/
def State.waitFields (s : State) (g : Gang) : (Nat × Nat) × State :=
  match g.wait with
  | .sync _ va n _ => ((va.toNat, n.toNat), s)
  | .join _ va n _ _ => ((va.toNat, n.toNat), s)
  | .ring _ va _ _ sel _ => ((va.toNat, sel.toNat), s)
  | .counter c n => ((classCode c, n.toNat), s)
  | .barrier b _ _ => let (v, s) := s.draw; ((b, v.toNat), s)
  | .waitz =>
    match (waitzClasses g.header.waitz).map classCode with
    | [c] => ((c, 0), s)
    | cs => let (v, s) := s.draw; ((cs.getD (v.toNat % cs.length) 0, 0), s)
  | _ => ((0, 0), s)

/-- A wait of a squad: the cycle in which it began, its lanes, WAITKIND, and its gang, none for an RJWAIT. -/
structure WaitRec where
  since : Nat
  lanes : Lanes
  kind : Nat
  gang : Option Gang := none
  deriving DecidableEq, Repr

/-- The waits of a squad; the lanes that executed one RJWAIT together count as one (R28). -/
def State.waitsOf (s : State) (q : Squad) : List WaitRec :=
  let rj := (lanesOf q.existing).foldl (fun (acc : List ((Word × Nat × Nat) × Lanes)) l =>
    match (q.lane l).st with
    | .rejoin _ c p _ _ t =>
      if acc.any fun y => y.1 == (c, p, t) then acc.map fun y => if y.1 == (c, p, t) then (y.1, y.2 ||| lanesMask [l]) else y
      else acc ++ [((c, p, t), lanesMask [l])]
    | _ => acc) []
  let gs := s.gangs.filter fun (g : Gang) => g.squad == q.id && s.recordable g q
  gs.map (fun g => { since := g.since, lanes := g.lanes, kind := g.wait.kindCode, gang := some g }) ++
  rj.map fun x => { since := x.1.2.2, lanes := x.2, kind := 6 }

/-- Earlier, with ties to the lowest lane. -/
def WaitRec.before (a b : WaitRec) : Bool :=
  decide (a.since < b.since) || (a.since == b.since && decide (lowest a.lanes < lowest b.lanes))

/-- The wait that the header of a frame of a kind records. -/
def State.frameWait (s : State) (q : Squad) (kind : Nat) : Option WaitRec :=
  firstBy WaitRec.before ((s.waitsOf q).filter fun w => kind != 3 || w.kind == 5)

/-! ### When a squad is saved -/

/-- Writes that releases which a squad's threads have read carry, and that are still on their way. -/
def State.heardPosts (s : State) (q : Squad) : Bool :=
  (List.range 32).any fun l => (q.lane l).got.any fun r => r.meets q l 5 && !(s.livePosts r.ids).isEmpty

/-- Nothing of a squad is on its way: the counters but xp have drained, its writes and updates are at home, with what the acquire half of an
sc fence at package scope would take from its reads (R88), its loads have returned, its arrivals have been counted, and every gang stands where it can be recorded (R37). -/
def State.quiesced (s : State) (q : Squad) : Bool :=
  q.cnt.drained && !s.squadPosts q && !s.heardPosts q && !(s.reqs.any fun r => r.squad == q.id && r.kind != .line) &&
  !(s.arrs.any fun a => a.squad == q.id) && !(q.rj.any fun m => m.fired != 0) &&
  (s.gangs.filter fun g => g.squad == q.id).all fun g => s.stands g q

/-- The lanes that wait: at a recordable wait of their gang, or at an RJWAIT. -/
def State.waitingLanes (s : State) (q : Squad) (yielding : Bool) : Lanes :=
  ((s.gangs.filter fun (g : Gang) => g.squad == q.id && s.recordable g q && !(yielding && g.active)).foldl
    (fun (m : Lanes) g => m ||| g.lanes) 0) |||
  lanesWhere q.existing fun l => match (q.lane l).st with
    | .rejoin j _ _ _ _ _ => !((q.mask j).fired.getLsbD l)
    | _ => false

/-- FAULT_SAVE is due: some lane is parked, and every existing lane is parked, waits or has exited (R39). -/
def State.faultSaveDue (s : State) (q : Squad) : Bool :=
  q.parkedLanes != 0 && q.liveLanes &&& ~~~(q.parkedLanes ||| s.waitingLanes q false) == 0

/-- SWAP_OUT is due (R363). -/
def State.swapOutDue (s : State) (q : Squad) : Bool :=
  q.liveLanes &&& ~~~(q.parkedLanes ||| s.waitingLanes q true) == 0 &&
  s.gangs.any fun (g : Gang) => g.squad == q.id && (match g.wait with
    | .join _ _ _ swap none => swap || decide (g.since + 4096 < s.now)
    | _ => false)

/-! ### The layout of a frame (R26) -/

structure FrameLayout where
  vec : Nat := 0x200
  uni : Nat
  pred : Nat
  rj : Nat
  tile : Nat
  fault : Nat
  acc : Nat
  handler : Nat
  size : Nat
  deriving DecidableEq, Repr

def Squad.layout (q : Squad) : FrameLayout :=
  let uni := 0x200 + 128 * q.vregs
  let pred := uni + 4 * q.sregs
  let tile := pred + 128 + 64
  let fault := roundUp (tile + 16 * q.tiles) 32
  let acc := roundUp (fault + 1024) 256
  let handler := acc + 16384 * q.accs
  { uni := uni, pred := pred, rj := pred + 128, tile := tile, fault := fault, acc := acc, handler := handler
    size := roundUp (handler + 1024) 256 }

def FrameLayout.areas (f : FrameLayout) : List Nat := [f.vec, f.uni, f.pred, f.rj, f.tile, f.fault, f.acc, f.size]

/-- ENG of the engine classes whose faults a frame holds, back to their counters (R318). -/
def classOfEng (e : Nat) : CounterClass := if e = 5 then .cp else if e = 6 then .mx else if e = 7 then .rw else if e = 8 then .sg else .xp

/-- The resume point of a gang's lanes: the clause, and the offset inside it (R27, R38). -/
def Gang.resumePoint (g : Gang) : Word × Nat := match g.phase with | .body => (g.pc, g.pos) | _ => (g.pc, g.resume)

/-- The handler record of a lane's gang (R230). -/
def TrapCtx.record (t : TrapCtx) : FaultRec :=
  { code := t.regs.xcode.toNat, eng := (Header.ofWord t.hdr).eng.toNat, coff := t.pos, lanes := t.regs.xmask, pc := t.pc,
    addr := t.regs.xaddr, detail := t.regs.xraw }

/-- What a frame says of one lane: resume point, handler, and fault record. -/
structure LaneFrame where
  pc : Word := 0
  coff : Nat := 0
  htrap : Option TrapCtx := none
  frec : FaultRec := {}
  deriving DecidableEq, Repr

def State.laneFrame (s : State) (q : Squad) (l : Nat) : LaneFrame :=
  let x := q.lane l
  match x.st with
  | .parked => { pc := x.pc, htrap := x.htrap, frec := x.frec }
  | .rejoin _ c p _ _ _ => { pc := c, coff := p, htrap := x.htrap }
  | .run =>
    match s.gangs.find? fun (g : Gang) => g.squad == q.id && g.lanes.getLsbD l with
    | some g => { pc := g.resumePoint.1, coff := g.resumePoint.2, htrap := if g.handler then some g.trap else none }
    | none => {}
  | _ => {}

/-- The undelivered engine faults take the records of their lowest lanes that are free; none when one finds no room (R318). -/
def placeFaults (held : List (CounterClass × FaultRec)) (ls : List LaneFrame) : Except FaultRec (List LaneFrame) :=
  held.foldlM (fun ls h =>
    match (lanesOf h.2.lanes).find? fun l => (ls.getD l {}).frec.code == 0 with
    | some l => .ok (ls.mapIdx fun k x => if k = l then { x with frec := h.2 } else x)
    | none => .error h.2) ls

/-- The bytes of a frame (R26, R27). -/
def frameBytes (q : Squad) (t : Team) (kind : Nat) (waiting : Lanes) (wait : Nat × Nat × Nat) (ls : List LaneFrame) : List Byte :=
  let f := q.layout
  let each (n : Nat) (g : Nat → Nat) : List Byte := ((List.range 32).map fun l => toBytes n (g l)).flatten
  let lf (l : Nat) : LaneFrame := ls.getD l {}
  let inh := lanesWhere q.existing fun l => (lf l).htrap.isSome
  let exited := lanesWhere q.existing fun l => (q.lane l).st == .exited
  let role := match q.role with | none => 0xFF | some .load => 0 | some .store => 1 | some .matrix => 2 | some .vector => 3
  let a (j : Nat) : Nat := ((q.mask j).a &&& ~~~(lanesWhere q.existing fun l => match (q.lane l).st with
    | .rejoin k _ _ _ true _ => k == j
    | _ => false)).toNat
  let header := toBytes 1 kind ++ toBytes 1 1 ++ toBytes 2 0 ++ toBytes 4 q.existing.toNat ++ toBytes 4 q.parkedLanes.toNat ++
    toBytes 4 waiting.toNat ++ toBytes 8 q.launch.toNat ++ toBytes 8 t.index.toNat ++ toBytes 2 q.index ++ toBytes 1 role ++
    toBytes 1 q.vcore ++ toBytes 2 q.vregs ++ toBytes 2 q.sregs ++ toBytes 1 q.accs ++ toBytes 1 q.tiles ++ toBytes 2 0 ++
    toBytes 1 wait.1 ++ toBytes 3 0 ++ toBytes 2 q.cnt.cp ++ toBytes 2 q.cnt.mx ++ toBytes 2 q.cnt.rw ++ toBytes 2 q.cnt.sg ++
    toBytes 2 q.cnt.rm ++ toBytes 2 q.cnt.xp ++ toBytes 4 0 ++ toBytes 8 wait.2.1 ++ toBytes 8 wait.2.2 ++
    each 1 (fun l => (q.lane l).ff.toNat) ++ each 1 (fun l => (lf l).coff) ++ (f.areas.map fun n => toBytes 4 n).flatten ++
    toBytes 4 inh.toNat ++ toBytes 4 f.handler ++ toBytes 4 exited.toNat ++ toBytes 68 0
  header ++ each 8 (fun l => (lf l).pc.toNat) ++
  ((List.range q.vregs).map fun k => each 4 fun l => (regGet (q.lane l).v k).toNat).flatten ++
  ((List.range q.sregs).map fun k => toBytes 4 (regGet q.u k).toNat).flatten ++
  each 4 (fun l => (q.lane l).p.toNat) ++
  ((List.range 8).map fun j => toBytes 4 (q.mask j).e.toNat ++ toBytes 4 (a j)).flatten ++
  ((List.range q.tiles).map fun k => toBytes 16 (Assoc.get 0 q.td k).toNat).flatten ++
  toBytes (f.fault - (f.tile + 16 * q.tiles)) 0 ++
  ((List.range 32).map fun l => (lf l).frec.bytes).flatten ++
  toBytes (f.acc - (f.fault + 1024)) 0 ++
  ((List.range (4096 * q.accs)).map fun k => toBytes 4 (regGet q.acc k).toNat).flatten ++
  ((List.range 32).map fun l => (match (lf l).htrap with | some t => t.record | none => {}).bytes).flatten ++
  toBytes (f.size - (f.handler + 1024)) 0

/-! ### The frame area (R29) -/

/-- A range of a frame area, for the part's own accesses. -/
def frameRange (s : State) (h : Word) (write : Bool) (va n : Nat) : Except EngFault (List (Nat × Nat)) :=
  engRange s h none none 0 { scratch := false, lateral := false } write va n

def State.frameRead (s : State) (h : Word) (va n : Nat) : Option (List Byte) :=
  match frameRange s h false va n with | .ok ps => some (readPieces s.mem ps) | .error _ => none

def State.frameWrite (s : State) (h : Word) (va : Nat) (bs : List Byte) : Except EngFault State :=
  match frameRange s h true va bs.length with
  | .ok ps => .ok (ps.foldl (fun (acc : State × List Byte) p => (acc.1.writeHome p.1 (acc.2.take p.2) false, acc.2.drop p.2)) (s, bs)).1
  | .error e => .error e

/-- The lowest place for n bytes in the frame area of a launch's context; none when the area is full. -/
def State.frameRoom (s : State) (h : Word) (n : Nat) : Option Nat :=
  let (f, a) := s.spaceOf h
  let used := (s.frames.filter fun x => x.fn == f.id && x.asc == a.id).map fun x => (x.va.toNat, x.len)
  ((a.frameBase :: used.map fun x => roundUp (x.1 + x.2) 256).filter fun p =>
    decide (a.frameBase ≤ p) && decide (p + n ≤ a.frameBase + a.frameLen) &&
    !(used.any fun x => decide (x.1 < p + n) && decide (p < x.1 + x.2))).min?

/-- A frame is allocated; code and address of what refuses it otherwise, 0 and 0 for a full area. -/
def State.allocFrame (s : State) (h : Word) (n : Nat) (squad team : Option Nat) : Except FaultRec (Nat × State) :=
  match s.frameRoom h n with
  | none => .error {}
  | some va =>
    match frameRange s h true va n with
    | .error e => .error e.updRec
    | .ok _ =>
      let (f, a) := s.spaceOf h
      .ok (va, { s with frames := s.frames ++ [{ fn := f.id, asc := a.id, va := BitVec.ofNat 64 va, len := n, launch := h,
                                                 squad := squad, team := team }] })

def State.freeFrame (s : State) (h : Word) (va : Nat) : State := s.freeFrames fun f => f.launch == h && f.va.toNat == va

/-- The frame that a squad's save has taken. -/
def State.frameOf (s : State) (q : Squad) : Option Nat := (s.frames.find? fun f => f.launch == q.launch && f.squad == some q.id).map (·.va.toNat)

/-! ### The save of a squad (R37, R39, R363) -/

/-- Parked lanes of a resident squad whose save was refused run again in place (R29), their next accesses after those that they have made
(R77); the rounds that they held back are evaluated (R221). -/
def State.unpark (s : State) (q : Squad) (m : Lanes) : State :=
  let groups := (lanesOf m).foldl (fun (acc : List ((Word × Option TrapCtx) × Lanes)) l =>
    let k := ((q.lane l).pc, (q.lane l).htrap)
    if acc.any fun y => y.1 == k then acc.map fun y => if y.1 == k then (y.1, y.2 ||| lanesMask [l]) else y
    else acc ++ [(k, lanesMask [l])]) []
  let s := s.modSquad q.id fun x => x.modLanes m fun _ y =>
    { y with st := .run, frec := {}, covered := false, htrap := none, pend := [] }
  (groups.foldl (fun s g =>
    let (n, s) := s.fresh
    let gang : Gang := { id := n, squad := q.id, lanes := g.2, pc := g.1.1, entry := s.now, ready := s.now, pend := s.stillPending q g.2 }
    { s with gangs := s.gangs ++ [{ gang with handler := g.1.2.isSome, trap := g.1.2.getD {} }] }.fencedOff n) s).rejoinEval q.id |>.retest q.id

/-- The lanes of a squad that are parked and covered (R201). -/
def Squad.coveredLanes (q : Squad) : Lanes := lanesWhere q.parkedLanes fun l => (q.lane l).covered

/-- A save of one squad is refused or abandoned: the squad stays as it stood, and the first failure is reported (R29). Of a fault save the lanes that a
RESUME has covered before run again in place, as a RESUME after it would have them do. -/
def State.refuseSave (s : State) (q : Squad) (kind : Nat) (r : FaultRec) : State :=
  let s := s.modSquad q.id fun x => { x with saving := none, refused := true, refKind := kind, refusal := r, retry := false, swapWord := none }
  let s := match s.frameOf q with | some va => s.freeFrame q.launch va | none => s
  let s := s.modSquad q.id fun x => { x with retry := false }
  let s := if q.refused && q.refKind == kind then s else s.reportFault 2 q.launch q.core q.part 0 r
  if kind = 2 ∧ q.coveredLanes ≠ 0 then s.unpark { q with saving := none } q.coveredLanes else s

/-- A save of a squad begins, and its issue stops. -/
def State.beginSave (s : State) (q : Squad) (kind : Nat) : State :=
  match s.allocFrame q.launch q.layout.size (some q.id) none with
  | .error r => s.refuseSave q kind r
  | .ok (_, s) =>
    let join := firstBy WaitRec.before ((s.waitsOf q).filter fun w => w.kind == 5)
    let word := match (join.bind (·.gang)).map (·.wait) with | some (.join _ va _ _ _) => some va | _ => none
    s.modSquad q.id fun x => { x with saving := some kind, retry := false, swapWord := if kind = 3 then word else none, eligible := false }

/-- The arrivals of a gang that waits at a BAR leave the round that is open (R265). -/
def State.withdraw (s : State) (q : Squad) (g : Gang) : State :=
  match g.wait with
  | .barrier b rounds _ => s.modBar q.team b fun x => { x with arrived := x.arrived - (rounds.filter fun r => r == x.round).length }
  | _ => s

/-- A held CBPUT of a gang is withdrawn (R392). -/
def State.withdrawPut (s : State) (q : Squad) (g : Gang) : State :=
  match s.heldPutOf g q with
  | some o =>
    ({ s with ops := s.ops.filter fun x => x.id != o.id }.modDie (dieOf q.core) fun d => { d with heldPut := none }).modSquad q.id
      fun x => { x with cnt := { x.cnt with xp := x.cnt.xp - 1 } }
  | none => s

/-- What the part keeps of a saved squad beside its frame. -/
def Squad.put (q : Squad) (kind va : Nat) (ls : List LaneFrame) : Squad :=
  { q with
    place := .saved kind (BitVec.ofNat 64 va), saving := none, refused := false, retry := false, held := [], kept := []
    u := [], td := [], acc := [], accErrs := [], rj := List.replicate 8 {}
    lanes := q.lanes.mapIdx fun l x =>
      let y : Lane := { wid := x.wid, hwm := x.hwm, htrap := (ls.getD l {}).htrap, frec := x.frec, covered := x.covered, due := x.due }
      { y with st := match x.st with | .absent => .absent | .exited => .exited | .parked => .parked | _ => .run } }

/-- The frame of a squad is written and its allocations are freed; or its fault, or an engine fault without a record (R318). -/
def State.writeSquad (s : State) (q : Squad) : Except (Bool × FaultRec) State :=
  let kind := q.saving.getD 1
  let waiting := s.waitingLanes q false
  let w := s.frameWait q kind
  let gangs := s.gangs.filter fun (g : Gang) => g.squad == q.id
  let ls := (List.range 32).map fun l => s.laneFrame q l
  match placeFaults q.held ls, s.frameOf q, s.team? q.team with
  | .error r, _, _ => .error (true, r)
  | .ok ls, some va, some t =>
    let s := gangs.foldl (fun s g => (s.withdraw q g).withdrawPut q g) s
    let q := (s.squad? q.id).getD q
    let (fields, s) : (Nat × Nat) × State :=
      match w with
      | none => ((0, 0), s)
      | some x => (match x.gang with
        | some g => s.waitFields g
        | none => let (a, s) := s.draw; let (b, s) := s.draw; ((a.toNat, b.toNat), s))
    match s.frameWrite q.launch va (frameBytes q t kind waiting ((w.map (·.kind)).getD 0, fields) ls) with
    | .error e => .error (false, e.updRec)
    | .ok s =>
      let s := { s with gangs := s.gangs.filter fun g => g.squad != q.id, walks := s.walks.filter fun w => !(gangs.any fun g => g.id == w.gang) }
      let s := s.modSquad q.id fun x => x.put kind va ls
      let s := if kind = 3 then s.modCore q.core fun c => { c with swapouts := c.swapouts + 1 } else s
      let recs := (((lanesOf q.parkedLanes).map fun l => (q.lane l).frec).eraseDups)
      .ok (if kind = 2 then recs.foldl (fun s r => s.reportFault 2 q.launch q.core q.part (BitVec.ofNat 64 va) r) s else s)
  | .ok _, _, _ => .error (false, {})

/-- A save reads an accumulator word that is in error (R435): the launch ends, with a free value as ADDR. -/
def State.accLost (s : State) (q : Squad) : State :=
  let (v, s) := s.draw
  s.fatal q.launch q.core q.part [{ code := cUncorrectableMemory, eng := 0xF3, addr := v.setWidth 52 |>.setWidth 64 }]

/-- The second step of a save of one squad. -/
def State.finishSave (s : State) (q : Squad) : State :=
  if q.accErrs.any (·.2) then s.accLost q
  else
  match s.writeSquad q with
  | .ok s => s
  | .error (true, r) => s.fatal q.launch q.core q.part [r]
  | .error (false, r) => s.refuseSave q (q.saving.getD 1) r

/-- A save of a kind that one squad makes: it begins when it is due, unless one of its kind has been refused, and is written once the squad is
quiet. -/
def saveEvent (s : State) (squad kind : Nat) (due : State → Squad → Bool) : Result :=
  match s.squad? squad with
  | none => .next s
  | some q =>
    if q.roam || q.place != .resident then .next s
    else
      match q.saving with
      | none => if (q.refused && q.refKind == kind) || !due s q then .next s else .next (s.beginSave q kind)
      | some k => if k = kind ∧ s.quiesced q = true then .next (s.finishSave q) else .next s

/-- FAULT_SAVE (R39, R201). -/
def execFaultSave (squad : Nat) (s : State) : Result := saveEvent s squad 2 State.faultSaveDue
/-- SWAP_OUT (R363). -/
def execSwapOut (squad : Nat) (s : State) : Result := saveEvent s squad 3 State.swapOutDue

/-! ### The team frame (R30, R37) -/

/-- The 128 bytes of the named barriers (R265). -/
def barBytes (t : Team) : List Byte :=
  ((List.range 16).map fun b =>
    let x := t.bar b
    toBytes 8 ((if x.isOpen then x.expect.getD 0 else 0) + x.arrived * 2 ^ 16 + boolNat x.isOpen * 2 ^ 29 +
      boolNat (x.isOpen && x.expect.isNone) * 2 ^ 30)).flatten

/-- A barrier from its 8 bytes; its round goes on from the one that it had. -/
def barOf (old : Barrier) (v : Nat) : Barrier :=
  if bitOf v 29 then { isOpen := true, arrived := bitsOf v 28 16, expect := if bitOf v 30 then none else some (bitsOf v 12 0), round := old.round }
  else { round := old.round }

/-- Threads of a team: squad and lane of each, in ascending thread index. -/
def Team.threadList (t : Team) : List (Nat × Nat) := (List.range t.threads).map fun i => (i / 32, i % 32)

/-- The squad of a team that holds an index, while it has not retired. -/
def State.teamSquad (s : State) (team k : Nat) : Option Squad := s.squads.find? fun q => q.team == team && q.index == k && !q.roam

/-- The stack part: for each thread its mark and the bytes below it (R30). A thread whose squad has retired has no stack byte. -/
def State.stackPart (s : State) (t : Team) : List Byte :=
  let size := match s.launch? t.launch with | some l => (s.spaceOf l.handle).2.stack | none => 0
  (t.threadList.map fun x =>
    match s.teamSquad t.id x.1 with
    | some q =>
      let n := (q.lane x.2).hwm
      toBytes 8 n ++ toBytes 8 0 ++ s.mem.readBytes (sliceHome q.core (q.stk + x.2 * size)) n ++ toBytes (roundUp n 16 - n) 0
    | none => toBytes 16 0).flatten

/-- The header of a team frame, with SFRAME, up to 0x700. -/
def State.teamHeader (s : State) (t : Team) (size : Nat) : List Byte :=
  toBytes 1 1 ++ toBytes 3 0 ++ toBytes 4 t.nsquads ++ toBytes 8 t.launch.toNat ++ toBytes 8 t.index.toNat ++ toBytes 4 t.scratch ++
  toBytes 4 t.threads ++ toBytes 4 (0x700 + t.scratch) ++ toBytes 4 (0x780 + t.scratch) ++ toBytes 4 size ++ toBytes 1 t.cores.length ++
  toBytes 3 0 ++ toBytes 208 0 ++
  ((List.range 192).map fun k => toBytes 8 (match s.teamSquad t.id k with
    | some q => (match q.place with | .saved _ va => va.toNat | .resident => 0)
    | none => 0)).flatten

/-- Posted writes into a team's scratchpad that are still on their way arrive. -/
def State.settleScratch (s : State) (t : Team) : State :=
  (s.ents.filter fun (e : Ent) => e.pending && !(t.granules e.home e.post.len).isEmpty).foldl (fun s e => s.entHome e) s

/-- Step 4 of R37: the team frame is written; its fault otherwise. -/
def State.writeTeam (s : State) (t : Team) : Except FaultRec State :=
  let s := s.settleScratch t
  let t := (s.team? t.id).getD t
  let stack := s.stackPart t
  let size := roundUp (0x780 + t.scratch + stack.length) 256
  match s.allocFrame t.launch size none (some t.id) with
  | .error r => .error r
  | .ok (va, s) =>
    let parts := [(0, s.teamHeader t size)] ++
      ((sortBy (fun a b => decide (a ≤ b)) t.written).map fun g => (0x700 + 4096 * g, s.mem.readBytes (scratchSpot t (4096 * g)).1 4096)) ++
      [(0x700 + t.scratch, barBytes t), (0x780 + t.scratch, stack ++ toBytes (size - (0x780 + t.scratch + stack.length)) 0)]
    match parts.foldlM (fun (s : State) p => s.frameWrite t.launch (va + p.1) p.2) s with
    | .error e => .error e.updRec
    | .ok s => .ok (s.modTeam t.id fun x => { x with saved := some (BitVec.ofNat 64 va), refused := false, retry := false })

/-- The save of a team fails: it runs on as it stood before, its squads' frames are freed, and the first failure is reported. -/
def State.refuseTeam (before : State) (t : Team) (r : FaultRec) : State :=
  let mine := (before.squads.filter fun q => q.team == t.id && !q.roam && q.saving == some 1).map (·.id)
  let s := before.modTeam t.id fun x => { x with refused := true, refusal := r, retry := false }
  let s := { s with squads := s.squads.map fun (q : Squad) => if mine.contains q.id then { q with saving := none } else q }
  let s := s.freeFrames fun f => f.launch == t.launch && match f.squad with | some q => mine.contains q | none => false
  let s := s.modTeam t.id fun x => { x with retry := false }
  let q := s.squads.find? fun q => q.team == t.id && !q.roam
  if t.refused then s
  else s.reportFault 2 t.launch ((q.map (·.core)).getD (t.cores.getD 0 0xFFFF)) ((q.map (·.part)).getD 0) 0 r

/-- The pre-emption of a team begins: a frame for each resident squad, whose issue stops (R37); or it does not begin (R29). -/
def State.beginTeam (s : State) (team : Nat) : State :=
  match s.team? team with
  | none => s
  | some t =>
    let qs := s.squads.filter fun q => q.team == team && !q.roam && q.place == .resident && q.saving.isNone
    match qs.foldlM (fun (s : State) q =>
        match s.allocFrame q.launch q.layout.size (some q.id) none with
        | .ok (_, s) => Except.ok (s.modSquad q.id fun x => { x with saving := some 1, retry := false })
        | .error r => Except.error r) s with
    | .ok s => s.modTeam team fun x => { x with retry := false }
    | .error r => s.refuseTeam t r

/-- TEAM_SAVE: every resident squad of a pre-empted team is written, and then the team frame; a team whose squads have all been saved
for other reasons gets its team frame alone (R30, R363). -/
def execTeamSave (team : Nat) (s : State) : Result :=
  match s.team? team with
  | none => .next s
  | some t =>
    let qs := s.residents team
    let mine := s.squads.filter fun q => q.team == team && !q.roam
    if t.saved.isSome || t.retired || mine.isEmpty || s.teamBusy team then .next s
    else if t.refused && qs.isEmpty && !t.retry then .next s
    else if !qs.isEmpty && (t.preempt.isNone || qs.any fun q => q.saving.isNone || !s.quiesced q) then .next s
    else match qs.find? fun q => q.accErrs.any (·.2) with
    | some q => .next (s.accLost q)
    | none =>
      match qs.foldlM (fun (s : State) q => s.writeSquad ((s.squad? q.id).getD q)) s with
      | .error (true, r) =>
        let q := qs.headD { id := 0, launch := t.launch }
        .next (s.fatal t.launch q.core q.part [r])
      | .error (false, r) => .next (s.refuseTeam t r)
      | .ok s1 =>
        match s1.writeTeam ((s1.team? team).getD t) with
        | .error r => .next (s.refuseTeam t r)
        | .ok s1 =>
          let hold := match t.preempt with | some (_, h) => h | none => false
          .next ((s1.modTeam team fun x => { x with preempt := none, holdRel := hold }).preemptDone team true)

/-- SAVE_RETRY: a refused save is tried again once a frame has been freed or a RESUME or INVALIDATE given (R29). -/
def execSaveRetry (team squad : Nat) (s : State) : Result :=
  match s.squad? squad with
  | some q =>
    if !q.refused || !q.retry || q.place != .resident || q.saving.isSome || q.team != team then .next s
    else if s.faultSaveDue q then .next (s.beginSave q 2)
    else if s.swapOutDue q then .next (s.beginSave q 3)
    else .next (s.modSquad squad fun x => { x with retry := false, refused := false, refKind := 0 })
  | none =>
    match s.team? team with
    | some t =>
      if !t.refused || !t.retry || t.saved.isSome || t.retired then .next s
      else if (s.residents team).isEmpty then execTeamSave team s
      else if t.preempt.isNone then .next s
      else .next (s.beginTeam team)
    | none => .next s

/-! ### The check of a frame (R27) -/

/-- The byte offset of the first field for which a frame is refused. -/
def frameFault (q : Squad) (index : Word) (kind : Nat) (bs : List Byte) : Option Nat :=
  let f := fieldAt bs
  let m (off : Nat) : Lanes := BitVec.ofNat 32 (f off 4)
  let e := m 4
  let bad (b : Bool) (off : Nat) : Option Nat := if b then some off else none
  let lay := q.layout
  let areas := (List.range 8).map fun k => bad (f (0x90 + 4 * k) 4 != lay.areas.getD k 0) (0x90 + 4 * k)
  ([bad (f 0 1 != kind) 0, bad (f 1 1 != 1) 1, bad (f 2 2 != 0) 2, bad (m 8 &&& ~~~e != 0) 8, bad (m 0xC &&& ~~~e != 0) 0xC,
    bad (f 0x10 8 != q.launch.toNat) 0x10, bad (f 0x18 8 != index.toNat) 0x18, bad (f 0x20 2 != q.index) 0x20,
    bad (f 0x23 1 != q.vcore) 0x23, bad (f 0x24 2 != q.vregs) 0x24, bad (f 0x26 2 != q.sregs) 0x26, bad (f 0x28 1 != q.accs) 0x28,
    bad (f 0x29 1 != q.tiles) 0x29, bad (f 0x2A 2 != 0) 0x2A, bad (f 0x2D 3 != 0) 0x2D, bad (f 0x3C 4 != 0) 0x3C] ++ areas ++
   [bad (m 0xB0 &&& ~~~e != 0) 0xB0, bad (f 0xB4 4 != lay.handler) 0xB4,
    bad (m 0xB8 &&& ~~~e != 0 || m 0xB8 &&& (m 8 ||| m 0xC) != 0) 0xB8, bad (f 0xBC 68 != 0) 0xBC]).findSome? id

/-- The record of a refused frame. -/
def frameRec (frame off : Nat) : FaultRec :=
  { code := cLaunchRecord, eng := 0xF3, addr := BitVec.ofNat 64 frame, detail := BitVec.ofNat 64 (off % 256) }

/-! ### The restore of a squad (R38) -/

/-- A register file from 32-bit words. -/
def wordsFile (bs : List Byte) (off n : Nat) : RegFile :=
  (List.range n).filterMap fun k =>
    let v : W32 := BitVec.ofNat 32 (fieldAt bs (off + 4 * k) 4)
    if v = 0 then none else some (k, v)

/-- What a handler goes on with, rebuilt from its record and the clause header at its PC (R230). -/
def State.trapOf (s : State) (h : Word) (old : Option TrapCtx) (r : FaultRec) : TrapCtx :=
  let hdr := match s.frameRead h r.pc.toNat 8 with
    | some bs => BitVec.ofNat 64 (ofBytes bs)
    | none => (old.getD {}).hdr
  { regs := trapRegsOf hdr r.coff r.detail r.pc r.code r.lanes r.addr, frec := (old.getD {}).frec
    pc := r.pc, pos := r.coff, hdr := hdr, last := r.coff == (Header.ofWord hdr).len }

/-- A squad is loaded from the bytes of its frame, in a partition of a core, and its gangs form (R38, R225, R230). -/
def State.loadSquad (s : State) (q : Squad) (bs : List Byte) (core part stk : Nat) : State :=
  let f := q.layout
  let rd := fieldAt bs
  let m (off : Nat) : Lanes := BitVec.ofNat 32 (rd off 4)
  let exist := m 4
  let exited := m 0xB8
  let inh := m 0xB0
  let parked := m 8
  let hrec (l : Nat) : FaultRec := FaultRec.ofBytes ((bs.drop (f.handler + 32 * l)).take 32)
  let lanes := (List.range 32).map fun l =>
    if !exist.getLsbD l then ({} : Lane)
    else
      let x := q.lane l
      let y : Lane := { wid := x.wid, hwm := x.hwm, due := x.due, p := BitVec.ofNat 24 (rd (f.pred + 4 * l) 4), ff := BitVec.ofNat 5 (rd (0x50 + l) 1) }
      { y with
        st := if exited.getLsbD l then .exited else .run
        v := (List.range q.vregs).filterMap fun k =>
          let v : W32 := BitVec.ofNat 32 (rd (f.vec + 128 * k + 4 * l) 4)
          if v = 0 then none else some (k, v) }
  let live := lanesOf (exist &&& ~~~exited)
  let key (l : Nat) : Word × Nat × Option FaultRec :=
    (BitVec.ofNat 64 (rd (0x100 + 8 * l) 8), rd (0x70 + l) 1, if inh.getLsbD l then some (hrec l) else none)
  let groups := live.foldl (fun (acc : List ((Word × Nat × Option FaultRec) × Lanes)) l =>
    if acc.any fun y => y.1 == key l then acc.map fun y => if y.1 == key l then (y.1, y.2 ||| lanesMask [l]) else y
    else acc ++ [(key l, lanesMask [l])]) []
  let held := (lanesOf (exist &&& ~~~parked)).filterMap fun l =>
    let r := FaultRec.ofBytes ((bs.drop (f.fault + 32 * l)).take 32)
    if r.code = 0 then none else some (classOfEng r.eng, r)
  let s := s.modSquad q.id fun x =>
    let y : Squad := { x with core := core, part := part, stk := stk, place := .resident, saving := none, refused := false, retry := false }
    { y with
      eligible := false, swapWord := none
      lanes := lanes
      u := wordsFile bs f.uni q.sregs
      acc := wordsFile bs f.acc (4096 * q.accs)
      td := (List.range q.tiles).filterMap fun k =>
        let v : TileDesc := BitVec.ofNat 128 (rd (f.tile + 16 * k) 16)
        if v = 0 then none else some (k, v)
      rj := (List.range 8).map fun j => { e := m (f.rj + 8 * j), a := m (f.rj + 8 * j + 4) }
      held := held
      budget := match s.launch? q.launch with | some l => l.r.budget | none => 0 }
  groups.foldl (fun s g =>
    let (n, s) := s.fresh
    let trap := match g.1.2.2 with
      | some r => s.trapOf q.launch ((q.lane (lowest g.2)).htrap) r
      | none => {}
    let gang : Gang := { id := n, squad := q.id, lanes := g.2, pc := g.1.1, entry := s.now, ready := s.now, handler := g.1.2.2.isSome }
    { s with gangs := s.gangs ++ [{ gang with trap := trap, resume := g.1.2.1, skipCmp := decide (0 < g.1.2.1) }] }) s

/-- The double-bit error that a read of a frame meets, which ends the launches that use it; single-bit errors are corrected (R435). -/
def State.frameErr (s : State) (h : Word) (va n : Nat) : Option Nat :=
  match frameRange s h false va n with | .ok ps => s.eccPieces ps | .error _ => none
def State.frameFix (s : State) (h : Word) (va n : Nat) : State :=
  match frameRange s h false va n with | .ok ps => s.eccFix ps | .error _ => s
def State.frameLost (s : State) (h : Word) (core part word : Nat) : State := s.eccFatal h core part 0xF3 0 0 0 word

/-- The frame of a saved squad is read and checked: its bytes, or the launch ends (R27, R435). A frame that the tables no longer reach is
not read. -/
def State.readSquad (s : State) (q : Squad) : Except State (List Byte) :=
  match q.place, s.team? q.team with
  | .saved kind frame, some t =>
    match s.frameRead q.launch frame.toNat q.layout.size with
    | none => .error s
    | some bs =>
      match s.frameErr q.launch frame.toNat q.layout.size with
      | some w => .error (s.frameLost q.launch q.core q.part w)
      | none =>
      match frameFault q t.index kind bs with
      | some off => .error (s.fatal q.launch q.core q.part [frameRec frame.toNat off])
      | none => .ok bs
  | _, _ => .error s

/-- After a restore the rounds of its rejoin masks are evaluated (R224) and its frame is free (R29). -/
def State.restored (s : State) (q : Squad) : State :=
  let s := s.rejoinEval q.id
  match q.place with
  | .saved _ frame => (s.frameFix q.launch frame.toNat q.layout.size).freeFrame q.launch frame.toNat
  | .resident => s

/-- A squad saved alone returns to its own virtual core, while its team has not been saved (R39, R363). -/
def restoreAlone (s : State) (squad kind : Nat) : Result :=
  match s.squad? squad with
  | none => .next s
  | some q =>
    match q.place, s.team? q.team, s.launch? q.launch with
    | .saved k _, some t, some l =>
      let words := l.r.footprint
      if k != kind || !q.restorable || s.eventHeld q || t.saved.isSome || s.preempting t then .next s
      else
        match s.chooseFrom (s.partsFor q.core q.team l.r.urgent words l.r.accs) with
        | none => .next s
        | some (p, s) =>
          match s.readSquad q with
          | .error s => .next s
          | .ok bs => .next ((s.loadSquad q bs q.core p q.stk).restored q)
    | _, _, _ => .next s

/-- FAULT_RESTORE (R39, R201). -/
def execFaultRestore (squad : Nat) (s : State) : Result := restoreAlone s squad 2
/-- SWAP_IN (R363). -/
def execSwapIn (squad : Nat) (s : State) : Result := restoreAlone s squad 3

/-! ### The restore of a team (R38) -/

/-- The offset of the first field for which a team frame is refused, given its first 0x700 bytes, the barrier part and the end of the
stack part (R30). -/
def teamFault (t : Team) (bs bars : List Byte) (stackEnd : Nat) : Option Nat :=
  let f := fieldAt bs
  let bad (b : Bool) (off : Nat) : Option Nat := if b then some off else none
  ([bad (f 1 3 != 0) 1, bad (f 0x20 4 != 0x700 + t.scratch) 0x20, bad (f 0x24 4 != 0x780 + t.scratch) 0x24,
    bad (f 0x28 4 != roundUp stackEnd 256) 0x28, bad (f 0x2D 3 != 0) 0x2D, bad (f 0x30 208 != 0) 0x30] ++
   (List.range 16).map fun b =>
     let v := fieldAt bars (8 * b) 8
     bad (bitsOf v 15 13 != 0 || bitsOf v 63 31 != 0) (0x700 + t.scratch + 8 * b)).findSome? id

/-- The marks of the threads, read from their stack headers in order, and the end of the stack part. -/
def stackMarks (s : State) (h : Word) (at0 n : Nat) : List (Nat × Nat) × Nat :=
  (List.range n).foldl (fun (acc : List (Nat × Nat) × Nat) _ =>
    let k := match s.frameRead h acc.2 8 with | some bs => ofBytes bs | none => 0
    (acc.1 ++ [(acc.2 + 16, k)], acc.2 + 16 + roundUp k 16)) ([], at0)

/-- A held update of a word in the saved team's scratchpad keeps the team from its restore (R437). -/
def State.heldInTeam (s : State) (team : Nat) : Bool :=
  s.upds.any fun u => u.held.isSome && u.team == team && apertureOf u.va.toNat == .scratch

/-- The squads of a team take places on its new cores, with room for their stacks; what each one takes. -/
def State.seats (s : State) (l : Launch) (cores : List Nat) (qs : List Squad) : Option (List (Squad × Nat × Nat × Nat) × State) :=
  let r := qs.foldlM (fun (acc : List (Squad × Nat × Nat × Nat) × State) q => do
    let core := cores.getD q.vcore 0
    let (p, s) ← acc.2.chooseFrom (acc.2.partsFor core q.team l.r.urgent l.r.footprint l.r.accs)
    let stk ← s.stackRoom core (32 * (s.spaceOf l.handle).2.stack)
    pure (acc.1 ++ [(q, core, p, stk)], s.modSquad q.id fun x => { x with core := core, part := p, stk := stk, place := .resident }))
    ([], s)
  r.map fun x => (x.1, { s with free := x.2.free })

/-- Scratchpad granules, barriers and stacks of a team return from its frame. -/
def State.copyTeam (s : State) (t : Team) (frame : Nat) (bars : List Byte) (marks : List (Nat × Nat)) : State :=
  let s := t.written.foldl (fun s g =>
    match s.frameRead t.launch (frame + 0x700 + 4096 * g) 4096 with
    | some bs => s.writeHome (scratchSpot t (4096 * g)).1 bs false
    | none => s) s
  let s := s.modTeam t.id fun x => { x with bars := (List.range 16).map fun b => barOf (t.bar b) (fieldAt bars (8 * b) 8) }
  let size := (s.spaceOf t.launch).2.stack
  (t.threadList.zip marks).foldl (fun s x =>
    match s.teamSquad t.id x.1.1 with
    | some q =>
      let s := s.modSquad q.id fun y => y.modLane x.1.2 fun z => { z with hwm := x.2.2 }
      (match s.frameRead t.launch x.2.1 (min x.2.2 size) with
       | some bs => s.writeHome (sliceHome q.core (q.stk + x.1.2 * size)) bs false
       | none => s)
    | none => s) s

/-- The streams of a restored team go on on the cores that have taken the place of theirs; those beyond the four that a core runs wait (R291). -/
def State.moveStreams (s : State) (team : Nat) (old new : List Nat) : State :=
  (s.streams.filter fun y => y.team == team).foldl (fun (s : State) x =>
    let core := new.getD (old.idxOf x.core) x.core
    let s := { s with streams := s.streams.map fun (y : Stream) => if y.id = x.id then { y with core := core, waiting := true } else y }
    if 4 ≤ s.streamsOn core then s
    else { s with streams := s.streams.map fun (y : Stream) => if y.id = x.id then { y with waiting := false } else y }) s

/-- TEAM_RESTORE: a saved team that may return does so on cores of its own group, when every squad of it can be resident (R38). -/
def execTeamRestore (team : Nat) (s : State) : Result :=
  match s.team? team with
  | none => .next s
  | some t =>
    match t.saved, s.launch? t.launch with
    | some frame, some l =>
      if !s.mayReturn t || s.firstIn t.group != some l || s.returning l.handle t.group != some t || s.heldInTeam team then .next s
      else
        let qs := sortBy (fun (a b : Squad) => decide ((squadOrder l.r).idxOf a.index ≤ (squadOrder l.r).idxOf b.index))
          (s.squads.filter fun q => q.team == team && !q.roam)
        let cores := s.teamCores t.group l.r.ncore
        match s.teamBases cores l.r.scratch with
        | none => .next s
        | some (bases, s1) =>
          match s1.seats l cores qs with
          | none => .next s
          | some (seats, s1) =>
            match s.frameRead t.launch frame.toNat 0x700, s.frameRead t.launch (frame.toNat + 0x700 + t.scratch) 128 with
            | some head, some bars =>
              let (marks, stackEnd) := stackMarks s t.launch (frame.toNat + 0x780 + t.scratch) t.threads
              (match s.frameErr t.launch frame.toNat (stackEnd - frame.toNat) with
               | some w => .next (s.frameLost t.launch (t.cores.getD 0 0) 0 w)
               | none =>
               match teamFault t head bars (stackEnd - frame.toNat) with
               | some off => .next (s.fatal t.launch (t.cores.getD 0 0) 0 [frameRec frame.toNat off])
               | none =>
                 match seats.foldlM (fun (acc : List (List Byte)) x => (s.readSquad x.1).map fun bs => acc ++ [bs]) [] with
                 | .error s => .next s
                 | .ok frames =>
                   let s2 := s1.modTeam team fun x => { x with saved := none, cores := cores, base := bases }
                   let s2 := (seats.zip frames).foldl (fun s x => s.loadSquad x.1.1 x.2 x.1.2.1 x.1.2.2.1 x.1.2.2.2) s2
                   let s2 := s2.copyTeam ((s2.team? team).getD t) frame.toNat bars marks
                   let s2 := s2.moveStreams team t.cores cores
                   let s2 := (s2.frameFix t.launch frame.toNat (stackEnd - frame.toNat)).freeFrame t.launch frame.toNat
                   .next (qs.foldl (fun s q => s.restored q) s2))
            | _, _ => .next s
    | _, _ => .next s

/-! ### Shadow contexts (R36) -/

/-- No gang of a bank is within a clause and able to issue. -/
def State.bankQuiet (s : State) (core part : Nat) (shadow : Bool) : Bool :=
  (s.gangsOf core part shadow).all fun x => x.1.phase != .body || x.1.wait != .none || !x.1.block.isEmpty

/-- The partition changes its context: for 40 cy neither issues; latches are lost (R25), and the no-progress count restarts (R47). -/
def State.swapBank (s : State) (core part : Nat) (toShadow : Bool) : State :=
  let gs := (s.gangsOf core part (!toShadow)).map (·.1)
  let s := gs.foldl (fun s g => s.clearLatches g) s
  s.modPart core part fun p => { p with shadow := toShadow, swapAt := s.now + 40, issued := s.now + 40, ports := [], reported := false }

/-- SHADOW_SWAP: an urgent squad is resident in the shadow bank of a partition whose primary context runs. -/
def execShadowSwap (core part : Nat) (s : State) : Result :=
  if (s.part core part).shadow || !s.bankQuiet core part false || decide (s.now < (s.part core part).swapAt) ||
      !(s.squads.any fun q => q.core == core && q.part == part && q.shadow && q.place == .resident && q.liveLanes != 0) then .next s
  else .next (s.swapBank core part true)

/-- SHADOW_SWAP_BACK: the last urgent gang of the partition has exited or been saved. -/
def execShadowSwapBack (core part : Nat) (s : State) : Result :=
  if !(s.part core part).shadow ||
      (s.squads.any fun q => q.core == core && q.part == part && q.shadow && q.place == .resident && q.liveLanes != 0) then .next s
  else .next (s.swapBank core part false)

end Sys2Proof.Machine
end

