-- ==== Sys2Proof/Machine/Host.lean ====
section
/-!
DEFINITION. The command processor (R47, R409 to R425): the host's registers and doorbells, the commands of the submission queues, the
graphs, and the no-progress event.
-/
namespace Sys2Proof.Machine

/-! ### Functions and their registers (R410, R415) -/

/-- One of the 17 functions; a function that nothing has configured stands as part reset leaves it. -/
def State.withFn (s : State) (n : Nat) : State :=
  if 16 < n ∨ (s.fn? n).isSome then s else { s with fns := s.fns ++ [{ id := n }] }

/-- The host reaches a function: the link is up and configuration requests are answered; in recovery the physical function alone
(R433, R434). -/
def State.hostSees (s : State) (fn : Nat) : Bool :=
  s.boot.pcie && (if s.boot.recovery then fn == 0 else decide (3 ≤ s.boot.step))

/-- A write to the word at 0x040: ENABLE, and QERR as W1C. From 0 to 1 the admin queue and the event ring restart. -/
def State.writeEnable (s : State) (fn : Nat) (v : W32) : State :=
  (s.withFn fn).modFn fn fun f =>
    let f := if v.getLsbD 2 then { f with qerr := false } else f
    if !v.getLsbD 0 then { f with enable := false, ready := false }
    else if f.enable then f
    else
      let ok := decide (4 ≤ f.aqlog.toNat ∧ f.aqlog.toNat ≤ 16)
      let up := decide (5 ≤ s.boot.step)
      let q : Queue := { q := 0, ring := f.aqbase.toNat, cring := f.acbase.toNat, log := f.aqlog.toNat }
      { f with
        enable := true, ready := ok && up, evhead := 0, evtail := 0
        queues := (if ok then [q] else []) ++ f.queues.filter fun x => x.q != 0 }

/-- ENABLE_WRITE: the word at 0x040 is written with ENABLE = v, and a 0 to QERR. -/
def execEnableWrite (fn : Nat) (v : Bool) (s : State) : Result :=
  .next (if s.hostSees fn then s.writeEnable fn (if v then 1 else 0) else s)

/-- QERR_CLEAR: a 1 is written to QERR, and ENABLE as it stands. -/
def execQerrClear (fn : Nat) (s : State) : Result :=
  let e := match s.fn? fn with | some f => f.enable | none => false
  .next (if s.hostSees fn then s.writeEnable fn (if e then 5 else 4) else s)

/-- EVHEAD_WRITE. -/
def execEvheadWrite (fn : Nat) (v : W32) (s : State) : Result :=
  .next (if s.hostSees fn then (s.withFn fn).modFn fn fun f => { f with evhead := v } else s)

/-- A write to another RW register of a function; writes to RO registers are without effect. -/
def State.writeFnReg (s : State) (fn off : Nat) (v : Word) : State :=
  (s.withFn fn).modFn fn fun f =>
    match off with
    | 0x010 => { f with aqbase := v }
    | 0x018 => { f with acbase := v }
    | 0x020 => { f with aqlog := v.setWidth 5 }
    | 0x028 => { f with evbase := v }
    | 0x030 => { f with evlog := v.setWidth 5 }
    | _ => f

/-- DOORBELL_WRITE (R415): a tail that moves backwards, or more than 2^n entries past the head, stops the queue. Tails and heads count
on without wrapping at the ring's end (notes/assumptions/43.md). -/
def execDoorbellWrite (fn q : Nat) (tail : W32) (s : State) : Result :=
  match s.queue? fn q with
  | none => .next s
  | some x =>
    if x.stopped || !s.hostSees fn then .next s
    else
      let old : W32 := BitVec.ofNat 32 x.tail
      let past := (tail - BitVec.ofNat 32 x.head).toNat
      if (tail - old).msb ∨ 2 ^ x.log < past then
        .next (((s.modQueue fn q fun y => { y with stopped := true }).modFn fn fun f =>
            { f with qerr := true, ready := f.ready && q != 0 }).report
          { fn := fn, kind := 5, frame := BitVec.ofNat 64 q })
      else .next (s.modQueue fn q fun y => { y with tail := tail.toNat })

/-! ### The start of a command (R413, R414, R416) -/

def opListed (op : Nat) : Bool := decide (1 ≤ op ∧ op ≤ 0x0A) || decide (0x10 ≤ op ∧ op ≤ 0x14)
def opAdmin (op : Nat) : Bool := decide (0x10 ≤ op)

/-- The next entry of the queue that the event names: its function, queue and 64 bytes. -/
def State.headEntry? (s : State) : Option (Fn × Queue × List Byte) :=
  match s.fn? s.cmdSel.1, s.queue? s.cmdSel.1 s.cmdSel.2 with
  | some f, some q =>
    if f.enable && !q.stopped && q.head != q.tail && decide (5 ≤ s.boot.step) && !s.boot.recovery then
      some (f, q, s.mem.readBytes (hostHome (q.ring + 64 * (q.head % 2 ^ q.log))) 64)
    else none
  | _, _ => none

/-- A command completes with status 2 and has no effect. DETAIL is as R416 gives it for no effect, and a free value where it does not
say. -/
def State.refuseCmd (s : State) (c : Cmd) : State :=
  if c.op = 0x02 then s.finishCmd c.id 2 0xFFFF
  else if c.op = 0x01 ∨ c.op = 0x05 ∨ opListed c.op = false then let (v, s) := s.draw; s.finishCmd c.id 2 v.toNat
  else s.finishCmd c.id 2 0

/-- The command processor starts the next entry of the queue, when it is the command op. An entry that no command names is refused. -/
def cmdEvent (op : Nat) (k : Cmd → State → State) (s : State) : Result :=
  match s.headEntry? with
  | none => .next s
  | some (f, q, bs) =>
    let o := fieldAt bs 0 1
    let flags := fieldAt bs 1 1
    if (o != op && opListed o) || (bitOf flags 0 && s.cmds.any fun c => c.fn == f.id && c.q == q.q && c.parent.isNone) then .next s
    else
      let (n, s) := s.fresh
      let head := (q.head + 1) % 2 ^ 32
      let c : Cmd := { id := n, fn := f.id, q := q.q, op := o, tag := BitVec.ofNat 16 (fieldAt bs 2 2), irq := bitOf flags 1,
                       asc := fieldAt bs 4 4 % 64, p := (List.range 7).map (fun k => BitVec.ofNat 64 (fieldAt bs (8 + 8 * k) 8)),
                       head := head, since := s.now }
      let s := { (s.modQueue f.id q.q fun y => { y with head := head }) with cmds := s.cmds ++ [c] }
      if !opListed o || flags / 4 != 0 || fieldAt bs 4 4 / 64 != 0 || (opAdmin o && q.q != 0) || (o == 0x13 && f.id != 0) then
        .next (s.refuseCmd c)
      else .next (k c s)

def Cmd.arg (c : Cmd) (k : Nat) : Word := c.p.getD k 0

/-- The translation of a command's range: one that no link of the package leads to from die 0 ends the command with LINK_LOST (R429; notes/assumptions/77.md). -/
def linkChecked (s : State) (va : Nat) (r : Except EngFault (List (Nat × Nat))) : Except EngFault (List (Nat × Nat)) :=
  match r with
  | .ok ps => if ps.any fun p => !homeIsFar p.1 && !s.joined 0 (homeDie p.1) then .error { code := cLinkLost, addr := va } else .ok ps
  | .error e => .error e

/-- A range of the context of a command's entry (R416): the global aperture alone. -/
def cmdRange (s : State) (c : Cmd) (write : Bool) (va n align : Nat) : Except EngFault (List (Nat × Nat)) :=
  let f := (s.fn? c.fn).getD { id := c.fn }
  let a := (s.asc? c.fn c.asc).getD { id := c.asc }
  let r : Except EngFault (List (Nat × Nat)) := eccChecked s write <|
    if apertureOf va != .global then .error { code := cAperture, reason := if apertureOf va = .none then 0 else 4, addr := va }
    else if n != 0 && apertureOf (va + n - 1) != .global then .error { code := cAperture, reason := 3, addr := va }
    else
      (rangePieces va n (n / 4096 + 2)).foldlM (fun acc p =>
        match pageNow s f a p.1 with
        | .ok home w => if write && !w then .error { code := cPermission, addr := p.1 } else .ok (acc ++ [(home, p.2)])
        | .miss => .error { code := 0, addr := p.1 }
        | .fault code reason l => .error { code := code, reason := reason, level := l, addr := p.1 }) []
  if va % align = 0 then linkChecked s va r
  else
    match r with
    | .error e => if e.code = cPageNotPresent then .error { code := cMisaligned, addr := va } else .error e
    | .ok _ => .error { code := cMisaligned, addr := va }

/-- The word that a SIGNAL or a WAIT names: in the global aperture, or a sync word in a vault of a core that the function owns on die 0, whose
lateral-vault aperture the command processor uses (R54, R260; notes/assumptions/75.md). -/
def cmdWord (s : State) (c : Cmd) (write : Bool) (va n : Nat) : Except EngFault (List (Nat × Nat)) :=
  if apertureOf va = .lateral then
    match latFor s ((s.fn? c.fn).getD { id := c.fn }) 0 (va - latBase) with
    | .vault home _ => if va % n = 0 then eccChecked s write (.ok [(home, n)]) else .error { code := cMisaligned, addr := va }
    | _ => .error { code := cAperture, reason := 5, addr := va }
  else cmdRange s c write va n n

/-- A fault ends the command with status 1 and an event; an error in memory also ends the launches that use it (R435). -/
def State.cmdFault (s : State) (c : Cmd) (e : EngFault) (write : Bool) : State :=
  let s := if e.code = cUncorrectableMemory then s.eccEnd c.fn c.asc 0xFFFF 0 (e.toRec 0 0 0 0 write) else s
  let s := s.report { fn := c.fn, kind := 1, handle := c.handle, frec := e.toRec 0 0 0 0 write }
  if c.op = 0x02 then s.finishCmd c.id 1 0xFFFF
  else if c.op = 0x01 ∨ c.op = 0x05 then let (v, s) := s.draw; s.finishCmd c.id 1 v.toNat
  else s.finishCmd c.id 1 0

/-- Writes at home over the pieces of a range. -/
def State.cmdWrite (s : State) (ps : List (Nat × Nat)) (bs : List Byte) : State :=
  (ps.foldl (fun (acc : State × List Byte) p => (acc.1.writeHome p.1 (acc.2.take p.2) false, acc.2.drop p.2)) (s, bs)).1

/-! ### LAUNCH, COPY, SIGNAL, WAIT (R416) -/

/-- The record is copied and its words are read; the launch goes to the intake of die 0. -/
def startLaunch (c : Cmd) (s : State) : State :=
  let p1 := (c.arg 1).toNat
  let ok := p1 = 0 || match cmdRange s c true p1 8 8 with | .ok _ => true | .error _ => false
  if !ok then s.refuseCmd c
  else
    match cmdRange s c false (c.arg 0).toNat 128 128 with
    | .error e => s.cmdFault c e false
    | .ok ps =>
      let bs := readPieces s.mem ps
      let (h, s) := s.newHandle
      let (n, s) := s.fresh
      let s := s.modCmd c.id fun x => { x with handle := h }
      let l : Launch := { handle := h, die := 0, fn := c.fn, asc := c.asc, r := LaunchRec.ofBytes bs, cmd := some c.id }
      let rd := readsOf { s with launches := s.launches ++ [l] } l
      { s with pendLaunch := s.pendLaunch ++ [{
          id := n, core := 384, die := 0, op := none, fn := c.fn, asc := c.asc, addr := c.arg 0, handle := h, bytes := some bs,
          ready := s.now, cmd := some c.id, reads := some rd }] }

/-- The bytes are read and written in one step of the model. -/
def startCopy (c : Cmd) (s : State) : State :=
  let n := (c.arg 2).toNat
  if n % 16 != 0 then s.refuseCmd c
  else
    match cmdRange s c false (c.arg 0).toNat n 1 with
    | .error e => s.cmdFault c e false
    | .ok src =>
      match cmdRange s c true (c.arg 1).toNat n 1 with
      | .error e => s.cmdFault c e true
      | .ok dst => (s.cmdWrite dst (readPieces s.mem src)).finishCmd c.id 0 0

/-- Mode 0 stores 64 bits, as a program's store does (R263); mode 1 adds to a word, in one step at its home (R261). -/
def startSignal (c : Cmd) (s : State) : State :=
  let mode := (c.arg 2).getLsbD 0
  match cmdWord s c true (c.arg 0).toNat (if mode then 16 else 8) with
  | .error e => s.cmdFault c e true
  | .ok ps =>
    let home := (ps.headD (0, 0)).1
    let k : UpdKind := .add ((c.arg 1).toNat % 2 ^ 40)
    match if mode then s.eccPieces ps else none with
    | some w => s.cmdFault c { code := cUncorrectableMemory, addr := w % 2 ^ 52 } true
    | none =>
      let s :=
        if mode then
          let s := (s.eccFix ps).writeHome home (updBytes s.mem k home).2 false (updMoves s.mem k home)
          if homeIsVault home then s.modCore (homeCore home) fun x => { x with syncops := x.syncops + 1 } else s
        else s.writeHome home (toBytes 8 (c.arg 1).toNat) (homeIsVault home)
      (s.noteWritten home (if mode then 16 else 8)).finishCmd c.id 0 0

/-- The value that a WAIT reads, when its condition holds. -/
def waitValue (m : Memory) (c : Cmd) (home : Nat) : Option Nat :=
  if (c.arg 2).getLsbD 0 then
    let v := m.readN home 8
    if (c.arg 1).toNat ≤ v then some v else none
  else
    let g := swGen (m.readN home 16)
    if g = (c.arg 1).toNat % 2 ^ 32 then none else some g

def startWait (c : Cmd) (s : State) : State :=
  let n := if (c.arg 2).getLsbD 0 then 8 else 16
  match cmdWord s c false (c.arg 0).toNat n with
  | .ok ((home, _) :: _) =>
    (match waitValue s.mem c home with
     | some v => s.finishCmd c.id 0 v
     | none => s.modCmd c.id fun x => { x with waits := [home] })
  | .ok [] => s
  | .error e => s.cmdFault c e false

/-- CMD_LAUNCH. -/
def execCmdLaunch (s : State) : Result := cmdEvent 0x01 startLaunch s
/-- The COPY command. -/
def execCmdCopy (s : State) : Result := cmdEvent 0x03 startCopy s
/-- SIGNAL. -/
def execSignal (s : State) : Result := cmdEvent 0x04 startSignal s
/-- The WAIT command. -/
def execCmdWait (s : State) : Result := cmdEvent 0x05 startWait s

/-- WAIT_REEVALUATE: a WAIT whose condition holds completes. -/
def execWaitReevaluate (cmd : Nat) (s : State) : Result :=
  match s.cmd? cmd with
  | some c =>
    (match c.op, c.waits with
     | 0x05, home :: _ => .next (match waitValue s.mem c home with | some v => s.finishCmd c.id 0 v | none => s)
     | _, _ => .next s)
  | none => .next s

/-! ### GRAPH (R418) -/

/-- Nodes that resolve, round after round, when every edge is taken. -/
def graphOrder (g : List Byte) (n fuel : Nat) (done : List Nat) : List Nat :=
  match fuel with
  | 0 => done
  | k + 1 =>
    let refs (i : Nat) : Nat := (done.map fun d => ((nodeSucc g d ++ nodeFsucc g d).filter fun t => t == i).length).sum
    let new := (List.range n).filter fun i => !done.contains i && refs i == nodePreds g i
    if new.isEmpty then done else graphOrder g n k (done ++ new)

/-- The checks of a graph: fields, indices, predecessor counts, cycles. -/
def graphOk (g : List Byte) (n : Nat) : Bool :=
  let all := (List.range n).flatMap fun i => nodeSucc g i ++ nodeFsucc g i
  decide (n ≤ 4096) &&
  ((List.range n).all fun i =>
    decide (nodeKind g i ≤ 5) && nodeField g i 1 1 == 0 && decide (nodeField g i 2 2 < 8192) && nodeField g i 4 4 == 0 &&
    (nodeKind g i == 2 || (nodeFsucc g i).isEmpty) && nodePreds g i == (all.filter fun t => t == i).length) &&
  (all.all fun t => decide (t < n)) && (graphOrder g n n []).length == n

def startGraph (c : Cmd) (s : State) : State :=
  let n := (c.arg 1).toNat % 8192
  match cmdRange s c false (c.arg 0).toNat (64 * n) 64 with
  | .error e => s.cmdFault c e false
  | .ok ps =>
    let g := readPieces s.mem ps
    if !graphOk g n then s.refuseCmd c
    else (s.modCmd c.id fun x => { x with graph := g, nodes := List.replicate n (.waiting, 0, 0) }).graphCheck c.id

/-- GRAPH. -/
def execGraph (s : State) : Result := cmdEvent 0x02 startGraph s

/-- A node resolves. -/
def State.resolveNode (s : State) (cmd node : Nat) (ok value : Bool) : State :=
  (s.modCmd cmd fun x => x.nodeDone node ok value).graphCheck cmd

/-- GRAPH_NODE_READY: every predecessor has resolved and one has completed; the node runs as the command that its kind names. -/
def execGraphNodeReady (cmd node : Nat) (s : State) : Result :=
  match s.cmd? cmd with
  | none => .next s
  | some c =>
    match c.nodes[node]? with
    | some (.waiting, resolved, taken) =>
      if resolved != nodePreds c.graph node || (nodePreds c.graph node != 0 && taken == 0) then .next s
      else
        let s := s.modCmd cmd fun x => x.setNode node .running
        let kind := nodeKind c.graph node
        let p := (List.range 3).map fun k => BitVec.ofNat 64 (nodeField c.graph node (8 + 8 * k) 8)
        if kind = 0 then .next (s.resolveNode cmd node true false)
        else if kind = 2 then
          match cmdRange s c false (p.getD 0 0).toNat 8 8 with
          | .ok ps => .next (s.resolveNode cmd node true (ofBytes (readPieces s.mem ps) != 0))
          | .error e =>
            .next ((s.report { fn := c.fn, kind := 1, frec := e.toRec 0 0 0 0 false }).resolveNode cmd node false false)
        else
          let (n, s) := s.fresh
          let d : Cmd := { id := n, fn := c.fn, q := c.q, op := if kind = 1 then 0x01 else kind, tag := c.tag, irq := false, asc := c.asc,
                           p := p, head := c.head, parent := some (cmd, node), since := s.now }
          let s := { s with cmds := s.cmds ++ [d] }
          .next (match kind with
            | 1 => startLaunch d s
            | 3 => startCopy d s
            | 4 => startSignal d s
            | _ => startWait d s)
    | _ => .next s

/-! ### INVALIDATE and RESUME (R63, R419, R420) -/

/-- Two ranges meet. -/
def meet (a n b m : Nat) : Bool := decide (a < b + m) && decide (b < a + n)

/-- A launch of a context. -/
def State.inSpace (s : State) (fn asc : Nat) (h : Word) : Bool :=
  match s.launch? h with | some l => l.fn == fn && l.asc == asc | none => false

/-- What an INVALIDATE waits for is still there: a walk, an access, an operation, an open context. -/
def State.lives (s : State) (n : Nat) : Bool :=
  (s.walks.any fun w => w.id == n) || (s.reqs.any fun r => r.id == n) || (s.ents.any fun e => (e.id == n || e.op == some n) && e.pending) ||
  (s.ops.any fun o => o.id == n && !o.done) || s.dies.any fun d => d.ctxs.any fun c => c.2.isOpen && c.2.tag == n

/-- TLB entries and cached lines go, and a line on its way through one is not kept (R63). What may have been translated through one of them is
awaited: every walk and every access of the context outside the vaults that is outstanding, for an entry may have made room for another
since, and the operations, streams and open contexts that hold translations of the range, with the writes that they have posted. -/
def startInvalidate (c : Cmd) (s : State) : State :=
  let lo := (c.arg 0).toNat
  let n := (c.arg 1).toNat
  let key := ascKey c.fn c.asc
  let gone := s.tlb.filter fun e => e.asc == key && meet e.va e.size lo n
  let hit (home k : Nat) : Bool := gone.any fun e => meet home k e.pa e.size
  let mayHit (h : Word) (home k : Nat) : Bool := !homeIsVault home && (s.inSpace c.fn c.asc h || hit home k)
  let waits :=
    ((s.walks.filter fun w => w.asc == key).map (·.id)) ++
    ((s.reqs.filter fun r => r.pieces.any fun p => mayHit r.launch p.home p.n).map (·.id)) ++
    ((s.ents.filter fun e => e.pending && mayHit e.launch e.home e.post.len).map (·.id)) ++
    ((s.ops.filter fun (o : EngOp) => o.inProgress && s.inSpace c.fn c.asc o.launch &&
      (o.rd ++ o.wr).any fun p => meet p.1 4096 lo n).map (·.id)) ++
    (s.dies.flatMap fun d => (d.ctxs.filter fun x => x.2.isOpen && x.2.fn == c.fn && x.2.asc == c.asc &&
      x.2.trans.any fun p => meet p.1 4096 lo n).map fun x => x.2.tag)
  let mine (g : Gang) : Bool := match s.squad? g.squad with | some q => s.inSpace c.fn c.asc q.launch | none => false
  let dead (asc va : Nat) : Bool := asc == key && meet (va / 2 ^ 30 * 2 ^ 30) (2 ^ 30) lo n
  let s := { s with
    tlb := s.tlb.filter fun e => !(e.asc == key && meet e.va e.size lo n)
    reqs := s.reqs.map fun (r : Req) => if r.fill.any fun (x : Nat × Nat × Nat) => dead x.1 x.2.1 then { r with fill := none } else r
    lines := s.lines.filter fun x => !dead x.asc x.va
    ops := s.ops.map fun (o : EngOp) =>
      { o with tr := o.tr.filter fun e => !(e.asc == key && meet e.va e.size lo n), wfault := if s.inSpace c.fn c.asc o.launch then [] else o.wfault }
    streams := s.streams.map fun (x : Stream) =>
      { x with tr := x.tr.filter fun e => !(e.asc == key && meet e.va e.size lo n), wfault := if s.inSpace c.fn c.asc x.launch then [] else x.wfault }
    gangs := s.gangs.map fun (g : Gang) =>
      if mine g then { g with wfault := [], words := if g.phase = Phase.body then g.words else [] } else g }
  let s := (s.wakeSaves c.fn c.asc).modCmd c.id fun x => { x with waits := waits }
  if waits.any s.lives then s else s.finishCmd c.id 0 0

/-- INVALIDATE: first an earlier one of the queue completes, once what it awaits has ended; otherwise the next entry starts. -/
def execInvalidate (s : State) : Result :=
  match s.cmds.find? fun c => c.op == 0x06 && c.fn == s.cmdSel.1 && c.q == s.cmdSel.2 && !c.waits.any s.lives with
  | some c => .next ((s.wakeSaves c.fn c.asc).finishCmd c.id 0 0)
  | none => cmdEvent 0x06 startInvalidate s

/-- The covered parked lanes of a squad; the items that this counts as. -/
def State.coverSquad (s : State) (q : Squad) (covers : FaultRec → Bool) : State × Nat :=
  let m := lanesWhere q.parkedLanes fun l => !(q.lane l).covered && covers (q.lane l).frec
  if m = 0 then (s, 0)
  else if q.refused && q.place == .resident && q.saving.isNone then (s.unpark q m, (lanesOf m).length)
  else (s.modSquad q.id fun x => x.modLanes m fun _ y => { y with covered := true }, 1)

/-- A held operation starts again: a copy from its set-up (R296), a launch record with its read, another when its engine takes it. -/
def State.restartOp (s : State) (o : EngOp) : State :=
  match o.i with
  | .tspawn _ => s.modOp o.id fun x => { x with held := none }
  | _ => if o.cls = .cp then s.copyResume o else s.modOp o.id fun x => { x with held := none, again := true, arrived := s.now }

/-- A covered item has not started again, and may not yet: a squad all of whose parked lanes are covered and whose save has not ended, an operation
that waits for its place, an update that has not been tried again. A squad with a parked lane that no RESUME has covered is not awaited
(notes/assumptions/76.md). -/
def State.resuming (s : State) (n : Nat) : Bool :=
  (s.squads.any fun q => q.id == n && q.place == .resident && q.parkedLanes != 0 && q.coveredLanes == q.parkedLanes) ||
  (s.ops.any fun o => o.id == n && o.held.isNone && !o.done &&
    (o.again || match o.i with | .tspawn _ => !o.started | _ => false)) ||
  s.upds.any fun u => u.id == n && u.held.isSome && u.retry

/-- RESUME covers the held items whose address lies in the range; DETAIL counts them. It completes when each of them has started again or may (R420). -/
def startResume (c : Cmd) (s : State) : State :=
  let lo := (c.arg 0).toNat
  let covers (f : FaultRec) : Bool := decide (lo ≤ f.addr.toNat) && decide (f.addr.toNat < lo + (c.arg 1).toNat)
  let cov (f : Option FaultRec) : Bool := match f with | some f => covers f | none => false
  let mine (h : Word) : Bool := s.inSpace c.fn c.asc h
  let squads := s.squads.filter fun q => !q.roam && mine q.launch && lanesWhere q.parkedLanes (fun l => !(q.lane l).covered && covers (q.lane l).frec) != 0
  let ops := s.ops.filter fun o => cov o.held && mine o.launch
  let streams := s.streams.filter fun x => cov x.held && mine x.launch
  let pends := s.pendLaunch.filter fun p => cov p.held && p.fn == c.fn && p.asc == c.asc
  let launches := s.launches.filter fun l => l.fn == c.fn && l.asc == c.asc && match l.st with | .held f => covers f | _ => false
  let upds := s.upds.filter fun u => cov u.held && (mine u.launch || (u.fn == c.fn && u.asc == c.asc && (s.launch? u.launch).isNone))
  let rings := s.rings.filter fun r => cov r.frec && mine r.leaf.launch
  let (s, n) := squads.foldl (fun (acc : State × Nat) q => let (s, n) := acc.1.coverSquad q covers; (s, acc.2 + n)) (s, 0)
  let s := ops.foldl (fun s o => s.restartOp o) s
  let s := { s with
    streams := s.streams.map fun (x : Stream) => if streams.any fun y => y.id == x.id then { x with held := none } else x
    pendLaunch := s.pendLaunch.map fun (p : PendLaunch) => if pends.any fun y => y.id == p.id then { p with held := none } else p }
  let s := launches.foldl (fun s l => (s.modLaunch l.handle fun x => { x with st := .placing }).resolveLaunch l.handle (readsOf s l)) s
  let s := rings.foldl (fun (s : State) (r : RingEnt) =>
    let s := s.modCore r.leaf.dcore fun x => { x with stamp := x.stamp + 1 }
    let leaf := { r.leaf with stamp := (s.core r.leaf.dcore).stamp }
    let at0 := sliceHome r.core (ringBase (s.core r.core) + 128 * r.slot)
    ({ s with
      rings := s.rings.map fun (y : RingEnt) => if y.core = r.core ∧ y.slot = r.slot then { y with leaf := leaf, frec := none } else y
      mem := s.mem.writeBytes at0 leaf.bytes } : State).wholeWords at0 128) s
  let waits := squads.map (·.id) ++ ops.map (·.id) ++ upds.map (·.id)
  let s := (s.wakeSaves c.fn c.asc).modCmd c.id fun x =>
    { x with waits := waits, count := n + ops.length + streams.length + pends.length + launches.length + upds.length + rings.length }
  match s.cmd? c.id with
  | some x => if waits.any s.resuming then s else s.finishCmd c.id 0 x.count
  | none => s

/-- RESUME: first an earlier one of the queue completes, once every item that it covers has started again or may; otherwise the next entry
starts. -/
def execResume (s : State) : Result :=
  match s.cmds.find? fun c => c.op == 0x07 && c.fn == s.cmdSel.1 && c.q == s.cmdSel.2 && !c.waits.any s.resuming with
  | some c => .next (s.finishCmd c.id 0 c.count)
  | none => cmdEvent 0x07 startResume s

/-! ### PREEMPT and RELEASE (R37, R421) -/

/-- The pre-emption of every team of a launch that is not saved begins, for the command given. -/
def State.preemptLaunch (s : State) (h : Word) (cmd : Nat) (hold : Bool) : State :=
  let ts := s.teams.filter fun t => t.launch == h && !t.retired
  let s := s.modLaunch h fun l => { l with stopped := true }
  let s := { s with teams := s.teams.map fun (t : Team) =>
    if t.launch = h ∧ t.retired = false then
      match t.saved, t.preempt with
      | some _, _ => { t with holdRel := t.holdRel || hold }
      | none, some (n, old) => { t with preempt := some (n, old || hold) }
      | none, none => { t with preempt := some (cmd, hold) }
    else t }
  (ts.filter fun t => t.saved.isNone && t.preempt.isNone).foldl (fun s t => s.beginTeam t.id) s

def startPreempt (c : Cmd) (s : State) : State :=
  match s.launch? (c.arg 0) with
  | none => s.refuseCmd c
  | some l =>
    if l.fn != c.fn || l.r.roam || (match l.st with | .complete _ => true | _ => false) then s.refuseCmd c
    else
      let ts := s.teams.filter fun t => t.launch == l.handle && !t.retired
      let waits := (ts.filter fun t => t.saved.isNone).map (·.id)
      let saved := (ts.filter fun t => t.saved.isSome).length
      let hold := (c.arg 1).getLsbD 0
      let s := (s.modCmd c.id fun x => { x with waits := waits, count := saved }).preemptLaunch l.handle c.id hold
      if waits.isEmpty then (s.modLaunch l.handle fun x => { x with stopped := hold }).finishCmd c.id 0 saved else s

/-- PREEMPT. -/
def execPreempt (s : State) : Result := cmdEvent 0x08 startPreempt s

def startRelease (c : Cmd) (s : State) : State :=
  match s.launch? (c.arg 0) with
  | none => s.refuseCmd c
  | some l =>
    if l.fn != c.fn then s.refuseCmd c
    else
      let s := (s.modLaunch l.handle fun x => { x with stopped := false })
      { s with teams := s.teams.map fun (t : Team) => if t.launch = l.handle then { t with holdRel := false } else t }.finishCmd c.id 0 0

/-- RELEASE. -/
def execRelease (s : State) : Result := cmdEvent 0x09 startRelease s

/-! ### SUMMARY (R425) -/

/-- The values of the entries of each section. -/
def State.summaryLists (s : State) (fn : Nat) : List (List (List Nat)) :=
  let f := (s.fn? fn).getD { id := fn }
  let started (q : Nat) : Nat := (s.cmds.filter fun c => c.fn == fn && c.q == q && c.parent.isNone).length
  let queues := (List.range 32).map fun q =>
    match f.queues.find? fun x => x.q == q with
    | some x => [q, if x.stopped then 2 else 1, x.head, x.tail, started q]
    | none => [q, 0, 0, 0, started q]
  let mine := s.launches.filter fun l => l.fn == fn && match l.st with | .complete _ => false | _ => true
  let launches := mine.map fun l =>
    let ts := s.teams.filter fun t => t.launch == l.handle
    let c := l.cmd.bind s.cmd?
    [l.handle.toNat, l.parent.toNat, (c.map (·.q)).getD 0xFFFF, (c.map fun x => x.tag.toNat).getD 0xFFFF,
     (ts.filter fun t => t.saved.isNone).length, (ts.filter fun t => t.saved.isSome).length, l.teams - l.next, l.live]
  let own (h : Word) : Bool := mine.any fun l => l.handle == h
  let item (r : FaultRec) (frame : Nat) : List Nat := [ofBytes r.bytes, frame]
  let held (r : Option FaultRec) : List (List Nat) := match r with | some r => [item r 0] | none => []
  let frame (q : Squad) : Nat := match q.place with | .saved _ va => va.toNat | .resident => 0
  let faults :=
    ((s.squads.filter fun q => !q.roam && own q.launch).flatMap fun q =>
      ((lanesOf q.parkedLanes).map fun l => item (q.lane l).frec (frame q)) ++ (if q.refused then [item q.refusal 0] else [])) ++
    ((s.teams.filter fun t => t.refused && own t.launch).map fun t => item t.refusal 0) ++
    ((s.ops.filter fun o => own o.launch).flatMap fun o => held o.held) ++
    ((s.streams.filter fun x => own x.launch).flatMap fun x => held x.held) ++
    ((s.pendLaunch.filter fun p => p.fn == fn).flatMap fun p => held p.held) ++
    (mine.flatMap fun l => match l.st with | .held r => [item r 0] | _ => []) ++
    ((s.upds.filter fun u => own u.launch || u.fn == fn).flatMap fun u => held u.held) ++
    ((s.rings.filter fun r => own r.leaf.launch).flatMap fun r => held r.frec)
  let engines := (List.range 4).map fun d =>
    let route := (s.ops.filter fun o => dieOf o.core == d && o.isRoute && !o.started).length
    [s.tableOcc d, route, s.cbOcc d] ++
      (List.range (s.ctxShare d)).flatMap fun n =>
        let c := (s.die d).ctx (ctxKey fn n)
        [boolNat c.isOpen, c.t, c.done, c.miss, c.late]
  let rings := ((List.range 384).filter f.owns).map fun c => [(s.core c).inbound.length, s.ringOcc c]
  [queues, launches, faults, engines, rings]

/-- Bytes of an entry of each section. -/
def sectionWidths : List Nat := [16, 32, 48, 64, 8]

/-- The record of one instant. R425 leaves the places of the sections, and those of the values in an entry, to the part: free values. -/
def startSummary (c : Cmd) (s : State) : State :=
  let lists := s.summaryLists c.fn
  let lens := (List.range 5).map fun k => (lists.getD k []).length * sectionWidths.getD k 0
  let (gaps, s) := (List.range 6).foldl (fun (acc : List Nat × State) _ =>
    let (v, s) := acc.2.draw
    (acc.1 ++ [v.toNat % 64], s)) ([], s)
  let offs := (List.range 6).map fun k => 0x2E + (gaps.take (k + 1)).sum + (lens.take k).sum
  let size := offs.getD 5 0
  let header := toBytes 2 1 ++ toBytes 2 0 ++ toBytes 4 size ++ toBytes 8 s.ptime ++
    ((List.range 5).map fun k => toBytes 4 (offs.getD k 0)).flatten ++
    ((List.range 5).map fun k => toBytes 2 (lists.getD k []).length).flatten
  let at0 := (c.arg 0).toNat
  if at0 % 4096 != 0 then s.refuseCmd c
  else
    let s := s.writeHome (hostHome at0) header false
    if (c.arg 1).toNat < size then s.finishCmd c.id 1 header.length
    else
      let s := (List.range 5).foldl (fun (s : State) k =>
        let w := sectionWidths.getD k 0
        let bs := ((lists.getD k []).map fun x =>
          (List.range w).map fun i => (Config.summaryEntry k x).getD i 0).flatten
        s.writeHome (hostHome (at0 + offs.getD k 0)) bs false) s
      s.finishCmd c.id 0 size

/-- SUMMARY. -/
def execSummary (s : State) : Result := cmdEvent 0x0A startSummary s

/-! ### Admin commands (R411, R413, R416, R417, R422) -/

def startCreate (c : Cmd) (s : State) : State :=
  let q := (c.arg 0).toNat % 32
  let n := (c.arg 3).toNat % 32
  if q = 0 ∨ n < 4 ∨ 16 < n ∨ (s.queue? c.fn q).isSome = true then s.refuseCmd c
  else
    let x : Queue := { q := q, ring := (c.arg 1).toNat, cring := (c.arg 2).toNat, log := n }
    (s.modFn c.fn fun f => { f with queues := f.queues ++ [x] }).finishCmd c.id 0 0

/-- CREATE. -/
def execCreate (s : State) : Result := cmdEvent 0x10 startCreate s

/-- DELETE stops the queue's reading, and completes with its last started command (closeCmd). -/
def startDelete (c : Cmd) (s : State) : State :=
  let q := (c.arg 0).toNat % 32
  if q = 0 ∨ (s.queue? c.fn q).isNone = true then s.refuseCmd c
  else if s.cmds.any fun x => x.fn == c.fn && x.q == q then s.modQueue c.fn q fun y => { y with stopped := true }
  else (s.modFn c.fn fun f => { f with queues := f.queues.filter fun y => y.q != q }).finishCmd c.id 0 0

/-- DELETE. -/
def execDelete (s : State) : Result := cmdEvent 0x11 startDelete s

/-- A launch in flight: from its command or LAUNCH to its completion. -/
def State.inFlight (s : State) (p : Nat → Nat → Bool) : Bool :=
  (s.launches.any fun l => p l.fn l.asc && match l.st with | .complete _ => false | _ => true) ||
  s.pendLaunch.any fun x => p x.fn x.asc

def startSetasc (c : Cmd) (s : State) : State :=
  let n := (c.arg 0).toNat % 64
  let root := (c.arg 1).toNat
  let stack := (c.arg 2).toNat
  let chip := (c.arg 3).toNat % 1024
  let nchip := (c.arg 3).toNat / 2 ^ 16 % 1024
  let fb := (c.arg 5).toNat
  let fl := (c.arg 6).toNat
  if s.inFlight (fun f a => f == c.fn && a == n) || root % 2 ^ 20 != 0 || stack % 256 != 0 || decide (2 ^ 20 < stack) ||
      fb % 4096 != 0 || fl % 4096 != 0 || (nchip != 0 && decide (nchip ≤ chip)) then s.refuseCmd c
  else
    let chips := (List.range nchip).map fun k => s.mem.readBytes (hostHome ((c.arg 4).toNat + 16 * k)) 16
    let a : Asc := { id := n, root := root, stack := stack, chip := chip, nchip := nchip, chips := chips, frameBase := fb, frameLen := fl }
    (s.modFn c.fn fun f => { f with ascs := (f.ascs.filter fun x => x.id != n) ++ [a] }).finishCmd c.id 0 0

/-- SETASC. -/
def execSetasc (s : State) : Result := cmdEvent 0x12 startSetasc s

/-- The functions as CONFIG of function n would leave them: function 0 owns what no other function does (R411). -/
def configFns (s : State) (n : Nat) (groups : BitVec 16) (share : Nat) (urgent : Bool) : List Fn :=
  let fns := (s.withFn n).fns.map fun (f : Fn) =>
    if f.id = n then
      { f with share := share, urgentOk := urgent, groups := if n = 0 then f.groups else groups, enabled := n == 0 || groups != 0 }
    else f
  let others := fns.foldl (fun (m : BitVec 16) f => if f.id = 0 then m else m ||| f.groups) 0
  fns.map fun (f : Fn) => if f.id = 0 then { f with groups := ~~~others } else f

def startConfig (c : Cmd) (s : State) : State :=
  let n := (c.arg 0).toNat % 32
  let groups : BitVec 16 := (c.arg 1).setWidth 16
  let ring := (c.arg 2).toNat
  let binwait := (c.arg 3).toNat % 1024
  let share := (c.arg 4).toNat % 512
  let stack := (c.arg 6).toNat % 2048
  let fns := configFns s n groups share ((c.arg 5).getLsbD 0)
  let s' := { s with fns := fns }
  let taken := s.fns.any fun f => f.id != 0 && f.id != n && f.groups &&& groups != 0
  let queueOn := match s.fn? n with | some f => f.enable && f.queues.any fun q => n != 0 || q.q != 0 | none => false
  let pooled := n != 0 && s.launches.any fun l => l.r.roam && l.admitted &&
    (match s.fn? 0 with | some f => l.fn == 0 && f.groups &&& groups != 0 | none => false)
  let region := (List.range 4).any fun d =>
    decide (256 * 2 ^ 20 < s'.slotRegion d) ||
    (s'.slotRegion d != s.slotRegion d &&
      s.teams.any fun t => !t.retired && t.saved.isNone && t.cores.any fun k => dieOf k == d)
  if decide (16 < n) || s.inFlight (fun f _ => f == n) || queueOn || binwait == 0 || decide (256 < share) || decide (1024 < stack) ||
      ring % 256 != 0 || decide (2 ^ 20 < ring) || decide (2 ^ 31 < stack * 2 ^ 20 + 128 * ring) || (n != 0 && taken) || region || pooled then
    s.refuseCmd c
  else
    let f := (fns.find? fun f => f.id == n).getD { id := n }
    let s := ((List.range 384).filter f.owns).foldl (fun (s : State) k =>
      s.modCore k fun x => { x with ringCap := ring, binwait := binwait, stackRegion := stack * 2 ^ 20 }) s'
    s.finishCmd c.id 0 0

/-- CONFIG. -/
def execConfig (s : State) : Result := cmdEvent 0x13 startConfig s

/-- POLICY. -/
def execPolicy (s : State) : Result :=
  cmdEvent 0x14 (fun c s => (s.modFn c.fn fun f => { f with policy := (c.arg 0).getLsbD 0 }).finishCmd c.id 0 0) s

/-! ### NO_PROGRESS (R47, R422, R423) -/

/-- The 32-byte record of a gang. -/
def gangRecord (s : State) (g : Gang) (q : Squad) : List Byte × State :=
  let ((a, v), s) := s.waitFields g
  (toBytes 4 g.lanes.toNat ++ toBytes 2 (if q.roam then 0xFFFF else q.index) ++ toBytes 1 g.wait.kindCode ++ toBytes 1 0 ++
   toBytes 8 a ++ toBytes 8 v ++ toBytes 8 q.launch.toNat, s)

/-- The lanes of a squad that wait at RJWAITs, as gangs: those that executed one together are one, which entered with that RJWAIT. -/
def Squad.rejoinGangs (q : Squad) : List Gang :=
  (lanesOf q.existing).foldl (fun (acc : List Gang) l =>
    match (q.lane l).st with
    | .rejoin _ c p _ _ t =>
      if acc.any fun g => g.pc == c && g.pos == p && g.since == t then
        acc.map fun g => if g.pc == c && g.pos == p && g.since == t then { g with lanes := g.lanes ||| lanesMask [l] } else g
      else acc ++ [{ id := 0, squad := q.id, lanes := lanesMask [l], pc := c, pos := p, wait := .rejoin, since := t, entry := t }]
    | _ => acc) []

/-- The gangs resident in a partition, in both banks, in order of entry time, with those that wait at RJWAITs (R27). -/
def State.residentGangs (s : State) (core part : Nat) : List (Gang × Squad) :=
  let rj := (s.squads.filter fun q => q.core == core && q.part == part && q.place == .resident).flatMap fun q =>
    q.rejoinGangs.map fun g => (g, q)
  sortBy (fun (a b : Gang × Squad) => decide (a.1.entry < b.1.entry) || (a.1.entry == b.1.entry && decide (a.1.id ≤ b.1.id)))
    (s.gangsOf core part false ++ s.gangsOf core part true ++ rj)

/-- A gang waits: at a waiting instruction, for a fetch, or for an access that blocks it. The structural stalls of an engine, a port or a buffer are no waits
(R44). -/
def Gang.waits (g : Gang) : Bool :=
  match g.wait with
  | .none => !g.block.isEmpty
  | .queue => g.header.eng == 9
  | .limit _ => false
  | w => !w.inPlace

/-- Since when a gang has waited, at its word. -/
def Gang.waited (g : Gang) : Nat := if g.wait = .none then 0 else g.since

/-- The launch that POLICY 1 pre-empts: the lowest PRIO, the latest accepted of several; never an urgent one (R422, R424). -/
def State.policyLaunch (s : State) (gs : List (Gang × Squad)) : Option Launch :=
  let ls := s.launches.reverse.filter fun l => !l.r.roam && !l.r.urgent && gs.any fun x => x.2.launch == l.handle
  firstBy (fun (a b : Launch) => decide (a.r.prio < b.r.prio) || (a.r.prio == b.r.prio && decide (b.accepted < a.accepted))) ls

/-- NO_PROGRESS: for 1,000,000 cy no gang of the partition has issued and every one of them has waited: at its instruction, at an RJWAIT, or since its
last issue for an access that blocks it. -/
def execNoProgress (core part : Nat) (s : State) : Result :=
  let gs := s.residentGangs core part
  let p := s.part core part
  if p.reported || gs.isEmpty || decide (s.now < p.issued + 1000000) ||
      gs.any fun x => !x.1.waits || decide (s.now < x.1.waited + 1000000) then .next s
  else
    match s.fns.find? fun f => f.owns core with
    | none => .next s
    | some f =>
      let total := gs.length
      let g := min total (2 * (2 ^ f.evlog.toNat - 2))
      let (recs, s) := (gs.take g).foldl (fun (acc : List Byte × State) x =>
        let (bs, s) := gangRecord acc.2 x.1 x.2
        (acc.1 ++ bs, s)) ([], s)
      let header := toBytes 2 g ++ toBytes 2 total ++ toBytes 4 (boolNat (decide (g < total))) ++ toBytes 8 (s.clock (dieOf core)) ++
        toBytes 16 0
      let pick := if f.policy then s.policyLaunch gs else none
      let s := s.modPart core part fun x => { x with reported := true }
      let s := s.report {
        fn := f.id, kind := 3, die := dieOf core, core := core, part := part, handle := (pick.map (·.handle)).getD 0,
        extra := header ++ recs ++ toBytes (32 * (g % 2)) 0 }
      .next (match pick with | some l => s.preemptLaunch l.handle 0 true | none => s)

end Sys2Proof.Machine
end

