-- ==== Sys2Proof/Machine/Bringup.lean ====
section
/-!
DEFINITION. Bring-up, links, temperature, power and firmware (R427 to R434), and the registers of BAR0 that have no behaviour of their
own (R410, R434).
-/
namespace Sys2Proof.Machine

/-! ### Registers (R410, R434) -/

/-- REGISTER_WRITE: an RW register of BAR0; a write to any other offset is ignored (R6). The recovery registers are those of function 0. -/
def execRegisterWrite (fn off : Nat) (v : Word) (s : State) : Result :=
  if !s.hostSees fn then .next s
  else if fn = 0 ∧ off = 0x108 then .next { s with boot := { s.boot with imgaddr := v } }
  else if fn = 0 ∧ off = 0x110 then .next { s with boot := { s.boot with imglen := v.setWidth 32 } }
  else .next (s.writeFnReg fn off v)

/-- What the host reads in the 8 bytes at offset off of function fn's BAR0 (R410, R412, R434, R436): a place that no table names reads as
zero (R6), and so does LOAD, which is write-only. The recovery registers and the error counts are those of function 0. No step reads
a register; none where the host does not see the function. -/
def State.readRegister (s : State) (fn off : Nat) : Option Word :=
  if !s.hostSees fn then none
  else
    let f := (s.fn? fn).getD { id := fn }
    if fn = 0 ∧ 0x1000 ≤ off ∧ off < 0x1000 + 8 * 384 ∧ off % 8 = 0 then some (s.core ((off - 0x1000) / 8)).eccCount
    else some (
      match off with
      | 0x000 => 0x00010000
      | 0x008 => BitVec.ofNat 64 s.ptime
      | 0x010 => f.aqbase
      | 0x018 => f.acbase
      | 0x020 => f.aqlog.setWidth 64
      | 0x028 => f.evbase
      | 0x030 => f.evlog.setWidth 64
      | 0x038 => f.evtail ++ f.evhead
      | 0x03C => f.evtail.setWidth 64
      | 0x040 => BitVec.ofNat 64 (boolNat f.enable + 2 * boolNat f.ready + 4 * boolNat f.qerr)
      | 0x100 => if fn = 0 then BitVec.ofNat 64 (boolNat s.boot.recovery + 2 * s.boot.cause.toNat) else 0
      | 0x108 => if fn = 0 then s.boot.imgaddr else 0
      | 0x110 => if fn = 0 then BitVec.ofNat 64 (s.boot.imglen.toNat + 2 ^ 33 * boolNat s.boot.loadDone + 2 ^ 34 * boolNat s.boot.loadFail) else 0
      | 0x114 => if fn = 0 then BitVec.ofNat 64 (2 * boolNat s.boot.loadDone + 4 * boolNat s.boot.loadFail) else 0
      | _ => 0)

/-! ### Reset and bring-up (R433) -/

/-- The memory that a part reset leaves: host memory, and that of other chips; slices and vaults of this chip read zero after step 5,
and nothing reads them before. -/
def keptCells (m : Memory) : Memory :=
  ⟨m.cells.filter fun c => !homeIsVault c.1 && (homeIsHost c.1 || homeChip c.1 != 0)⟩

/-- PART_RESET: power-on or PERST#. The flash keeps its image; the schedule and the free values go on. -/
def State.partReset (s : State) : State :=
  { State.reset with
    mem := keptCells s.mem, agenda := s.agenda, free := s.free, boot := { State.reset.boot with flash := s.boot.flash } }

def execPartReset (s : State) : Result := .next s.partReset

/-- POWER_GOOD: step 1 ends. -/
def execPowerGood (s : State) : Result :=
  .next (if s.boot.step = 0 then { s with boot := { s.boot with step := 1 } } else s)

/-- PLL_LOCK: the clock of a die starts, and with it its %clock; step 2 ends when all four run. -/
def execPllLock (die : Nat) (s : State) : Result :=
  if s.boot.step = 0 || decide (3 < die) || (s.die die).clock0.isSome then .next s
  else
    let s := s.modDie die fun d => { d with clock0 := some s.now }
    .next (if s.boot.step = 1 && (List.range 4).all (fun d => (s.die d).clock0.isSome) then
      { s with boot := { s.boot with step := 2 } } else s)

/-- FIRMWARE_CHECK: a good image ends step 3; an absent one, or one with a bad signature, leads to recovery (R434). -/
def execFirmwareCheck (s : State) : Result :=
  if s.boot.step != 2 || s.boot.recovery then .next s
  else if s.boot.flash = 2 then .next { s with boot := { s.boot with step := 3 } }
  else .next { s with boot := { s.boot with recovery := true, cause := if s.boot.flash = 0 then 1 else 2 } }

/-- UCIE_TRAINING: the links that trained are up; step 4 ends. -/
def execUcieTraining (up : BitVec 4) (s : State) : Result :=
  .next (if s.boot.step = 3 then { s with boot := { s.boot with step := 4, ucie := up } } else s)

/-- HBM_TRAINING: slices and vaults are zero, with correct check bits; the admin queues of enabled functions run (READY). -/
def execHbmTraining (s : State) : Result :=
  .next (if s.boot.step = 4 then
    { s with
      boot := { s.boot with step := 5 }, mem := keptCells s.mem, errs := []
      fns := s.fns.map fun (f : Fn) => { f with ready := f.enable && f.queues.any fun q => q.q == 0 } }
    else s)

/-- PCIE_LINK_UP: step 6, from the end of step 2. Every function appears with ENABLE = 0. -/
def execPcieLinkUp (s : State) : Result :=
  .next (if 2 ≤ s.boot.step ∧ s.boot.pcie = false then { s with boot := { s.boot with pcie := true } } else s)

/-- The event of a network port (R433). -/
def State.portEvent (s : State) (port : Nat) : State :=
  s.report { fn := 0, kind := 6, die := port / 2, frame := BitVec.ofNat 64 port }

/-- PORT_TRAINING: step 7, from the end of step 4; each port that fails is reported on the physical function's ring. -/
def execPortTraining (up : BitVec 8) (s : State) : Result :=
  if s.boot.step < 4 ∨ s.boot.portsTrained = true then .next s
  else
    .next (((List.range 8).filter fun p => !up.getLsbD p).foldl (fun s p => s.portEvent p)
      { s with boot := { s.boot with ports := up, portsTrained := true } })

/-- NETWORK_PORT_DOWN: a port that was up is down, and is reported. -/
def execNetworkPortDown (port : Nat) (s : State) : Result :=
  if 7 < port ∨ s.boot.ports.getLsbD port = false then .next s
  else .next ({ s with boot := { s.boot with ports := s.boot.ports &&& ~~~(BitVec.ofNat 8 (2 ^ port)) } }.portEvent port)

/-! ### Links between dies (R10, R429) -/

/-- The home of the clause that a gang waits for. -/
def State.fetchHome (s : State) (g : Gang) (q : Squad) : List Nat :=
  if g.wait != .fetch then []
  else match pageSpot s g q g.pc.toNat with | .page _ home => [home] | _ => []

/-- The pairs of dies between which a launch has traffic: requests, posted writes and updates that are on their way, the pages of its operations
and streams, table walks, clause fetches, frames that are being written, and leaves. -/
def State.traffic (s : State) (h : Word) : List (Nat × Nat) :=
  let pages (core : Nat) (ps : List Nat) : List (Nat × Nat) := ps.map fun p => (dieOf core, homeDie p)
  let near (home : Nat) : Bool := !homeIsFar home
  ((s.reqs.filter fun r => r.launch == h).flatMap fun r => pages r.core ((r.pieces.map (·.home)).filter near)) ++
  ((s.ents.filter fun e => e.launch == h && e.pending && decide (e.core < 384) && near e.home).map fun e => (dieOf e.core, homeDie e.home)) ++
  ((s.upds.filter fun u => u.launch == h && near u.home).map fun u => (s.updDie u, homeDie u.home)) ++
  ((s.ops.filter fun o => o.launch == h && o.started && !o.done && o.held.isNone).flatMap fun o =>
    pages o.core (((o.rd ++ o.wr).map (·.2) ++ o.tr.map (·.pa)).filter near)) ++
  ((s.streams.filter fun x => x.launch == h && x.held.isNone).flatMap fun x => pages x.core ((x.tr.map (·.pa)).filter near)) ++
  ((s.walks.filter fun w => w.launch == h).flatMap fun w =>
    let (f, a) := s.spaceOf h
    pages w.core (((walkReads s f a w.va.toNat).map (·.1)).filter near)) ++
  (s.gangs.flatMap fun g =>
    match s.squad? g.squad with
    | some q => if q.launch = h then pages q.core ((s.fetchHome g q).filter near) else []
    | none => []) ++
  ((s.squads.filter fun q => q.launch == h && q.saving.isSome).flatMap fun q =>
    match s.frameOf q with
    | some va => (match frameRange s h true va q.layout.size with | .ok ps => pages q.core ((ps.map (·.1)).filter near) | .error _ => [])
    | none => []) ++
  ((s.flights.filter fun f => f.leaf.launch == h).map fun f => (f.src, dieOf f.leaf.dcore))

/-- LINK_LOST ends a launch. -/
def State.linkLost (s : State) (h : Word) : State :=
  if s.launchEnded h then s else s.fatal h 0xFFFF 0 [{ code := cLinkLost }]

/-- A launch has traffic that takes a link for certain. -/
def State.onLink (s : State) (link : Nat) (h : Word) : Bool := (s.traffic h).any fun p => s.takesLink link p.1 p.2 == some true

/-- UCIE_LINK_DOWN: every launch with traffic on the link ends; whether traffic with two possible ways is on it is a free value. The event
recurs for traffic that enters a link that is down, which does not pass it. -/
def execUcieLinkDown (link : Nat) (s : State) : Result :=
  if 3 < link ∨ s.boot.step < 4 then .next s
  else
    let s := { s with boot := { s.boot with ucie := s.boot.ucie &&& ~~~(BitVec.ofNat 4 (2 ^ link)) } }
    .next ((s.launches.map (·.handle)).foldl (fun (s : State) h =>
      if s.onLink link h then s.linkLost h
      else if (s.traffic h).any fun p => (s.takesLink link p.1 p.2).isNone then
        let (v, s) := s.draw
        if v.getLsbD 0 then s.linkLost h else s
      else s) s)

/-- The links that are down and have traffic of a launch on them. -/
def State.lostLinks (s : State) : List Nat :=
  if s.boot.step < 4 then []
  else (List.range 4).filter fun k => !s.boot.ucie.getLsbD k && s.launches.any fun l => !s.launchEnded l.handle && s.onLink k l.handle

/-! ### Network ports (R417, R428) -/

/-- The address of a network port, which each takes from the list that SETASC gave: its chip's entry; and the MAC address, which the identity data of
the module fix. -/
def portAddress (a : Asc) : List Byte := a.chips.getD a.chip []
def portMac (p : Nat) : BitVec 48 := Config.portMac p

/-! ### Temperature and power (R427, R432) -/

/-- THERMAL_THROTTLE: the share of issue cycles that is withheld, in proportion to the excess of the hotter of the die and its stacks: 75 %
at 110 and 95 degrees. -/
def execThermalThrottle (die dieTemp hbmTemp : Nat) (s : State) : Result :=
  .next (s.modDie die fun d => { d with throttle := min 750 (max (75 * (dieTemp - 100)) (150 * (hbmTemp - 90))) })

/-- The events that the rings have room for are written. -/
def State.flushEvents (s : State) (fuel : Nat) : State :=
  match fuel with
  | 0 => s
  | k + 1 =>
    State.flushEvents (s.fns.foldl (fun s f => match execEventWrite f.id s with | .next s => s | _ => s) s) k

def State.powerOff (s : State) : State := { s with boot := { s.boot with powered := false } }

/-- THERMAL_SHUTDOWN: every launch ends with LINK_LOST, the event is written, and the dies lose power. -/
def execThermalShutdown (_die dieTemp hbmTemp : Nat) (s : State) : Result :=
  if dieTemp < 115 ∧ hbmTemp < 100 then .next s
  else
    let live := (s.launches.map (·.handle)).filter fun h => !s.launchEnded h
    let s := if live.isEmpty then s.report { fn := 0, kind := 1, frec := { code := cLinkLost } }
             else live.foldl (fun (s : State) h => s.linkLost h) s
    .next (s.flushEvents s.events.length).powerOff

/-- POWER_LOSS: each power connector carries half of the module's need, and either alone does not power it. -/
def execPowerLoss (connector : Nat) (s : State) : Result := .next (if connector < 2 then s.powerOff else s)

/-! ### Firmware (R434) -/

/-- RECOVERY_LOAD: the image at IMGADDR is read and checked; a good one is written to flash, and the next step resets the part; a
bad one sets FAIL and leaves the flash as it is. -/
def execRecoveryLoad (s : State) : Result :=
  if !s.hostSees 0 then .next s
  else
    let n := s.boot.imglen.toNat
    let a := s.boot.imgaddr.toNat
    if a % 4096 = 0 && decide (n ≤ 2 ^ 26) && Config.imageGood (s.mem.readBytes (hostHome a) n) then
      .next { s with boot := { s.boot with flash := 2, loadDone := true, loadFail := false }, agenda := .event 0 .partReset :: s.agenda }
    else .next { s with boot := { s.boot with loadDone := false, loadFail := true } }

end Sys2Proof.Machine
end

