-- ==== Sys2Proof/Machine/Sig.lean ====
section
/-!
DEFINITION. The signature stage (R337 to R349): signatures, representatives and membership maps, gradient sums, bucket-restricted key
lists.
-/
namespace Sys2Proof.Machine

/-! ### Issue (R337, R345) -/

/-- A SIG instruction enters the queue of 32. -/
def sigOp (i : Instr) (w : FM) (s : State) : Result :=
  collectiveOp .sig s (fun q => srcOk q true .uni64 w.sa) fun g q =>
    s.enqueue g q (decide (32 ≤ s.queueOcc q.core .sg 0))
      { id := 0, squad := 0, core := 0, launch := 0, cls := .sg, i := i, a := val64 q 0 w.sa, lanes := q.existing }

def execSign (w : FM) (s : State) : Result := sigOp (.sign w) w s
def execSrep (w : FM) (s : State) : Result := sigOp (.srep w) w s
def execSgsum (w : FM) (s : State) : Result := sigOp (.sgsum w) w s
def execSbkt (w : FM) (s : State) : Result := sigOp (.sbkt w) w s

/-! ### The signature block (R338) -/

structure SigBlk where
  src : Nat
  sigs : Nat
  map : Nat
  bkt : Nat
  dst : Nat
  seed : Nat
  n : Nat
  cols : Nat
  bmask : Nat
  ty : Nat
  bw : Nat
  l : Nat
  deriving DecidableEq, Repr

def SigBlk.ofBytes (bs : List Byte) : SigBlk :=
  let f := fieldAt bs
  { src := f 0 8, sigs := f 8 8, map := f 0x10 8, bkt := f 0x18 8, dst := f 0x20 8, seed := f 0x28 8, n := f 0x30 2, cols := f 0x32 2,
    bmask := f 0x34 2, ty := f 0x36 1 % 16, bw := f 0x36 1 / 16, l := f 0x38 4 }

/-- SIGNATURE_CONFIG with a reason, the offset of a field and an entry number (R347). -/
def sigFault (o : EngOp) (reason off entry : Nat) : FaultRec :=
  o.faultRec 8 cSignatureConfig o.a.toNat (BitVec.ofNat 64 (reason + 256 * off + 2 ^ 32 * entry))

/-- The type that SIGN, SREP and SGSUM accept. -/
def sigTyOk (i : Instr) (ty : Nat) : Bool := decide (ty ≤ 3) || (match i with | .sgsum _ => ty == 6 | _ => false)

/-- The checks of a block's fields: reason and offset. Fields that must be zero come first, then counts, type and mask. -/
def sigFieldFault (i : Instr) (b : SigBlk) (bs : List Byte) : Option (Nat × Nat) :=
  let z (c : Bool) (off : Nat) : Bool × Nat × Nat := (c, 0, off)
  let common := [z (fieldAt bs 0x37 1 != 0) 0x36]
  let counts := [(b.n == 0 || decide (256 < b.n), 1, 0x30)]
  let ty := [(!sigTyOk i b.ty, 2, 0x36)]
  let cols (m : Nat) : List (Bool × Nat × Nat) := [(b.cols == 0 || decide (m < b.cols), 1, 0x32)]
  let checks : List (Bool × Nat × Nat) := match i with
    | .sign _ => common ++ [z (b.map != 0) 0x10, z (b.bkt != 0) 0x18, z (b.dst != 0) 0x20, z (b.l != 0) 0x38] ++ counts ++ cols 16384 ++
        ty ++ [(decide (2 ^ (b.bw + 1) ≤ b.bmask), 3, 0x34)]
    | .srep _ => common ++ [z (b.seed != 0) 0x28, z (b.bmask != 0) 0x34, z (b.bw != 0) 0x36, z (b.l != 0) 0x38] ++ counts ++
        cols 16384 ++ ty
    | .sgsum _ => common ++ [z (b.sigs != 0) 0x08, z (b.bkt != 0) 0x18, z (b.seed != 0) 0x28, z (b.bmask != 0) 0x34,
        z (b.bw != 0) 0x36, z (b.l != 0) 0x38] ++ counts ++ cols 16384 ++ ty
    | _ => common ++ [z (b.dst != 0) 0x20, z (decide (2 ^ 32 ≤ b.seed)) 0x28, z (b.bmask != 0) 0x34, z (b.ty != 0 || b.bw != 0) 0x36] ++
        counts ++ cols 4096 ++ [(b.l == 0 || decide (4096 < b.l), 1, 0x38), (decide (0xFFFFFFFF ≤ b.seed + b.cols - 1), 1, 0x28)]
  (checks.find? (·.1)).map (·.2)

/-! ### Grids (R339) -/

def sigTJ (cols w : Nat) : Nat := ceilDiv (cols * w) 128
def sigGrid (rows cols w : Nat) : Nat := ceilDiv rows 64 * sigTJ cols w * 8192

/-- The elements of row i of a grid whose translated pieces are given. -/
def gridRow (mem : Memory) (ps : List (Nat × Nat)) (cols w i : Nat) : List Nat :=
  (List.range cols).map fun c => mem.readN (homeOff ps (canonOff (sigTJ cols w) i (c * w))) w

/-- The writes of a grid of n rows and of the padding of its tiles (R342). -/
def gridWrites (ps : List (Nat × Nat)) (cols w n : Nat) (row : Nat → List Nat) : List (Nat × List Byte) :=
  let tj := sigTJ cols w
  ((List.range (ceilDiv n 64 * 64)).map fun r =>
    let bs := if r < n then ((row r).map fun x => toBytes w x).flatten else []
    (canonWrites 0 tj r 0 (bs ++ List.replicate (tj * 128 - bs.length) 0)).map fun x => (homeOff ps x.1, x.2)).flatten

/-- An object of an operation: its homes, whether it is an output, and the offset of its field. -/
structure SigObj where
  ps : List (Nat × Nat)
  out : Bool
  off : Nat
  deriving DecidableEq, Repr

/-- An output that meets an input or another output; OUTN may meet the block only. -/
def sigOverlap (o : EngOp) (objs : List SigObj) (outn : Option (List (Nat × Nat))) : Except FaultRec Unit :=
  match (List.range objs.length).find? fun i => (List.range objs.length).any fun j =>
      match objs[i]?, objs[j]? with
      | some x, some y => i != j && x.out && piecesMeet x.ps y.ps
      | _, _ => false with
  | some i => .error (sigFault o 4 (match objs[i]? with | some x => x.off | none => 0) 0)
  | none =>
    match outn with
    | some ps => if (objs.drop 1).any fun x => piecesMeet ps x.ps then .error (sigFault o 4 0x3C 0) else .ok ()
    | none => .ok ()

/-! ### Signatures (R340) -/

/-- s(c, j) is +1. -/
def projPlus (seed j c : Nat) : Bool := !(mix64 (BitVec.ofNat 64 (seed + j * 2 ^ 20 + c))).getLsbD 63

/-- An element as an exact value; a NaN or an infinity counts as +0 and raises invalid. -/
def finiteElem (ty x : Nat) : FV × Flags :=
  match fvOf (tyFmt ty) x with
  | .fin n m e => (.fin n m e, 0)
  | _ => (.fin false 0 0, flNV)

/-- The exact sum of values. -/
def exactSum (vs : List FV) : FV := vs.foldl (fun a v => (fvAdd .rn a v).1) (.fin false 0 0)

/-- The signature of a row. -/
def signRow (seed b bmask ty : Nat) (row : List Nat) : Nat × Flags :=
  let xs := row.map (finiteElem ty)
  let raw := ((List.range b).map fun j =>
    let t := exactSum (xs.mapIdx fun c x => if projPlus seed j c then x.1 else x.1.negate)
    if fvLt (.fin false 0 0) t then 2 ^ j else 0).sum
  (if bmask = 0 then raw else raw &&& bmask, xs.foldl (fun f x => f ||| x.2) 0)

/-! ### Representatives (R341, R342) -/

/-- The buckets: signature and members, in ascending order of the lowest member. -/
def bucketsOf (sigs : List Nat) : List (Nat × List Nat) :=
  sigs.eraseDups.map fun v => (v, (List.range sigs.length).filter fun i => sigs.getD i 0 == v)

/-- The member of largest exact L1 norm, ties to the lower row. -/
def maxL1 (ty : Nat) (rows : Nat → List Nat) (ms : List Nat) : Nat :=
  let norm (i : Nat) : FV := exactSum ((rows i).map fun x => (finiteElem ty x).1.abs)
  match ms with
  | [] => 0
  | m :: rest => (rest.foldl (fun (best : Nat × FV) i => let v := norm i; if fvLt best.2 v then (i, v) else best) (m, norm m)).1

/-- An element widened to FP32, exact. -/
def widen (ty x : Nat) : W32 × Flags :=
  if ty = 6 then (BitVec.ofNat 32 x, 0) else let r := fConvert (tyFmt ty) .f32 .rn x; (BitVec.ofNat 32 r.1, r.2)

/-- The sum of elements in ascending row order. -/
def sumElems (ty : Nat) (xs : List Nat) : W32 × Flags :=
  xs.foldl (fun (acc : W32 × Flags) x => let v := widen ty x; let z := add32 acc.1 v.1; (z.1, acc.2 ||| v.2 ||| z.2)) (0, 0)

/-- An FP32 value rounded to a type. -/
def narrow (ty : Nat) (x : W32) : Nat × Flags := if ty = 6 then (x.toNat, 0) else fConvert .f32 (tyFmt ty) .rn x.toNat

/-- The mean of a bucket's members. -/
def meanRow (ty cols : Nat) (rows : Nat → List Nat) (ms : List Nat) : List (Nat × Flags) :=
  (List.range cols).map fun c =>
    let sum := sumElems ty (ms.map fun i => (rows i).getD c 0)
    let d := div32 sum.1 (BitVec.ofNat 32 (intBits .f32 ms.length))
    let r := narrow ty d.1
    (r.1, sum.2 ||| d.2 ||| r.2)

/-! ### The operations -/

/-- What an operation writes, its flags, and its occupancy (R349). -/
structure SigOut where
  writes : List (Nat × List Byte) := []
  flags : Flags := 0
  busy : Nat := 16

def signRun (s : State) (o : EngOp) (b : SigBlk) (blk : List (Nat × Nat)) : Except FaultRec SigOut := do
  let w := tyWidth b.ty
  let src ← vaultArr s o 8 false b.src (sigGrid b.n b.cols w) 128
  let out ← vaultArr s o 8 true b.sigs (2 * b.n) 2
  let _ ← sigOverlap o [⟨blk, false, 0⟩, ⟨src, false, 0⟩, ⟨out, true, 8⟩] none
  let rs := (List.range b.n).map fun i => signRow b.seed (b.bw + 1) b.bmask b.ty (gridRow (s.view o.core) src b.cols w i)
  .ok { writes := overPieces out ((rs.map fun r => toBytes 2 r.1).flatten), flags := rs.foldl (fun f r => f ||| r.2) 0,
        busy := 16 + ceilDiv (b.n * b.cols * w) 256 }

def srepRun (s : State) (o : EngOp) (b : SigBlk) (blk : List (Nat × Nat)) (rule : Nat) : Except FaultRec SigOut := do
  let w := tyWidth b.ty
  let mem := s.view o.core
  let ps ← vaultArr s o 8 false b.sigs (2 * b.n) 2
  let src ← vaultArr s o 8 false b.src (sigGrid b.n b.cols w) 128
  let sigs := readElems mem ps 2 b.n
  let bks := bucketsOf sigs
  let nb := bks.length
  let nm := ceilDiv b.n 64 * 64
  let pm ← vaultArr s o 8 true b.map (4 * nm) 4
  let pb ← vaultArr s o 8 true b.bkt (8 * nb) 8
  let pd ← vaultArr s o 8 true b.dst (sigGrid nb b.cols w) 128
  let pn ← vaultArr s o 8 true (o.a.toNat + 0x3C) 4 4
  let _ ← sigOverlap o [⟨blk, false, 0⟩, ⟨ps, false, 8⟩, ⟨src, false, 0⟩, ⟨pm, true, 0x10⟩, ⟨pb, true, 0x18⟩, ⟨pd, true, 0x20⟩] (some pn)
  let all := (List.range b.n).map fun i => gridRow mem src b.cols w i
  let rows (i : Nat) : List Nat := all.getD i []
  let pick (ms : List Nat) : Nat := if rule = 1 then maxL1 b.ty rows ms else ms.headD 0
  let reps := bks.map fun k =>
    if rule = 2 then meanRow b.ty b.cols rows k.2 else (rows (pick k.2)).map fun x => (x, 0)
  let l1Flags : Flags := if rule = 1 then
      all.foldl (fun f r => r.foldl (fun f x => f ||| (finiteElem b.ty x).2) f) 0 else 0
  let entry (m : Nat) : Nat :=
    if m < b.n then let g := sigs.getD m 0; (bks.findIdx fun k => k.1 == g) * 65536 + g else 0xFFFFFFFF
  let v := b.cols * w
  .ok {
    writes := overPieces pm (((List.range nm).map fun m => toBytes 4 (entry m)).flatten) ++
      overPieces pb ((bks.map fun k => toBytes 8 (k.1 + 65536 * k.2.length + 2 ^ 32 * pick k.2)).flatten) ++
      gridWrites pd b.cols w nb (fun k => (reps.getD k []).map (·.1)) ++ overPieces pn (toBytes 4 nb)
    flags := l1Flags ||| reps.foldl (fun f r => r.foldl (fun f x => f ||| x.2) f) 0
    busy := 16 + ceilDiv b.n 8 + (if rule = 0 then 2 * ceilDiv (nb * v) 256 else ceilDiv (b.n * v) 256 + ceilDiv (nb * v) 256) }

def sgsumRun (s : State) (o : EngOp) (b : SigBlk) (blk : List (Nat × Nat)) (f32 : Bool) : Except FaultRec SigOut := do
  let w := tyWidth b.ty
  let wo := if f32 then 4 else w
  let mem := s.view o.core
  let src ← vaultArr s o 8 false b.src (sigGrid b.n b.cols w) 128
  let pm ← vaultArr s o 8 false b.map (4 * b.n) 4
  let ks := (readElems mem pm 4 b.n).map fun e => e / 65536
  match (List.range b.n).find? fun m => decide (256 ≤ ks.getD m 0) && ks.getD m 0 != 0xFFFF with
  | some m => Except.error (sigFault o 5 0x10 m)
  | none => do
    let nb := (ks.filter fun k => k != 0xFFFF).foldl (fun a k => max a (k + 1)) 0
    let pd ← vaultArr s o 8 true b.dst (sigGrid nb b.cols wo) 128
    let _ ← sigOverlap o [⟨blk, false, 0⟩, ⟨src, false, 0⟩, ⟨pm, false, 0x10⟩, ⟨pd, true, 0x20⟩] none
    let all := (List.range b.n).map fun i => gridRow mem src b.cols w i
    let sums := (List.range nb).map fun k =>
      let ms := (List.range b.n).filter fun m => ks.getD m 0 == k
      (List.range b.cols).map fun c =>
        let r := sumElems b.ty (ms.map fun m => (all.getD m []).getD c 0)
        let z := if f32 then (r.1.toNat, 0) else narrow b.ty r.1
        (z.1, r.2 ||| z.2)
    Except.ok { writes := gridWrites pd b.cols wo nb fun k => (sums.getD k []).map (·.1)
                flags := sums.foldl (fun f r => r.foldl (fun f x => f ||| x.2) f) 0
                busy := 16 + ceilDiv (b.n * b.cols * w) 256 + ceilDiv (nb * b.cols * wo) 256 }

/-- SBKT (R344). -/
def sbktRun (s : State) (o : EngOp) (b : SigBlk) (blk : List (Nat × Nat)) : Except FaultRec SigOut := do
  let mem := s.view o.core
  let pq ← vaultArr s o 8 false b.src (2 * b.n) 2
  let pk ← vaultArr s o 8 false b.sigs (2 * b.cols) 2
  let pm ← vaultArr s o 8 true b.map (4 * b.n * b.l) 4
  let pb ← vaultArr s o 8 true b.bkt (4 * b.n) 4
  let pn ← vaultArr s o 8 true (o.a.toNat + 0x3C) 4 4
  let _ ← sigOverlap o [⟨blk, false, 0⟩, ⟨pq, false, 0⟩, ⟨pk, false, 8⟩, ⟨pm, true, 0x10⟩, ⟨pb, true, 0x18⟩] (some pn)
  let keys := readElems mem pk 2 b.cols
  let hits := (readElems mem pq 2 b.n).map fun q => (List.range b.cols).filter fun n => keys.getD n 0 == q
  let word (h : List Nat) (e : Nat) : Nat := match h[e]? with | some n => b.seed + n | none => 0xFFFFFFFF
  .ok { writes := overPieces pm ((hits.map fun h => ((List.range b.l).map fun e => toBytes 4 (word h e)).flatten).flatten) ++
          overPieces pb ((hits.map fun h => toBytes 4 h.length).flatten) ++
          overPieces pn (toBytes 4 ((hits.map fun h => min b.l h.length).sum))
        busy := 16 + ceilDiv (b.n + b.cols) 8 + ceilDiv (b.n * b.l) 64 }

/-- An operation as a whole. -/
def sigRun (s : State) (o : EngOp) : Except FaultRec SigOut := do
  let ps ← vaultArr s o 8 false o.a.toNat 64 64
  let bs := readPieces (s.view o.core) ps
  let b := SigBlk.ofBytes bs
  match sigFieldFault o.i b bs with
  | some (r, off) => Except.error (sigFault o r off 0)
  | none =>
    match o.i with
    | .sign _ => signRun s o b ps
    | .srep w => srepRun s o b ps (w.mod.extractLsb' 0 2).toNat
    | .sgsum w => sgsumRun s o b ps (w.mod.getLsbD 0)
    | _ => sbktRun s o b ps

/-- SIGNATURE_OPERATION_START: the head of the core's queue is performed. The writes of an operation are performed before the next
one starts: a core's engine reads see them (R337). -/
def execSignatureOperationStart (core : Nat) (s : State) : Result :=
  match s.ops.find? fun o => o.core == core && o.cls == .sg && !o.started && !o.done with
  | none => .next s
  | some o =>
    if !s.mayStart o then .next s else
    let run := sigRun s o
    let busy := match run with | .ok r => r.busy | .error _ => 16
    let s := s.modCore core fun c => { c with sgqdly := c.sgqdly + (s.now - o.arrived), sgbusy := c.sgbusy + busy }
    let s := s.modOp o.id fun x => { x with started := true, done := true }
    let s := s.wakeEngine 8 fun x => x.core == core
    match run with
    | .error f => .next (s.opFault o f)
    | .ok r => .next ((s.modOp o.id fun x => { x with flags := r.flags }).homeWrites o r.writes)

end Sys2Proof.Machine
end

