-- ==== Sys2Proof/Machine/Dispatch.lean ====
section
/-!
DEFINITION. The dispatch of every step of the machine to its meaning.
-/
namespace Sys2Proof.Machine

def exec (i : Instr) (s : State) : Host.Outcome State Fault Refusal :=
  match i with
  | .iadd w => Sys2Proof.Machine.execIadd w s
  | .isub w => Sys2Proof.Machine.execIsub w s
  | .imul w => Sys2Proof.Machine.execImul w s
  | .imulh w => Sys2Proof.Machine.execImulh w s
  | .imad w => Sys2Proof.Machine.execImad w s
  | .iadd64 w => Sys2Proof.Machine.execIadd64 w s
  | .lea w => Sys2Proof.Machine.execLea w s
  | .imin w => Sys2Proof.Machine.execImin w s
  | .imax w => Sys2Proof.Machine.execImax w s
  | .iabs w => Sys2Proof.Machine.execIabs w s
  | .and w => Sys2Proof.Machine.execAnd w s
  | .or w => Sys2Proof.Machine.execOr w s
  | .xor w => Sys2Proof.Machine.execXor w s
  | .andn w => Sys2Proof.Machine.execAndn w s
  | .shl w => Sys2Proof.Machine.execShl w s
  | .shr w => Sys2Proof.Machine.execShr w s
  | .sar w => Sys2Proof.Machine.execSar w s
  | .rotl w => Sys2Proof.Machine.execRotl w s
  | .fshr w => Sys2Proof.Machine.execFshr w s
  | .bfx w => Sys2Proof.Machine.execBfx w s
  | .bfi w => Sys2Proof.Machine.execBfi w s
  | .popc w => Sys2Proof.Machine.execPopc w s
  | .clz w => Sys2Proof.Machine.execClz w s
  | .brev w => Sys2Proof.Machine.execBrev w s
  | .prmt w => Sys2Proof.Machine.execPrmt w s
  | .icmp w => Sys2Proof.Machine.execIcmp w s
  | .sel w => Sys2Proof.Machine.execSel w s
  | .mov w => Sys2Proof.Machine.execMov w s
  | .movi w => Sys2Proof.Machine.execMovi w s
  | .fadd w => Sys2Proof.Machine.execFadd w s
  | .fmul w => Sys2Proof.Machine.execFmul w s
  | .ffmaRn w => Sys2Proof.Machine.execFfmaRn w s
  | .ffmaRz w => Sys2Proof.Machine.execFfmaRz w s
  | .ffmaRd w => Sys2Proof.Machine.execFfmaRd w s
  | .ffmaRu w => Sys2Proof.Machine.execFfmaRu w s
  | .fmin w => Sys2Proof.Machine.execFmin w s
  | .fmax w => Sys2Proof.Machine.execFmax w s
  | .fcmp w => Sys2Proof.Machine.execFcmp w s
  | .fclass w => Sys2Proof.Machine.execFclass w s
  | .fscale w => Sys2Proof.Machine.execFscale w s
  | .hadd2 w => Sys2Proof.Machine.execHadd2 w s
  | .hmul2 w => Sys2Proof.Machine.execHmul2 w s
  | .hfma2F16 w => Sys2Proof.Machine.execHfma2F16 w s
  | .hfma2Bf16 w => Sys2Proof.Machine.execHfma2Bf16 w s
  | .hmin2 w => Sys2Proof.Machine.execHmin2 w s
  | .hmax2 w => Sys2Proof.Machine.execHmax2 w s
  | .cvt w => Sys2Proof.Machine.execCvt w s
  | .cvtsr w => Sys2Proof.Machine.execCvtsr w s
  | .pack2 w => Sys2Proof.Machine.execPack2 w s
  | .plop w => Sys2Proof.Machine.execPlop w s
  | .pmov w => Sys2Proof.Machine.execPmov w s
  | .vote w => Sys2Proof.Machine.execVote w s
  | .shfl w => Sys2Proof.Machine.execShfl w s
  | .rduc w => Sys2Proof.Machine.execRduc w s
  | .matchL w => Sys2Proof.Machine.execMatchL w s
  | .sread w => Sys2Proof.Machine.execSread w s
  | .swrite w => Sys2Proof.Machine.execSwrite w s
  | .hash64 w => Sys2Proof.Machine.execHash64 w s
  | .hcrc w => Sys2Proof.Machine.execHcrc w s
  | .bcmp w => Sys2Proof.Machine.execBcmp w s
  | .bfind w => Sys2Proof.Machine.execBfind w s
  | .exp2 w => Sys2Proof.Machine.execExp2 w s
  | .exp2Acc w => Sys2Proof.Machine.execExp2Acc w s
  | .exp w => Sys2Proof.Machine.execExp w s
  | .expAcc w => Sys2Proof.Machine.execExpAcc w s
  | .log2 w => Sys2Proof.Machine.execLog2 w s
  | .log2Acc w => Sys2Proof.Machine.execLog2Acc w s
  | .ln w => Sys2Proof.Machine.execLn w s
  | .lnAcc w => Sys2Proof.Machine.execLnAcc w s
  | .rcp w => Sys2Proof.Machine.execRcp w s
  | .rcpAcc w => Sys2Proof.Machine.execRcpAcc w s
  | .rsq w => Sys2Proof.Machine.execRsq w s
  | .rsqAcc w => Sys2Proof.Machine.execRsqAcc w s
  | .sqrt w => Sys2Proof.Machine.execSqrt w s
  | .sqrtAcc w => Sys2Proof.Machine.execSqrtAcc w s
  | .sin w => Sys2Proof.Machine.execSin w s
  | .sinAcc w => Sys2Proof.Machine.execSinAcc w s
  | .cos w => Sys2Proof.Machine.execCos w s
  | .cosAcc w => Sys2Proof.Machine.execCosAcc w s
  | .tanh w => Sys2Proof.Machine.execTanh w s
  | .tanhAcc w => Sys2Proof.Machine.execTanhAcc w s
  | .sigm w => Sys2Proof.Machine.execSigm w s
  | .sigmAcc w => Sys2Proof.Machine.execSigmAcc w s
  | .gelu w => Sys2Proof.Machine.execGelu w s
  | .geluAcc w => Sys2Proof.Machine.execGeluAcc w s
  | .silu w => Sys2Proof.Machine.execSilu w s
  | .siluAcc w => Sys2Proof.Machine.execSiluAcc w s
  | .erf w => Sys2Proof.Machine.execErf w s
  | .erfAcc w => Sys2Proof.Machine.execErfAcc w s
  | .fdiv w => Sys2Proof.Machine.execFdiv w s
  | .fdivAcc w => Sys2Proof.Machine.execFdivAcc w s
  | .ld w => Sys2Proof.Machine.execLd w s
  | .st w => Sys2Proof.Machine.execSt w s
  | .lda w => Sys2Proof.Machine.execLda w s
  | .stl w => Sys2Proof.Machine.execStl w s
  | .atom w => Sys2Proof.Machine.execAtom w s
  | .red w => Sys2Proof.Machine.execRed w s
  | .cas w => Sys2Proof.Machine.execCas w s
  | .fence w => Sys2Proof.Machine.execFence w s
  | .pref w => Sys2Proof.Machine.execPref w s
  | .cvta w => Sys2Proof.Machine.execCvta w s
  | .spawn w => Sys2Proof.Machine.execSpawn w s
  | .migr w => Sys2Proof.Machine.execMigr w s
  | .home w => Sys2Proof.Machine.execHome w s
  | .ratom w => Sys2Proof.Machine.execRatom w s
  | .pin w => Sys2Proof.Machine.execPin w s
  | .aqstat w => Sys2Proof.Machine.execAqstat w s
  | .swinit w => Sys2Proof.Machine.execSwinit w s
  | .swarm w => Sys2Proof.Machine.execSwarm w s
  | .swadd w => Sys2Proof.Machine.execSwadd w s
  | .swwait w => Sys2Proof.Machine.execSwwait w s
  | .bar w => Sys2Proof.Machine.execBar w s
  | .bararv w => Sys2Proof.Machine.execBararv w s
  | .rget w => Sys2Proof.Machine.execRget w s
  | .rput w => Sys2Proof.Machine.execRput w s
  | .waite w => Sys2Proof.Machine.execWaite w s
  | .cntrd w => Sys2Proof.Machine.execCntrd w s
  | .tload w => Sys2Proof.Machine.execTload w s
  | .tstore w => Sys2Proof.Machine.execTstore w s
  | .tgather w => Sys2Proof.Machine.execTgather w s
  | .tscatter w => Sys2Proof.Machine.execTscatter w s
  | .tsub w => Sys2Proof.Machine.execTsub w s
  | .twalk w => Sys2Proof.Machine.execTwalk w s
  | .tfill w => Sys2Proof.Machine.execTfill w s
  | .tmove w => Sys2Proof.Machine.execTmove w s
  | .mma w => Sys2Proof.Machine.execMma w s
  | .mmag w => Sys2Proof.Machine.execMmag w s
  | .mmas w => Sys2Proof.Machine.execMmas w s
  | .mmad w => Sys2Proof.Machine.execMmad w s
  | .acz w => Sys2Proof.Machine.execAcz w s
  | .acld w => Sys2Proof.Machine.execAcld w s
  | .acst w => Sys2Proof.Machine.execAcst w s
  | .acrd w => Sys2Proof.Machine.execAcrd w s
  | .opmap w => Sys2Proof.Machine.execOpmap w s
  | .rstat w => Sys2Proof.Machine.execRstat w s
  | .topk w => Sys2Proof.Machine.execTopk w s
  | .topkm w => Sys2Proof.Machine.execTopkm w s
  | .pbound w => Sys2Proof.Machine.execPbound w s
  | .sign w => Sys2Proof.Machine.execSign w s
  | .srep w => Sys2Proof.Machine.execSrep w s
  | .sgsum w => Sys2Proof.Machine.execSgsum w s
  | .sbkt w => Sys2Proof.Machine.execSbkt w s
  | .launch w => Sys2Proof.Machine.execLaunch w s
  | .join w => Sys2Proof.Machine.execJoin w s
  | .tspawn w => Sys2Proof.Machine.execTspawn w s
  | .slice w => Sys2Proof.Machine.execSlice w s
  | .post w => Sys2Proof.Machine.execPost w s
  | .swapout w => Sys2Proof.Machine.execSwapout w s
  | .route w => Sys2Proof.Machine.execRoute w s
  | .cbopen w => Sys2Proof.Machine.execCbopen w s
  | .cbput w => Sys2Proof.Machine.execCbput w s
  | .cbclose w => Sys2Proof.Machine.execCbclose w s
  | .cbstat w => Sys2Proof.Machine.execCbstat w s
  | .nop w => Sys2Proof.Machine.execNop w s
  | .bra w => Sys2Proof.Machine.execBra w s
  | .brx w => Sys2Proof.Machine.execBrx w s
  | .call w => Sys2Proof.Machine.execCall w s
  | .ret w => Sys2Proof.Machine.execRet w s
  | .exitL w => Sys2Proof.Machine.execExit w s
  | .yield w => Sys2Proof.Machine.execYield w s
  | .trap w => Sys2Proof.Machine.execTrap w s
  | .bkpt w => Sys2Proof.Machine.execBkpt w s
  | .tret w => Sys2Proof.Machine.execTret w s
  | .rjset w => Sys2Proof.Machine.execRjset w s
  | .rjarv w => Sys2Proof.Machine.execRjarv w s
  | .rjwait w => Sys2Proof.Machine.execRjwait w s
  | .loop w => Sys2Proof.Machine.execLoop w s
  | .lbrk w => Sys2Proof.Machine.execLbrk w s
  | .doorbellWrite fn q tail => Sys2Proof.Machine.execDoorbellWrite fn q tail s
  | .enableWrite fn v => Sys2Proof.Machine.execEnableWrite fn v s
  | .qerrClear fn => Sys2Proof.Machine.execQerrClear fn s
  | .evheadWrite fn v => Sys2Proof.Machine.execEvheadWrite fn v s
  | .registerWrite fn off v => Sys2Proof.Machine.execRegisterWrite fn off v s
  | .eventWrite fn => Sys2Proof.Machine.execEventWrite fn s
  | .graphNodeReady cmd node => Sys2Proof.Machine.execGraphNodeReady cmd node s
  | .waitReevaluate cmd => Sys2Proof.Machine.execWaitReevaluate cmd s
  | .pllLock die => Sys2Proof.Machine.execPllLock die s
  | .ucieTraining up => Sys2Proof.Machine.execUcieTraining up s
  | .portTraining up => Sys2Proof.Machine.execPortTraining up s
  | .networkPortDown port => Sys2Proof.Machine.execNetworkPortDown port s
  | .ucieLinkDown link => Sys2Proof.Machine.execUcieLinkDown link s
  | .thermalThrottle die dieTemp hbmTemp => Sys2Proof.Machine.execThermalThrottle die dieTemp hbmTemp s
  | .thermalShutdown die dieTemp hbmTemp => Sys2Proof.Machine.execThermalShutdown die dieTemp hbmTemp s
  | .pageWalk walk => Sys2Proof.Machine.execPageWalk walk s
  | .sliceAccept core => Sys2Proof.Machine.execSliceAccept core s
  | .sliceLoadReturn req => Sys2Proof.Machine.execSliceLoadReturn req s
  | .atomicReturn req => Sys2Proof.Machine.execAtomicReturn req s
  | .writeAtHome ent => Sys2Proof.Machine.execWriteAtHome ent s
  | .remoteAck ent => Sys2Proof.Machine.execRemoteAck ent s
  | .remoteLoadReturn req => Sys2Proof.Machine.execRemoteLoadReturn req s
  | .hostAccessComplete req => Sys2Proof.Machine.execHostAccessComplete req s
  | .operationRetire squad cls => Sys2Proof.Machine.execOperationRetire squad cls s
  | .rejoinRelease squad mask => Sys2Proof.Machine.execRejoinRelease squad mask s
  | .syncWordUpdate upd => Sys2Proof.Machine.execSyncWordUpdate upd s
  | .barrierArrival arr => Sys2Proof.Machine.execBarrierArrival arr s
  | .shadowSwap core part => Sys2Proof.Machine.execShadowSwap core part s
  | .shadowSwapBack core part => Sys2Proof.Machine.execShadowSwapBack core part s
  | .teamSave team => Sys2Proof.Machine.execTeamSave team s
  | .saveRetry team squad => Sys2Proof.Machine.execSaveRetry team squad s
  | .teamRestore team => Sys2Proof.Machine.execTeamRestore team s
  | .faultSave squad => Sys2Proof.Machine.execFaultSave squad s
  | .faultRestore squad => Sys2Proof.Machine.execFaultRestore squad s
  | .swapOut squad => Sys2Proof.Machine.execSwapOut squad s
  | .swapIn squad => Sys2Proof.Machine.execSwapIn squad s
  | .squadRetire squad => Sys2Proof.Machine.execSquadRetire squad s
  | .noProgress core part => Sys2Proof.Machine.execNoProgress core part s
  | .taskEngineNoProgress die => Sys2Proof.Machine.execTaskEngineNoProgress die s
  | .launchRecordRead entry => Sys2Proof.Machine.execLaunchRecordRead entry s
  | .launchAccept die => Sys2Proof.Machine.execLaunchAccept die s
  | .teamPlace group => Sys2Proof.Machine.execTeamPlace group s
  | .roamingAdmission handle => Sys2Proof.Machine.execRoamingAdmission handle s
  | .launchComplete handle => Sys2Proof.Machine.execLaunchComplete handle s
  | .budgetExhausted squad => Sys2Proof.Machine.execBudgetExhausted squad s
  | .heldUpdateRetry upd => Sys2Proof.Machine.execHeldUpdateRetry upd s
  | .leafDepart squad lane => Sys2Proof.Machine.execLeafDepart squad lane s
  | .leafSend core => Sys2Proof.Machine.execLeafSend core s
  | .bundleSend die chip => Sys2Proof.Machine.execBundleSend die chip s
  | .bundleArrival core b => Sys2Proof.Machine.execBundleArrival core b s
  | .transportRetryLimit bundle => Sys2Proof.Machine.execTransportRetryLimit bundle s
  | .leafArrival leaf => Sys2Proof.Machine.execLeafArrival leaf s
  | .ringReadback core => Sys2Proof.Machine.execRingReadback core s
  | .transitCredit core => Sys2Proof.Machine.execTransitCredit core s
  | .arrivalDispatch core => Sys2Proof.Machine.execArrivalDispatch core s
  | .binRelease bin => Sys2Proof.Machine.execBinRelease bin s
  | .poolTableRefresh die wide => Sys2Proof.Machine.execPoolTableRefresh die wide s
  | .copyOperationStart core => Sys2Proof.Machine.execCopyOperationStart core s
  | .copyRowWritten op => Sys2Proof.Machine.execCopyRowWritten op s
  | .streamItem stream => Sys2Proof.Machine.execStreamItem stream s
  | .matrixOperationStart core engine => Sys2Proof.Machine.execMatrixOperationStart core engine s
  | .rowOperationStart core => Sys2Proof.Machine.execRowOperationStart core s
  | .signatureOperationStart core => Sys2Proof.Machine.execSignatureOperationStart core s
  | .routeOperationStart die => Sys2Proof.Machine.execRouteOperationStart die s
  | .contextOpen die => Sys2Proof.Machine.execContextOpen die s
  | .rowAdmission die => Sys2Proof.Machine.execRowAdmission die s
  | .rowComplete die row => Sys2Proof.Machine.execRowComplete die row s
  | .tokenTimeout die ctx token => Sys2Proof.Machine.execTokenTimeout die ctx token s
  | .tokenRelease die ctx token => Sys2Proof.Machine.execTokenRelease die ctx token s
  | .ringReadmission die ctx => Sys2Proof.Machine.execRingReadmission die ctx s
  | .combineOverflow die => Sys2Proof.Machine.execCombineOverflow die s
  | .contextClose die => Sys2Proof.Machine.execContextClose die s
  | .unassignedOpcode eng tail word => Sys2Proof.Machine.execUnassignedOpcode eng tail word s
  | .powerLoss connector => Sys2Proof.Machine.execPowerLoss connector s
  | .cmdLaunch => Sys2Proof.Machine.execCmdLaunch s
  | .graph => Sys2Proof.Machine.execGraph s
  | .cmdCopy => Sys2Proof.Machine.execCmdCopy s
  | .signal => Sys2Proof.Machine.execSignal s
  | .cmdWait => Sys2Proof.Machine.execCmdWait s
  | .invalidate => Sys2Proof.Machine.execInvalidate s
  | .resume => Sys2Proof.Machine.execResume s
  | .preempt => Sys2Proof.Machine.execPreempt s
  | .release => Sys2Proof.Machine.execRelease s
  | .summary => Sys2Proof.Machine.execSummary s
  | .create => Sys2Proof.Machine.execCreate s
  | .delete => Sys2Proof.Machine.execDelete s
  | .setasc => Sys2Proof.Machine.execSetasc s
  | .config => Sys2Proof.Machine.execConfig s
  | .policy => Sys2Proof.Machine.execPolicy s
  | .recoveryLoad => Sys2Proof.Machine.execRecoveryLoad s
  | .partReset => Sys2Proof.Machine.execPartReset s
  | .powerGood => Sys2Proof.Machine.execPowerGood s
  | .firmwareCheck => Sys2Proof.Machine.execFirmwareCheck s
  | .hbmTraining => Sys2Proof.Machine.execHbmTraining s
  | .pcieLinkUp => Sys2Proof.Machine.execPcieLinkUp s
  | .gangEnterActive => Sys2Proof.Machine.execGangEnterActive s
  | .clauseStart => Sys2Proof.Machine.execClauseStart s
  | .clauseFetch => Sys2Proof.Machine.execClauseFetch s
  | .clauseBoundary => Sys2Proof.Machine.execClauseBoundary s
  | .classAgeing => Sys2Proof.Machine.execClassAgeing s
  | .entryTimeLimit => Sys2Proof.Machine.execEntryTimeLimit s
  | .sfuAccept => Sys2Proof.Machine.execSfuAccept s
  | .memoryPortAccept => Sys2Proof.Machine.execMemoryPortAccept s
  | .runAhead => Sys2Proof.Machine.execRunAhead s
  | .fenceComplete => Sys2Proof.Machine.execFenceComplete s
  | .counterWaitRelease => Sys2Proof.Machine.execCounterWaitRelease s
  | .syncWaiterRelease => Sys2Proof.Machine.execSyncWaiterRelease s
  | .ringWaiterRelease => Sys2Proof.Machine.execRingWaiterRelease s
  | .joinRelease => Sys2Proof.Machine.execJoinRelease s
  | .barrierRelease => Sys2Proof.Machine.execBarrierRelease s
  | .cbstatResult => Sys2Proof.Machine.execCbstatResult s
  | .cbputAnswer => Sys2Proof.Machine.execCbputAnswer s

end Sys2Proof.Machine
end

