-- ==== Sys2Proof/Machine/Sched.lean ====
section
/-!
DEFINITION. The issue of the next word of a gang (R95, R107, R179, R209, R210, R229), the passage of time, the order in which the part's
own events are offered when the schedule names none, and the state in which one given instruction is the next to issue.
-/
namespace Sys2Proof.Machine

/-! ### Time -/

/-- The squads with a gang in an active entry of the bank that runs. -/
def State.holders (s : State) : List Nat :=
  s.gangs.filterMap fun g => if g.active then
      match s.squad? g.squad with | some q => if s.frozen q then none else some q.id | none => none
    else none

/-- A gang holds its active entry while it waits, for a cause that %holdcy counts (R211, R212, R269, R285): not a structural stall of the
memory port or of the function unit, nor a walk of its access. -/
def State.holdsEntry (s : State) (g : Gang) : Bool :=
  g.active &&
  match g.wait with
  | .none => g.phase == .body && (!g.block.isEmpty || s.firstAwaits g g.header g.words g.pos)
  | .walk => g.phase != .body
  | .sfu => false
  | .port => false
  | .buffer => false
  | .remote => false
  | _ => true

/-- The delay registers of a core that a wait raises (R69, R275, R297, R320, R335, R348, R369), for a gang of partition p in a clause of
class e. -/
def delayCore (w : Wait) (e p dt : Nat) (c : Core) : Core :=
  match w with
  | .buffer => { c with sbdly := c.sbdly + dt }
  | .remote => { c with rmdly := c.rmdly + dt }
  | .sync _ _ _ _ => { c with swwdly := c.swwdly + dt }
  | .ring _ _ _ _ _ _ => { c with ringdly := c.ringdly + dt }
  | .barrier _ _ _ => { c with bardly := c.bardly + dt }
  | .counter _ _ => { c with cntdly := c.cntdly + dt }
  | .waitz => { c with cntdly := c.cntdly + dt }
  | .join _ _ _ _ _ => { c with joindly := c.joindly + dt }
  | .queue =>
    match e with
    | 5 => { c with cpqdly := c.cpqdly + dt }
    | 6 => { c with mxqdly := (List.range 3).map fun k => c.mxqdly.getD k 0 + (if k = engineOf p then dt else 0) }
    | 7 => { c with rwqdly := c.rwqdly + dt }
    | 8 => { c with sgqdly := c.sgqdly + dt }
    | 9 => { c with lqdly := c.lqdly + dt }
    | _ => c
  | _ => c

/-- The delay registers of a die that a full queue of its engines raises (R382, R407). -/
def delayDie (route : Bool) (dt : Nat) (d : Die) : Die :=
  if route then { d with rtqdly := d.rtqdly + dt } else { d with cbqdly := d.cbqdly + dt }

/-- dt cycles of one gang's wait. -/
def State.delayGang (s : State) (dt : Nat) (g : Gang) : State :=
  match s.squad? g.squad with
  | none => s
  | some q =>
    let s := if s.holdsEntry g then s.modPart q.core q.part fun p => { p with holdcy := p.holdcy + dt } else s
    if g.wait = .none then s
    else if g.wait = .sfu then s.modPart q.core q.part fun p => { p with sfudly := p.sfudly + dt }
    else if g.wait = .queue ∧ g.header.eng = 10 then s.modDie (dieOf q.core) (delayDie ((opBits g.word).toNat == 0) dt)
    else s.modCore q.core (delayCore g.wait g.header.eng.toNat q.part dt)

/-- dt cycles of the entries that RJWAITs of NOSW clauses keep (R212). -/
def State.delayKept (s : State) (dt : Nat) (q : Squad) : State :=
  if q.kept.isEmpty then s else s.modPart q.core q.part fun p => { p with holdcy := p.holdcy + dt * q.kept.length }

/-- dt cycles of a miss that waits for a walker slot (R69). -/
def State.delayWalk (s : State) (dt : Nat) (w : Walk) : State :=
  if w.pref || (s.walking (dieOf w.core)).any fun x => x.id == w.id then s
  else s.modCore w.core fun c => { c with wkdly := c.wkdly + dt }

/-- dt cycles of an update that waits at its vault's engine: beyond the 64 of the engine's queue it waits in its sender's store path
(R275, R276). -/
def State.delayUpd (s : State) (dt : Nat) (u : Upd) : State :=
  if u.held.isSome || !homeIsVault u.home then s
  else
    let c := homeCore u.home
    let before := (s.upds.filter fun x => x.held.isNone && homeIsVault x.home && homeCore x.home == c && decide (x.id < u.id)).length
    let s := s.modCore c fun x => { x with syncq := x.syncq + dt }
    if before < 64 then s else s.modCore u.core fun x => { x with sbdly := x.sbdly + dt }

/-- dt cycles of the lanes of a squad that wait for an entry of the departure buffer (R240). -/
def State.delayDepart (s : State) (dt : Nat) (q : Squad) : State :=
  let n := (q.lanes.filter fun x => match x.st with | .departing _ _ (some _) => true | _ => false).length
  if n = 0 then s else s.modCore q.core fun c => { c with depdly := c.depdly + dt * n }

/-- dt cycles of the threads of a bin (R258). -/
def State.delayBin (s : State) (dt : Nat) (b : Bin) : State :=
  s.modCore b.core fun c => { c with bindly := c.bindly + dt * b.leaves.length }

/-- dt core cycles pass: what waits is counted, the budgets of squads that hold an active entry fall (R359), a hot die withholds cycles
(R432), and occupancies of the pool whose time has come are sent (R242). -/
def State.tick (s : State) (dt : Nat) : State :=
  if dt = 0 then s
  else
    let hs := s.holders
    let s := s.gangs.foldl (fun s g => s.delayGang dt g) s
    let s := s.walks.foldl (fun s w => s.delayWalk dt w) s
    let s := s.upds.foldl (fun s u => s.delayUpd dt u) s
    let s := s.squads.foldl (fun s q => if q.roam then s.delayDepart dt q else s.delayKept dt q) s
    let s := s.bins.foldl (fun s b => s.delayBin dt b) s
    ({ s with
       now := s.now + dt
       squads := s.squads.map fun (q : Squad) => if q.budget != 0 && hs.contains q.id then { q with budget := q.budget - dt } else q
       dies := s.dies.map fun (d : Die) => if d.throttle = 0 then d else { d with throttled := d.throttled + dt * d.throttle } }).poolsDue

/-! ### Issue -/

/-- The initiation interval of an SFU word: fast, accurate, accurate FDIV (R179). -/
def sfuInterval (w : Word) : Nat :=
  let op := (opBits w).toNat
  if op < 128 then 1 else if op = 142 then 4 else 2

/-- The job slice of a squad has run out (R359). -/
def State.spent (s : State) (q : Squad) : Bool :=
  q.budget == 0 && (match s.launch? q.launch with | some l => !q.roam && l.r.budget != 0 | none => false)

/-- A gang may issue its next word. -/
def State.mayIssue (s : State) (g : Gang) (q : Squad) : Bool :=
  g.active && g.phase == .body && g.wait == .none && g.block.isEmpty && !s.frozen q && !s.spent q

/-- The gangs of a partition that have issued in the present cycle, with their ports (R210). -/
def State.issuedNow (s : State) (core part : Nat) : List (Nat × Nat) :=
  let p := s.part core part
  if p.issued = s.now then p.ports else []

/-- The issue ports of a partition that are free in the present cycle: no gang has issued there, and no instruction stands stalled in place
(R179, R203). -/
def State.freePorts (s : State) (core part : Nat) : List Nat :=
  let done := s.issuedNow core part
  [0, 1].filter fun p => !(done.any fun x => x.2 == p) &&
    !(s.gangs.any fun g => g.port == some p && g.active && match s.squad? g.squad with
      | some q => q.core == core && q.part == part && !s.frozen q
      | none => false)

/-- A gang is ready to issue on a port in the present cycle (R210): on its own, where its word stands stalled in place, or on a free one. -/
def State.eligible (s : State) (g : Gang) (q : Squad) : Bool :=
  s.mayIssue g q && (match g.header.classAt g.pos with | some e => !s.interlocked g e g.word | none => true) &&
  !((s.issuedNow q.core q.part).any fun x => x.1 == g.id) && (g.port.isSome || !(s.freePorts q.core q.part).isEmpty)

/-- Strictly earlier in the order of R32, by class and then by entry. -/
def earlier32 (a b : Gang × Squad) : Bool :=
  let ra := classRank a.1 a.2
  let rb := classRank b.1 b.2
  decide (ra < rb) || (ra == rb && decide (a.1.entry < b.1.entry))

/-- A port of the partition chooses this gang (R32, R210): its word stands at the port, or no other gang that is ready to issue comes before it.
Between gangs of one class and one entry time the schedule chooses. -/
def State.portChooses (s : State) (g : Gang) (q : Squad) : Bool :=
  s.eligible g q && (g.port.isSome ||
    !s.gangs.any fun x => match s.squad? x.squad with
      | some y => y.core == q.core && y.part == q.part && x.port.isNone && s.eligible x y && earlier32 (x, y) (g, q)
      | none => false)

/-- An instruction of the gang would enter the same engine's queue as one of a gang of a lower partition that issues in the same cycle, which
enters first (R299, R322, R337). -/
def State.engineTurn (s : State) (g : Gang) (q : Squad) : Bool :=
  match g.header.classAt g.pos with
  | some e =>
    if e = .mtx ∨ e = .row ∨ e = .sig then
      !s.gangs.any fun x => match s.squad? x.squad with
        | some y => y.core == q.core && decide (y.part < q.part) && x.header.classAt x.pos == some e &&
            (e != .mtx || engineOf y.part == engineOf q.part) && s.portChooses x y
        | none => false
    else true
  | none => true

/-- The gang's word is the next to issue. -/
def State.chosen (s : State) (g : Gang) (q : Squad) : Bool := s.portChooses g q && s.engineTurn g q

/-- A terminal instruction that does not stand last in a CTL clause (R96). -/
def Gang.misplaced (g : Gang) : Bool := g.header.eng == 11 && decide (g.pos < g.header.len) && ctlTerminal (opBits g.word).toNat

/-- The cycles from the issue of an instruction until its result stands in a register (R72, R169, R179, R259, R276), at most: over 18 hops where
they count; 6 where the chapter of its unit gives no number (notes/assumptions/59.md). A result that comes later opens its own window
(State.landing). -/
def regLatency (e : Eng) (i : Instr) (w : Word) : Nat :=
  match e with
  | .sfu => if (opBits w).toNat < 128 then 10 else if (opBits w).toNat = 142 then 30 else 22
  | .lane =>
    (match i with
     | .imul _ | .imulh _ | .imad _ | .bcmp _ | .bfind _ | .hcrc _ => 8
     | .hash64 _ | .vote _ | .shfl _ | .rduc _ | .matchL _ => 10
     | _ => 6)
  | .mem => 22 + 3 * 18
  | .mig => 12
  | .sync => 22 + 3 * 18
  | _ => 6

/-- What a gang reads of the uniform registers that other gangs of its squad have lately written is open for each: the old value or the new
(R170). -/
def State.uniformView (s : State) (g : Gang) (q : Squad) (latency : Nat) : State :=
  let others := (s.gangs.filter fun x => x.squad == q.id && x.id != g.id).map (·.id)
  if others.isEmpty && q.us == {} then s
  else
    let recent := q.us.recent.filter fun x => decide (s.now < x.till)
    let (s, view) := (recent.filter fun x => x.gangs.contains g.id).foldl (fun (acc : State × List (Nat × W32)) x =>
      let (r, s) := acc.1.draw
      (s, if r.getLsbD 0 then acc.2 ++ [(x.n, x.old)] else acc.2)) (s, [])
    s.modSquad q.id fun y => { y with us := { recent := recent, view := view, till := s.now + latency, gangs := others } }

/-- The port that a gang's word takes: the one at which it stands, else the lowest that is free. -/
def State.portOf (s : State) (g : Gang) (q : Squad) : Nat := g.port.getD ((s.freePorts q.core q.part).headD 0)

/-- A port takes the next word of a gang, unless a matching comparator traps (R210, R229). -/
def State.takePort (s : State) (g : Gang) (q : Squad) : State :=
  let ports := s.issuedNow q.core q.part
  let port := s.portOf g q
  s.breakTest g q (g.pc + 8#64 * BitVec.ofNat 64 g.pos) fun s =>
    (s.modPart q.core q.part fun p => { p with issued := s.now, ports := ports ++ [(g.id, port)], reported := false }).modGang g.id fun x =>
      { x with skipCmp := true, boost := 0, ready := s.now, port := some port }

/-- The next word of a gang is presented. An SFU word that finds the unit busy, or another's before it, waits in place; a matching comparator may trap (R229); a word that is
misplaced or does not decode traps (R107). Otherwise the instruction is answered. -/
def State.present (s : State) (g : Gang) (q : Squad) : State × Option Instr :=
  match g.header.classAt g.pos with
  | none => (s.decodeTrap g cIllegalClause, none)
  | some e =>
    if e = .sfu && (decide (s.now < (s.part q.core q.part).sfuFree) || s.sfuBefore g q (s.portOf g q)) then
      ((s.modGang g.id fun x => { x with port := some (s.portOf g q) }).stall g.id .sfu, none)
    else
      let s := s.takePort g q
      if !(match s.gang? g.id with | some x => x.skipCmp | none => false) then (s, none)
      else if g.misplaced then (s.decodeTrap g cIllegalClause, none)
      else
        match decodeWord e (g.header.isTailAt g.pos) g.word with
        | .error _ => (s.decodeTrap g cIllegalEncoding, none)
        | .ok i =>
          let s := s.uniformView g q (regLatency e i g.word)
          ((if e = .sfu then s.modPart q.core q.part fun p => { p with sfuFree := s.now + sfuInterval g.word } else s), some i)

/-- The issue of gang g: the state in which its instruction is performed, and the instruction; none when no port chooses it. -/
def State.issue (s : State) (g : Nat) : State × Option Instr :=
  match { s with cur := g }.here? with
  | none => (s, none)
  | some (x, q) => if s.chosen x q then { s with cur := g }.present x q else (s, none)

/-- The issue that comes next when the schedule names none: of the partition that has issued least lately, the first gang in the order of
R32 that is ready to issue in the present cycle. -/
def State.nextIssue (s : State) : Option Nat :=
  let ready := s.gangs.filterMap fun g =>
    match s.squad? g.squad with
    | some q => if s.chosen g q then some (g, q, (s.part q.core q.part).issued) else none
    | none => none
  (firstBy (fun a b => decide (a.2.2 < b.2.2) ||
    (a.2.2 == b.2.2 && a.2.1.core == b.2.1.core && a.2.1.part == b.2.1.part && before32 (a.1, a.2.1) (b.1, b.2.1))) ready).map fun x => x.1.id

/-! ### The events that are offered -/

/-- The events of a gang. -/
def gangOffers (g : Gang) : List Agendum :=
  let ev (i : Instr) : Agendum := .gang 0 g.id i
  (if g.stats.isEmpty then [] else [ev .cbstatResult]) ++
  match g.wait with
  | .none => if g.phase = .boundary then [ev .clauseBoundary] else
      ev .classAgeing :: if g.active then (if g.phase = .head then [ev .entryTimeLimit, ev .clauseStart] else []) else [ev .gangEnterActive]
  | .fetch => [ev .clauseFetch, ev .entryTimeLimit]
  | .waitz => [ev .counterWaitRelease, ev .entryTimeLimit]
  | .counter _ _ => [ev .counterWaitRelease, ev .entryTimeLimit]
  | .sfu => [ev .sfuAccept]
  | .port => [ev .memoryPortAccept]
  | .buffer => [ev .memoryPortAccept]
  | .remote => [ev .memoryPortAccept]
  | .limit .rm => [ev .memoryPortAccept]
  | .fence _ _ _ => [ev .fenceComplete, ev .entryTimeLimit]
  | .sync _ _ _ _ => [ev .syncWaiterRelease, ev .entryTimeLimit]
  | .ring _ _ _ _ _ _ => [ev .ringWaiterRelease, ev .entryTimeLimit]
  | .join _ _ _ _ _ => [ev .joinRelease, ev .entryTimeLimit]
  | .barrier _ _ _ => [ev .barrierRelease, ev .entryTimeLimit]
  | .cbput _ => [ev .cbputAnswer, ev .entryTimeLimit]
  | _ => []

/-- The steps of bring-up that remain. -/
def State.bootOffers (s : State) : List Instr :=
  (if s.boot.step < 5 then
    [.powerGood] ++ (List.range 4).map Instr.pllLock ++ [.firmwareCheck, .pcieLinkUp, .ucieTraining 15, .hbmTraining] else []) ++
  (if s.boot.portsTrained then [] else [.portTraining 255]) ++ s.lostLinks.map Instr.ucieLinkDown

/-- The cores with something of the part's own to do. -/
def State.busyCores (s : State) : List Nat :=
  ((s.reqs.map (·.owner)) ++ (s.ops.map (·.core)) ++ (s.flights.map fun f => f.leaf.dcore) ++ (s.rings.map (·.core)) ++
   (s.rings.map fun r => r.leaf.dcore) ++ (s.cores.filter fun c => !c.2.depart.isEmpty || !c.2.inbound.isEmpty).map (·.1)).eraseDups

def coreOffers (s : State) (c : Nat) : List Instr :=
  let has (k : CounterClass) : Bool := s.ops.any fun o => o.core == c && o.cls == k && !o.done
  (if s.reqs.any fun r => r.owner == c && !r.accepted then [.sliceAccept c] else []) ++
  (if has .cp then [.copyOperationStart c] else []) ++
  (if has .mx then (List.range 3).map (Instr.matrixOperationStart c) else []) ++
  (if has .rw then [.rowOperationStart c] else []) ++ (if has .sg then [.signatureOperationStart c] else []) ++
  [.leafSend c, .ringReadback c, .transitCredit c, .arrivalDispatch c]

def dieOffers (s : State) (d : Nat) : List Instr :=
  let x := s.die d
  (if s.ops.any fun o => dieOf o.core == d && o.cls == .xp then
    [.routeOperationStart d, .contextOpen d, .rowAdmission d, .combineOverflow d, .contextClose d] else []) ++
  (x.ctxs.flatMap fun c => if c.2.isOpen then
      [.ringReadmission d c.1, .contextClose d] ++
      (((List.range c.2.toks.length).filter fun t => ((c.2.tok t).complete || (c.2.tok t).slot.isSome) && !(c.2.tok t).released).flatMap fun t =>
        [.tokenRelease d c.1 t, .tokenTimeout d c.1 t])
    else []) ++
  (x.rowsIn.map fun r => .rowComplete d r.id) ++
  (if s.pendLaunch.any fun p => p.die == d then [.launchAccept d, .taskEngineNoProgress d] else []) ++
  (if s.bundles.any fun b => b.die == d && !b.sent then (s.bundles.filter fun b => b.die == d && !b.sent).map (fun b => .bundleSend d b.chip) else [])

def squadOffers (q : Squad) : List Instr :=
  if q.roam then
    ((List.range 32).filter fun l => match (q.lane l).st with | .departing _ _ _ => true | _ => false).map fun l => .leafDepart q.id l
  else
    (match q.place with
     | .resident => [.squadRetire q.id, .budgetExhausted q.id, .faultSave q.id, .swapOut q.id]
     | .saved _ _ => [.faultRestore q.id, .swapIn q.id]) ++
    (if q.retry then [.saveRetry q.team q.id] else []) ++
    ((List.range 8).filter fun j => (q.mask j).fired != 0).map (fun j => .rejoinRelease q.id j)

def reqOffers (r : Req) : List Instr :=
  if r.host then [.hostAccessComplete r.id]
  else if r.otherChip then [.remoteLoadReturn r.id]
  else if !r.accepted then []
  else if r.isAtomic then [.atomicReturn r.id]
  else if r.remote then [.remoteLoadReturn r.id]
  else [.sliceLoadReturn r.id]

/-- The partitions with a resident squad. -/
def State.busyParts (s : State) : List (Nat × Nat) :=
  ((s.squads.filter fun q => q.place == .resident).map fun q => (q.core, q.part)).eraseDups

/-- The part's own events in the order in which they are offered; the first that changes the state happens. -/
def State.offers (s : State) : List Agendum :=
  let ev (l : List Instr) : List Agendum := l.map (Agendum.event 0)
  ev s.bootOffers ++
  (s.gangs.flatMap gangOffers) ++
  ev (s.walks.map fun w => .pageWalk w.id) ++
  ev (s.reqs.flatMap reqOffers) ++
  ev (s.ents.map fun e => if e.athome then .remoteAck e.id else .writeAtHome e.id) ++
  ev (s.busyCores.flatMap (coreOffers s)) ++
  ev ((s.ops.filter fun o => o.inProgress).map fun o => .copyRowWritten o.id) ++
  ev (s.upds.map fun u => if u.held.isSome then .heldUpdateRetry u.id else .syncWordUpdate u.id) ++
  ev (s.arrs.map fun a => .barrierArrival a.id) ++
  ev (s.flights.map fun f => .leafArrival f.id) ++
  ev (s.bins.map fun b => .binRelease b.id) ++
  ev (s.streams.map fun x => .streamItem x.id) ++
  ev (((List.range 4).map (dieOffers s)).flatten) ++
  ev (s.squads.flatMap squadOffers) ++
  ev ((((s.ops.filter (·.done)).map fun o => (o.squad, o.cls)).eraseDups).map fun x => .operationRetire x.1 x.2) ++
  ev ((s.pendLaunch.filter fun p => p.bytes.isNone).map fun p => .launchRecordRead p.id) ++
  ev ((s.ops.filter fun o => match o.i with | .tspawn _ => !o.started | _ => false).map fun o => .launchRecordRead o.id) ++
  ev ((s.launches.filter fun l => l.st == .admitting).map fun l => .roamingAdmission l.handle.toNat) ++
  (if s.launches.isEmpty then [] else ev ((List.range 16).map Instr.teamPlace)) ++
  ev (s.teams.flatMap fun t => if t.saved.isSome then [.teamRestore t.id] else if t.retry then [.saveRetry t.id 0] else [.teamSave t.id]) ++
  ev (s.busyParts.flatMap fun p => [.shadowSwap p.1 p.2, .shadowSwapBack p.1 p.2]) ++
  ev ((s.launches.filter fun l => match l.st with | .complete _ => false | _ => true).map fun l => .launchComplete l.handle.toNat) ++
  ev ((s.events.map (·.fn)).eraseDups.map Instr.eventWrite) ++
  ev ((s.cmds.filter fun c => c.op == 0x05).map fun c => .waitReevaluate c.id) ++
  ev (s.cmds.flatMap fun c => ((List.range c.nodes.length).filter fun i => match c.nodes[i]? with | some (.waiting, _, _) => true | _ => false).map
    fun i => .graphNodeReady c.id i) ++
  ((s.fns.flatMap fun f => (f.queues.filter fun q => q.head != q.tail).map fun q => (f.id, q)).map fun x =>
    let o := fieldAt (s.mem.readBytes (hostHome (x.2.ring + 64 * (x.2.head % 2 ^ x.2.log))) 1) 0 1
    let i : Instr := match o with
      | 0x01 => .cmdLaunch | 0x02 => .graph | 0x03 => .cmdCopy | 0x04 => .signal | 0x05 => .cmdWait | 0x06 => .invalidate
      | 0x07 => .resume | 0x08 => .preempt | 0x09 => .release | 0x0A => .summary | 0x10 => .create | 0x11 => .delete
      | 0x12 => .setasc | 0x13 => .config | _ => .policy
    .cmd 0 x.1 x.2.q i) ++
  ((s.cmds.filter fun c => c.op == 0x06).map fun c => .cmd 0 c.fn c.q .invalidate) ++
  ((s.cmds.filter fun c => c.op == 0x07).map fun c => .cmd 0 c.fn c.q .resume) ++
  ev (s.busyParts.map fun p => .noProgress p.1 p.2)

/-! ### One instruction, next to issue -/

/-- A launch, a team and a squad of one full gang on core 0 that stands at the first word of the clause given, with the part up and the other
gangs of its partition out of their entries, and the issue of that gang as the next step. -/
def State.holding (s : State) (hdr word : Word) : State :=
  let h : Word := BitVec.ofNat 64 s.nextHandle
  let n := s.nextId
  let l : Launch := { handle := h, die := 0, fn := 0, asc := 0, r := { vregs := 320, sregs := 512, accs := 4, tiles := 16, tthreads := 32 },
                      st := .running, next := 1, teams := 1 }
  let t : Team := { id := n, launch := h, cores := [0], threads := 32, nsquads := 1, scratch := 65536, base := [0], bars := List.replicate 16 {} }
  let q : Squad := { id := n + 1, launch := h, team := n, vregs := 320, sregs := 512, accs := 4, tiles := 16,
                     lanes := List.replicate 32 { st := .run }, rj := List.replicate 8 {} }
  let g : Gang := { id := n + 2, squad := n + 1, lanes := 0xFFFFFFFF, pc := 0, pos := 1, phase := .body, hdr := hdr,
                    words := word :: List.replicate ((Header.ofWord hdr).len - 1) 0, active := true }
  let away := (s.squads.filter fun y => y.core == 0 && y.part == 0).map (·.id)
  let s := s.modPart 0 0 fun _ => {}
  { s with
    boot := { s.boot with powered := true, step := 5, pcie := true, ports := 255, portsTrained := true, ucie := 15, recovery := false }
    dies := s.dies.map fun (d : Die) => { d with clock0 := some (d.clock0.getD s.now) }
    launches := s.launches ++ [l], teams := s.teams ++ [t], squads := s.squads ++ [q], gangs := (s.gangs.map fun (x : Gang) => if away.contains x.squad then { x with active := false } else x) ++ [g]
    nextId := n + 3, nextHandle := s.nextHandle + 1
    agenda := .issue 0 (n + 2) :: s.agenda }

end Sys2Proof.Machine
end

