-- ==== Sys2Proof/Machine/Step.lean ====
section
/-!
DEFINITION. The step of the machine. The first item of the agenda happens: a step of the part, of the host or of the world outside, or the
issue of a gang. With an empty agenda the first of the part's own events that changes the state happens; else a ready gang issues; else
a cycle passes. Every order that the specification allows is the order of some agenda.
-/
namespace Sys2Proof.Machine

/-- One item of the agenda, dt cycles later. -/
def perform (a : Agendum) (s : State) : Result :=
  match a with
  | .event dt i => if i.isEvent then exec i (s.tick dt) else .next (s.tick dt)
  | .gang dt g i => if i.isEvent then exec i { s.tick dt with cur := g } else .next (s.tick dt)
  | .cmd dt f q i => if i.isEvent then exec i { s.tick dt with cmdSel := (f, q) } else .next (s.tick dt)
  | .issue dt g =>
    match (s.tick dt).issue g with
    | (t, some i) => exec i t
    | (t, none) => .next t

/-- The first item of a list that changes more of the state than the selection, with its outcome. -/
def firstChange (l : List Agendum) (s : State) : Option Result :=
  match l with
  | [] => none
  | a :: rest =>
    match perform a s with
    | .next t => if { t with cur := s.cur, cmdSel := s.cmdSel } = s then firstChange rest s else some (.next t)
    | r => some r

/-- A step on an empty agenda. -/
def idle (s : State) : Result :=
  match firstChange s.offers s with
  | some r => r
  | none =>
    match s.nextIssue with
    | some g => perform (.issue 0 g) s
    | none => .next (s.tick 1)

/-- The step. A module without power takes no step but a part reset (R427, R432). -/
def step (s : State) : Host.Outcome State Fault Refusal :=
  match s.agenda with
  | [] => if s.boot.powered then idle s else .fault .unpowered
  | a :: rest =>
    if s.boot.powered then perform a { s with agenda := rest }
    else
      match a with
      | .event dt .partReset => perform (.event dt .partReset) { s with agenda := rest }
      | _ => .fault .unpowered

/-- s with the one-instruction clause of word w (its header in bits 63 to 0, its instruction in bits 127 to 64) as the clause of a gang
that issues in the next step. -/
def State.withFetchWord (s : State) (_nbits w : Nat) : State := s.holding (BitVec.ofNat 64 w) (BitVec.ofNat 64 (w / 2 ^ 64))

end Sys2Proof.Machine
end

