-- ==== Sys2Proof/Safety.lean ====
section
/-!
DEFINITION. What counts as a safe run, and the terms in which the statements are made.
-/
namespace Sys2Proof

open Machine

/-- A state whose memory keeps its one canonical form, so that equal memories are equal data. -/
def Safe (s : State) : Prop := s.mem.wf = true

/-- What a LANE or SFU word of k result registers leaves when it runs in gang g of squad q: its result in the held lanes, and the gang
past its word. -/
def laneDone (s : State) (g : Gang) (q : Squad) (c : Common) (k : Nat) (f : Nat → Nat × Flags) : State :=
  (s.modSquad q.id fun _ => resultPut g q c k f).advance g.id

/-- In every gang whose operands are legal for it, instruction i completes and writes f. -/
def Gives (i : Instr) (s : State) (ok : Squad → Bool) (c : Common) (k : Nat) (f : Squad → Nat → Nat × Flags) : Prop :=
  ∀ g q, s.here? = some (g, q) → ok q = true → exec i s = .next (laneDone s g q c k (f q))

/-- The legal operands of a word of format FM with 32-bit sources and one result register, uniform form included. -/
def okFM (w : FM) (q : Squad) : Bool := operandsOk q w.c [(.r32, w.sa), (.r32, w.sb)] 1 true false
/-- The same with one source. -/
def okFM1 (w : FM) (q : Squad) : Bool := operandsOk q w.c [(.r32, w.sa)] 1 true false
/-- The same with three. -/
def okF3 (w : F3) (q : Squad) : Bool := operandsOk q w.c [(.r32, w.sa), (.r32, w.sb), (.r32, w.sc)] 1 true false

/-- v mod 2^w. -/
def wrapTo (w : Nat) (v : Int) : Nat := (v % (2 ^ w : Nat)).toNat

/-- The saturation of R132: to the range of the signed or unsigned type of w bits; the result's bits. -/
def clampTo (w : Nat) (unsigned : Bool) (v : Int) : Nat :=
  let lo : Int := if unsigned then 0 else -(2 ^ (w - 1) : Nat)
  let hi : Int := if unsigned then (2 ^ w : Nat) - 1 else (2 ^ (w - 1) : Nat) - 1
  wrapTo w (max lo (min hi v))

/-- An operand read by the U bit of R132. -/
def readInt {w : Nat} (unsigned : Bool) (x : BitVec w) : Int := if unsigned then x.toNat else x.toInt

/-- Instruction i completes in s, in a next state of which P holds. -/
def Does (i : Instr) (s : State) (P : State → Prop) : Prop := ∃ t, exec i s = .next t ∧ P t

/-- Lane l of a squad stands in a gang at the start of the clause at pc. -/
def Goes (t : State) (squad l : Nat) (pc : Word) : Prop :=
  ∃ x ∈ t.gangs, x.squad = squad ∧ x.lanes.getLsbD l = true ∧ x.pc = pc ∧ x.pos = 0

/-- What an instruction reads of a thread: its work identifier, registers, predicates and flags. -/
def laneFile (x : Lane) : Word × RegFile × BitVec 24 × Flags := (x.wid, x.v, x.p, x.ff)

/-- The registers of a squad: uniform registers, those of its lanes, rejoin masks, tile descriptors and accumulators. -/
def squadFile (q : Squad) : Nat × RegFile × List (Word × RegFile × BitVec 24 × Flags) × List RjMask × List (Nat × TileDesc) × RegFile :=
  (q.id, q.u, q.lanes.map laneFile, q.rj, q.td, q.acc)

/-- Every register of every squad is as it was. -/
def SameRegs (t s : State) : Prop := t.squads.map squadFile = s.squads.map squadFile

/-- Every byte of memory is as it was. -/
def SameMem (t s : State) : Prop := ∀ a, t.mem.read a = s.mem.read a

/-- Every access of a word can be made as the word issues: there is one, all are translated and none faults, parks or migrates a lane of
its own (for a uniform access every lane held), none follows a write of its thread that is still on its way elsewhere, and no later access
of the clause misses or would park a lane. -/
def Settled (s : State) (g : Gang) (q : Squad) (d : MemDesc) (goes : Gang → Squad → Acc → Option (Nat × Nat)) : Prop :=
  accsOf s g q d ≠ [] ∧
  (∀ x ∈ accsOf s g q d, x.spot ≠ .miss ∧ x.absent = false ∧ accFaults d x = [] ∧ s.updPending q d x = false ∧
    ∀ l ∈ (if d.uniform then lanesOf (heldLanes d.c g q) else [x.lane]), goes g q { x with lane := l } = none) ∧
  ∀ y ∈ lookAhead s g q d, y.2.2.spot ≠ .miss ∧ y.2.2.absent = false

/-- The accesses of a MEM word can be made now: they are settled, the memory port is free, and a roaming word stands first. -/
def Ready (s : State) (g : Gang) (q : Squad) (d : MemDesc) : Prop :=
  Settled s g q d migrates ∧ s.portBusy g q = false ∧ (q.roam = false ∨ g.pos = 1)

/-- Read-modify-writes of n bytes in order, each a lane and a home: the memory that they leave, and what each lane read. -/
def rmwRun (n : Nat) (f : Nat → Nat → Option Nat) : Memory → List (Nat × Nat) → Memory × List (Nat × Nat)
  | m, [] => (m, [])
  | m, (l, h) :: rest =>
    let old := m.readN h n
    let r := rmwRun n f (match f l old with | some v => m.writeN h n v | none => m) rest
    (r.1, (l, old) :: r.2)

/-- The homes of accesses, with their lanes. -/
def homesOf (xs : List Acc) : List (Nat × Nat) := xs.map fun x => (x.lane, x.spot.home?.getD 0)

/-- No gang waits for a word of memory to change, and no saved squad does (R263, R363). -/
def Unwatched (s : State) : Prop := (∀ g ∈ s.gangs, g.wait.word = none) ∧ ∀ q ∈ s.squads, q.swapWord = none

/-- Every access is to a vault. -/
def AllVault (xs : List Acc) : Prop := ∀ x ∈ xs, ∃ h c, x.spot = .vault h c

/-- One pass of the loop of evaluate in R261, on a word whose COUNT has reached its TARGET. -/
def evalOnce (w : Nat) : Nat :=
  swPut w (if swOneshot w then 0 else swTarget w) (swCount w - swTarget w) (swOneshot w) (swRows w)
    (bitOf w 82 || swCount w != swTarget w) (swGen w + 1)

/-- The current gang has moved past its word, every lane keeping its place. -/
def Passed (t : State) (g : Gang) : Prop := t.gang? g.id = some g.past

/-- The squad's registers are those that a result of k registers leaves (RegisterResult). -/
def Wrote (t : State) (g : Gang) (q : Squad) (c : Common) (k : Nat) (f : Nat → Nat) : Prop :=
  ∃ q', t.squad? q.id = some q' ∧ squadFile q' = squadFile (resultPut g q c k fun l => (f l, 0))

/-- The gang has moved past its word; what else it holds may have changed. -/
def PastWord (t : State) (g : Gang) : Prop := ∃ y, t.gang? g.id = some y ∧ y.pc = g.past.pc ∧ y.pos = g.past.pos ∧ y.wait = .none

/-- The gang waits at its word. -/
def Waits (t : State) (g : Gang) (w : Wait) : Prop := ∃ y, t.gang? g.id = some y ∧ y.pc = g.pc ∧ y.pos = g.pos ∧ y.wait = w

/-- An operation that stands behind another in their queue though it entered in the same cycle: its partition is the later one (R299, R322,
R337). -/
def Behind (x o : EngOp) : Prop :=
  x.core = o.core ∧ x.cls = o.cls ∧ x.arrived = o.arrived ∧ o.part < x.part ∧ x.started = false

/-- The word has entered its engine's queue as one operation of its squad, at its end but for operations of the same cycle from later
partitions; its counter has risen by one (R16). -/
def Enters (t s : State) (g : Gang) (q : Squad) (cls : CounterClass) (i : Instr) (a b : Word) (td : List TileDesc) (lanes : Lanes) : Prop :=
  SameMem t s ∧ (∃ o before after, s.ops = before ++ after ∧ t.ops = before ++ o :: after ∧ (∀ x ∈ before, ¬Behind x o) ∧
    (∀ x, after.head? = some x → Behind x o) ∧ o.arrived = s.now ∧ o.i = i ∧ o.cls = cls ∧ o.squad = q.id ∧ o.team = q.team ∧ o.launch = q.launch ∧
    o.core = q.core ∧ o.part = q.part ∧ o.a = a ∧ o.b = b ∧ o.td = td ∧ o.lanes = lanes ∧ o.pc = g.pc ∧ o.pos = g.pos ∧ o.done = false) ∧
  ∃ q', t.squad? q.id = some q' ∧ q'.cnt = q.cnt.put cls (q.cnt.get cls + 1) ∧ q'.acc = q.acc ∧ q'.rj = q.rj

/-- A record or block of n bytes that is checked and not translated at issue stands at va. -/
def ObjAt (s : State) (q : Squad) (va n align : Nat) (al : Aperture → Bool) : Prop :=
  va % align = 0 ∧ apertureOf va ≠ .none ∧ al (apertureOf va) = true ∧
  (apertureOf va = .scratch → ∃ t, s.team? q.team = some t ∧ va - scrBase + n ≤ t.scratch) ∧
  (apertureOf va = .lateral → ∃ h c, latSpot s q.launch (dieOf q.core) (va - latBase) = .vault h c)

/-- An access of n bytes at va that is made at issue has its home there. -/
def AccessAt (s : State) (g : Gang) (q : Squad) (l va n : Nat) (al : Aperture → Bool) (write : Bool) (home : Nat) : Prop :=
  va % n = 0 ∧ apertureOf va ≠ .none ∧ al (apertureOf va) = true ∧
  ((∃ c, spotOf s g q l va n = .vault home c) ∨ ∃ e, spotOf s g q l va n = .page e home ∧ (write = true → e.w = true))

/-- An operation of a table of operations that has one entry for its number. -/
def OneOp (s : State) (o : EngOp) : Prop := o ∈ s.ops ∧ ∀ x ∈ s.ops, x.id = o.id → x = o

/-- The operation is complete, with its flags and without a fault, and its writes are posted for its core to see (R84). -/
def Performed (t s : State) (o : EngOp) (flags : Flags) (ws : List (Nat × List Byte)) : Prop :=
  SameMem t s ∧ (∃ x ∈ t.ops, x.id = o.id ∧ x.done = true ∧ x.fault = o.fault ∧ x.flags = flags) ∧
  ∃ es, t.ents = s.ents ++ es ∧ es.map (fun e => (e.home, e.post)) = (ws.map fun w => (w.1, Post.store w.2)) ∧
    ∀ e ∈ es, e.core = o.core ∧ e.squad = o.squad ∧ e.op = some o.id

/-- Command c has completed: its record, with the phase of the pass, is the next of its completion ring, and it is no longer started. -/
def Answered (t s : State) (c : Cmd) (status detail : Nat) : Prop :=
  (∀ x ∈ t.cmds, x.id ≠ c.id) ∧ ∀ q, s.queue? c.fn c.q = some q →
    t.mem.readBytes (hostHome (q.cring + 16 * (q.ctail % 2 ^ q.log))) 16 =
      recordBytes c.tag status (q.ctail / 2 ^ q.log % 2 == 0) c.head detail ∧
    t.irqs = (if c.irq then s.irqs ++ [(c.fn, some c.q)] else s.irqs) ∧ ∃ q', t.queue? c.fn c.q = some q' ∧ q'.ctail = q.ctail + 1

/-- Memory is m but for the completion record of c. -/
def MemBut (t s : State) (c : Cmd) (m : Memory) : Prop :=
  ∀ q, s.queue? c.fn c.q = some q → ∀ a,
    (a < hostHome (q.cring + 16 * (q.ctail % 2 ^ q.log)) ∨ hostHome (q.cring + 16 * (q.ctail % 2 ^ q.log)) + 16 ≤ a) → t.mem.read a = m.read a

/-- The command that an entry of a queue is, when it is the next to start. -/
def entryCmd (s : State) (f : Fn) (q : Queue) (bs : List Byte) : Cmd :=
  { id := s.nextId, fn := f.id, q := q.q, op := fieldAt bs 0 1, tag := BitVec.ofNat 16 (fieldAt bs 2 2), irq := bitOf (fieldAt bs 1 1) 1
    asc := fieldAt bs 4 4 % 64, p := (List.range 7).map fun k => BitVec.ofNat 64 (fieldAt bs (8 + 8 * k) 8)
    head := (q.head + 1) % 2 ^ 32, since := s.now }

/-- The state in which that command has started. -/
def begun (s : State) (f : Fn) (q : Queue) (bs : List Byte) : State :=
  { ({ s with nextId := s.nextId + 1 } : State).modQueue f.id q.q fun y => { y with head := (q.head + 1) % 2 ^ 32 } with
    cmds := s.cmds ++ [entryCmd s f q bs] }

/-- The next entry of the queue that the event names is a command op that may start, with its reserved fields 0; its number is new, and no
DELETE waits for a queue to end. -/
def Starts (s : State) (op : Nat) (f : Fn) (q : Queue) (bs : List Byte) : Prop :=
  s.headEntry? = some (f, q, bs) ∧ fieldAt bs 0 1 = op ∧ fieldAt bs 1 1 < 4 ∧ fieldAt bs 4 4 < 64 ∧ (0x10 ≤ op → q.q = 0) ∧
  (op = 0x13 → f.id = 0) ∧ (bitOf (fieldAt bs 1 1) 0 = true → ∀ x ∈ s.cmds, x.fn = f.id → x.q = q.q → x.parent ≠ none) ∧
  ∀ x ∈ s.cmds, x.id < s.nextId ∧ x.op ≠ 0x11

/-! ### Numbers and rounding, said without the model's arithmetic -/

/-- 2^e. -/
def pow2 (e : Int) : Rat := if 0 ≤ e then ((2 ^ e.toNat : Nat) : Rat) else 1 / ((2 ^ (-e).toNat : Nat) : Rat)

/-- The bits of a finite number of a format (R123). -/
def FiniteCode (f : Fmt) (b : Nat) : Prop := b < 2 * signBit f ∧ b % signBit f ≤ maxFinite f

/-- The bits of a number of negative sign. -/
def codeNeg (f : Fmt) (b : Nat) : Bool := decide (signBit f ≤ b)

/-- The number that finite bits stand for: a sign, an exponent with a bias, and a fraction below a leading 1 that a zero exponent lacks (R123). -/
def codeValue (f : Fmt) (b : Nat) : Rat :=
  let frac := b % 2 ^ fracBits f
  let ex := b / 2 ^ fracBits f % 2 ^ expBits f
  let m : Rat :=
    if ex = 0 then (frac : Rat) * pow2 (1 - (biasOf f : Int) - (fracBits f : Int))
    else ((2 ^ fracBits f + frac : Nat) : Rat) * pow2 ((ex : Int) - (biasOf f : Int) - (fracBits f : Int))
  if codeNeg f b then -m else m

/-- k × 2^q is the multiple of 2^q to which a mode of R125 rounds x: RNE the nearest, of two the even one; RZ, RD and RU the next towards zero,
−∞ and +∞. -/
def RoundedAt (mode : RMode) (x : Rat) (q k : Int) : Prop :=
  let y : Rat := (k : Rat) * pow2 q
  match mode with
  | .rn => 2 * (x - y).abs ≤ pow2 q ∧ (2 * (x - y).abs = pow2 q → k % 2 = 0)
  | .rz => y.abs ≤ x.abs ∧ (x - y).abs < pow2 q
  | .rd => y ≤ x ∧ x < y + pow2 q
  | .ru => x ≤ y ∧ y < x + pow2 q

/-- What stands for a result beyond the largest finite number (R7, R127): infinity where the mode rounds away from zero and the largest finite
number elsewhere, with overflow and inexact; E4M3 has no infinity and gives its NaN, with overflow and invalid. -/
def overflowCode (f : Fmt) (mode : RMode) (neg : Bool) : Nat × Flags :=
  let away := match mode with | .rn => true | .rz => false | .rd => neg | .ru => !neg
  let s := if neg then signBit f else 0
  if away then (if f = .e4m3 then (0x7F, 20) else (maxFinite f + 1 + s, 5)) else (maxFinite f + s, 5)

/-- r is the nonzero exact x rounded once to a format under a mode, with the flags of R126 and R127: x has p as the exponent of its leading bit,
and y is the multiple of the format's unit there to which it rounds. Inexact stands for a y that is not x; underflow for one that is inexact and
tiny after a rounding that knows no least exponent. -/
def Rounded (f : Fmt) (mode : RMode) (x : Rat) (r : Nat × Flags) : Prop :=
  ∃ p k k' : Int, pow2 p ≤ x.abs ∧ x.abs < pow2 (p + 1) ∧
    let fb : Int := fracBits f
    let q := max p (1 - (biasOf f : Int)) - fb
    let y : Rat := (k : Rat) * pow2 q
    RoundedAt mode x q k ∧ RoundedAt mode x (p - fb) k' ∧
    (y.abs ≤ codeValue f (maxFinite f) →
      FiniteCode f r.1 ∧ codeValue f r.1 = y ∧ codeNeg f r.1 = decide (x < 0) ∧
      r.2 = if y = x then 0 else if ((k' : Rat) * pow2 (p - fb)).abs < pow2 (1 - (biasOf f : Int)) then 3 else 1) ∧
    (codeValue f (maxFinite f) < y.abs → r = overflowCode f mode (decide (x < 0)))

/-- The bits of infinity of a format that has one. -/
def infCode (f : Fmt) (neg : Bool) : Nat := maxFinite f + 1 + if neg then signBit f else 0

/-- The bits of a NaN, and of a signalling one (R123): E4M3 has one magnitude, which is quiet. -/
def nanCode (f : Fmt) (b : Nat) : Bool := if f = .e4m3 then b % 128 == 127 else decide (maxFinite f + 1 < b % signBit f)
def snanCode (f : Fmt) (b : Nat) : Bool := f != .e4m3 && nanCode f b && decide (b % 2 ^ fracBits f < 2 ^ (fracBits f - 1))

/-- Bits that are no NaN, in the order of their numbers; with `zeros` a −0 stands below a +0. -/
def orderCode (f : Fmt) (zeros : Bool) (b : Nat) : Int :=
  if codeNeg f b then (signBit f : Int) - b - if zeros then 1 else 0 else b

end Sys2Proof
end

