-- ==== Sys2Proof/Certificates/Slice0/Obligations.lean ====
section
/-!
DEFINITION. The statements for the provers.
-/
open Sys2Proof Sys2Proof.Machine

/-! ## LANE and SFU -/

/-- R132 to R135: IADD, ISUB, IMUL, IMULH, IMIN, IMAX, IABS, IMAD, IADD64 and LEA complete with the pseudocode's d in every lane whose guard
holds. -/
def Obligations.IntegerArithmetic : Prop :=
  ∀ (s : State) (w : FM) (t : F3),
    let u := w.mod.getLsbD 0
    let sat := w.mod.getLsbD 1
    let d (v : Int) : Nat := if sat then clampTo 32 u v else wrapTo 32 v
    let x (q : Squad) (l : Nat) : Int := readInt u (val32 q l w.sa)
    let y (q : Squad) (l : Nat) : Int := readInt u (val32 q l w.sb)
    Gives (.iadd w) s (okFM w) w.c 1 (fun q l => (d (x q l + y q l), 0)) ∧
    Gives (.isub w) s (okFM w) w.c 1 (fun q l => (d (x q l - y q l), 0)) ∧
    Gives (.imul w) s (okFM w) w.c 1 (fun q l => (d (x q l * y q l), 0)) ∧
    Gives (.imulh w) s (okFM w) w.c 1 (fun q l => (wrapTo 32 ((x q l * y q l) / (2 ^ 32 : Nat)), 0)) ∧
    Gives (.imin w) s (okFM w) w.c 1 (fun q l => (wrapTo 32 (min (x q l) (y q l)), 0)) ∧
    Gives (.imax w) s (okFM w) w.c 1 (fun q l => (wrapTo 32 (max (x q l) (y q l)), 0)) ∧
    (u = false → Gives (.iabs w) s (okFM1 w) w.c 1 (fun q l => (d ((val32 q l w.sa).toInt.natAbs : Int), 0))) ∧
    Gives (.imad t) s (okF3 t) t.c 1 (fun q l => ((val32 q l t.sa * val32 q l t.sb + val32 q l t.sc).toNat, 0)) ∧
    Gives (.iadd64 w) s (fun q => operandsOk q w.c [(.r64, w.sa), (.r64, w.sb)] 2 true false) w.c 2 (fun q l =>
      let x := readInt u (val64 q l w.sa)
      let y := readInt u (val64 q l w.sb)
      let v := if w.mod.getLsbD 2 then x - y else x + y
      (if sat then clampTo 64 u v else wrapTo 64 v, 0)) ∧
    Gives (.lea w) s (fun q => operandsOk q w.c [(.r64, w.sa), (.r32, w.sb)] 2 true false) w.c 2 (fun q l =>
      let b := val32 q l w.sb
      let ext : Word := if w.mod.getLsbD 3 then b.signExtend 64 else b.setWidth 64
      ((val64 q l w.sa + ext <<< (w.mod.extractLsb' 0 3).toNat).toNat, 0))

/-- R7, R104, R123 to R127, R145, R146, R149, R153, R154: the values of floating-point arithmetic. A sum, product, fused multiply-add, scaling or
conversion of finite numbers is the exact value rounded once by the word's mode; an exact zero has the sign stated, and infinities give what IEEE
754 gives. CVT rounds an integer, a number or an immediate into a floating format, and a number into an integer type, whose range is judged on the
rounded integer (the model's choice, notes/assumptions 60); equal types are copied (notes/assumptions 8). CVTSR takes its fraction's upper 16 bits
and its random value. -/
def Obligations.FloatRounding : Prop :=
  (∀ (f : Fmt) (m : RMode) (a b c : Nat), FiniteCode f a → FiniteCode f b → FiniteCode f c →
    let x := codeValue f a
    let y := codeValue f b
    let z := codeValue f c
    let zero (n k : Bool) : Nat × Flags := (if (if n = k then n else m == .rd) then signBit f else 0, 0)
    let pn := codeNeg f a != codeNeg f b
    (x + y ≠ 0 → Rounded f m (x + y) (fAdd f m a b)) ∧ (x + y = 0 → fAdd f m a b = zero (codeNeg f a) (codeNeg f b)) ∧
    (x * y ≠ 0 → Rounded f m (x * y) (fMul f m a b)) ∧ (x * y = 0 → fMul f m a b = zero pn pn) ∧
    (x * y + z ≠ 0 → Rounded f m (x * y + z) (fFma f m a b c)) ∧ (x * y + z = 0 → fFma f m a b c = zero pn (codeNeg f c)) ∧
    (∀ d : Fmt, (x ≠ 0 → Rounded d m x (fConvert f d m a)) ∧
      (x = 0 → fConvert f d m a = (if codeNeg f a then signBit d else 0, 0))) ∧
    (f ≠ .e4m3 → ∀ n k : Bool,
      let i := infCode f n
      fAdd f m i b = (i, 0) ∧ fAdd f m b i = (i, 0) ∧ fAdd f m i i = (i, 0) ∧ fAdd f m i (infCode f !n) = (canonNaN f, 16) ∧
      fMul f m i (infCode f k) = (infCode f (n != k), 0) ∧
      (y ≠ 0 → fMul f m i b = (infCode f (n != codeNeg f b), 0) ∧ fMul f m b i = (infCode f (n != codeNeg f b), 0) ∧
        fFma f m i b c = (infCode f (n != codeNeg f b), 0) ∧ fFma f m i b (infCode f (n != codeNeg f b)) = (infCode f (n != codeNeg f b), 0) ∧
        fFma f m i b (infCode f (n == codeNeg f b)) = (canonNaN f, 16)) ∧
      (y = 0 → fMul f m i b = (canonNaN f, 16) ∧ fMul f m b i = (canonNaN f, 16)) ∧
      fFma f m a b i = (i, 0) ∧
      ∀ d : Fmt, fConvert f d m i = if d = .e4m3 then (0x7F, 16) else (infCode d n, 0))) ∧
  (∀ f, intBits f 0 = 0) ∧
  (∀ (f : Fmt) (i : Int), i ≠ 0 → -256 ≤ i → i ≤ 255 → ∃ fl, Rounded f .rn (i : Rat) (intBits f i, fl)) ∧
  (∀ (m : BitVec 12) (a : Nat) (k : W32), FiniteCode .f32 a →
    let rm := rmodeOf (m.extractLsb' 0 3)
    (codeValue .f32 a ≠ 0 → Rounded .f32 rm (codeValue .f32 a * pow2 k.toInt) (fscaleFn m a k)) ∧
    (codeValue .f32 a = 0 → fscaleFn m a k = (a, 0)) ∧ ∀ n, fscaleFn m (infCode .f32 n) k = (infCode .f32 n, 0)) ∧
  (∀ (m : BitVec 12) (w w' : Nat) (u u' : Bool) (raw : Nat) (f f' : Fmt), w ∈ [8, 16, 32, 64] → w' ∈ [8, 16, 32, 64] →
    let rm := rmodeOf (m.extractLsb' 8 3)
    let sat := m.getLsbD 11
    let i : Int := readInt u (BitVec.ofNat w raw)
    let lo : Int := if u' then 0 else -(2 ^ (w' - 1) : Nat)
    let hi : Int := if u' then (2 ^ w' : Nat) - 1 else (2 ^ (w' - 1) : Nat) - 1
    let reg (v : Int) : Nat := wrapTo (if w' = 64 then 64 else 32) v
    let one : Nat := biasOf f' * 2 ^ fracBits f'
    let b := raw % 2 ^ widthOf f
    let x := codeValue f b
    (∀ (g : Fmt) (v : Int), cvtTy (m.extractLsb' 0 4).toNat = .flt g → cvtFn m (some v) raw = cvtFn m none (intBits g v)) ∧
    (cvtTy (m.extractLsb' 0 4).toNat = .int w u → cvtTy (m.extractLsb' 4 4).toNat = .int w' u' →
      cvtFn m none raw = (reg (readInt u' (BitVec.ofInt w' (if sat then max lo (min hi i) else i))), 0)) ∧
    (cvtTy (m.extractLsb' 0 4).toNat = .int w u → cvtTy (m.extractLsb' 4 4).toNat = .flt f' →
      (i = 0 → cvtFn m none raw = (0, 0)) ∧ (i ≠ 0 → sat = false → Rounded f' rm (i : Rat) (cvtFn m none raw)) ∧
      (sat = true → cvtFn m none raw = (if i ≤ 0 then 0 else one, 0))) ∧
    (cvtTy (m.extractLsb' 0 4).toNat = .flt f → cvtTy (m.extractLsb' 4 4).toNat = .flt f' →
      (sat = false → f ≠ f' → cvtFn m none raw = fConvert f f' rm b) ∧
      (sat = false → f = f' → cvtFn m none raw = if snanCode f b then (canonNaN f, 16) else (b, 0)) ∧
      (sat = true → (nanCode f b = true → cvtFn m none raw = (0, if snanCode f b then 16 else 0)) ∧
        (f ≠ .e4m3 → (b = infCode f false → cvtFn m none raw = (one, 0)) ∧ (b = infCode f true → cvtFn m none raw = (0, 0))) ∧
        (FiniteCode f b → (x ≤ 0 → cvtFn m none raw = (0, 0)) ∧ (1 < x → cvtFn m none raw = (one, 0)) ∧
          (0 < x → x ≤ 1 → Rounded f' rm x (cvtFn m none raw))))) ∧
    (cvtTy (m.extractLsb' 0 4).toNat = .flt f → cvtTy (m.extractLsb' 4 4).toNat = .int w' u' →
      (nanCode f b = true → cvtFn m none raw = (0, 16)) ∧
      (f ≠ .e4m3 → ∀ n, b = infCode f n → cvtFn m none raw = (reg (if n then lo else hi), 16)) ∧
      (FiniteCode f b → ∃ k : Int, RoundedAt rm x 0 k ∧ cvtFn m none raw =
        if k < lo then (reg lo, 16) else if hi < k then (reg hi, 16) else (reg k, if (k : Rat) = x then 0 else 1)))) ∧
  (∀ (f : Fmt) (a rho : Nat), FiniteCode .f32 a → rho < 2 ^ 16 →
    let x := codeValue .f32 a
    (x = 0 → cvtsrFn f a rho = (if codeNeg .f32 a then signBit f else 0, 0)) ∧
    (x ≠ 0 → ∃ p : Int, pow2 p ≤ x.abs ∧ x.abs < pow2 (p + 1) ∧
      let q := pow2 (max p (1 - (biasOf f : Int)) - (fracBits f : Int))
      let n := (x.abs / q).floor
      let g := ((x.abs / q - (n : Rat)) * 65536).floor
      let t : Rat := ((if 65536 ≤ g + (rho : Int) then n + 1 else n : Int) : Rat) * q
      let r := cvtsrFn f a rho
      (codeValue f (maxFinite f) < t →
        r = ((if f = .e4m3 then 0x7E else maxFinite f + 1) + (if codeNeg .f32 a then signBit f else 0), 5)) ∧
      (t ≤ codeValue f (maxFinite f) →
        FiniteCode f r.1 ∧ codeValue f r.1 = (if codeNeg .f32 a then -t else t) ∧ codeNeg f r.1 = codeNeg .f32 a ∧
        r.2 = if t = x.abs then 0 else if t < pow2 (1 - (biasOf f : Int)) then 3 else 1)))

/-- R136 to R141: logic and shifts, on 32 bits or with B64 on 64, where an amount of the width or more gives zero or sign fill and a rotate
takes its amount modulo the width; FSHR, BFX, BFI, POPC, CLZ, BREV and PRMT. They complete with their results. -/
def Obligations.LogicShiftsAndFields : Prop :=
  ∀ (s : State) (w : FM) (t : F3),
    let pos (p : W32) : Nat := min (p.toNat % 256) 32
    let len (p : W32) : Nat := min (p.toNat / 256 % 256) (32 - pos p)
    let wide := w.mod.getLsbD 0
    let n (q : Squad) (l : Nat) : Nat := (val32 q l w.sb).toNat % 256
    let ok2 (q : Squad) : Bool := operandsOk q w.c [(.r64, w.sa), (.r64, w.sb)] 2 true false
    let okS (q : Squad) : Bool := operandsOk q w.c [(.r64, w.sa), (.r32, w.sb)] 2 true false
    (wide = false →
      Gives (.and w) s (okFM w) w.c 1 (fun q l => ((val32 q l w.sa &&& val32 q l w.sb).toNat, 0)) ∧
      Gives (.or w) s (okFM w) w.c 1 (fun q l => ((val32 q l w.sa ||| val32 q l w.sb).toNat, 0)) ∧
      Gives (.xor w) s (okFM w) w.c 1 (fun q l => ((val32 q l w.sa ^^^ val32 q l w.sb).toNat, 0)) ∧
      Gives (.andn w) s (okFM w) w.c 1 (fun q l => ((val32 q l w.sa &&& ~~~val32 q l w.sb).toNat, 0)) ∧
      Gives (.shl w) s (okFM w) w.c 1 (fun q l => ((val32 q l w.sa <<< n q l).toNat, 0)) ∧
      Gives (.shr w) s (okFM w) w.c 1 (fun q l => ((val32 q l w.sa >>> n q l).toNat, 0)) ∧
      Gives (.sar w) s (okFM w) w.c 1 (fun q l => (((val32 q l w.sa).sshiftRight (n q l)).toNat, 0)) ∧
      Gives (.rotl w) s (okFM w) w.c 1 (fun q l => (((val32 q l w.sa).rotateLeft (n q l)).toNat, 0))) ∧
    (wide = true →
      Gives (.and w) s ok2 w.c 2 (fun q l => ((val64 q l w.sa &&& val64 q l w.sb).toNat, 0)) ∧
      Gives (.or w) s ok2 w.c 2 (fun q l => ((val64 q l w.sa ||| val64 q l w.sb).toNat, 0)) ∧
      Gives (.xor w) s ok2 w.c 2 (fun q l => ((val64 q l w.sa ^^^ val64 q l w.sb).toNat, 0)) ∧
      Gives (.andn w) s ok2 w.c 2 (fun q l => ((val64 q l w.sa &&& ~~~val64 q l w.sb).toNat, 0)) ∧
      Gives (.shl w) s okS w.c 2 (fun q l => ((val64 q l w.sa <<< n q l).toNat, 0)) ∧
      Gives (.shr w) s okS w.c 2 (fun q l => ((val64 q l w.sa >>> n q l).toNat, 0)) ∧
      Gives (.sar w) s okS w.c 2 (fun q l => (((val64 q l w.sa).sshiftRight (n q l)).toNat, 0)) ∧
      Gives (.rotl w) s okS w.c 2 (fun q l => (((val64 q l w.sa).rotateLeft (n q l)).toNat, 0))) ∧
    Gives (.fshr t) s (okF3 t) t.c 1 (fun q l =>
      ((((val32 q l t.sb ++ val32 q l t.sa : Word) >>> ((val32 q l t.sc).toNat % 32)).setWidth 32).toNat, 0)) ∧
    Gives (.bfi t) s (okF3 t) t.c 1 (fun q l =>
      let p := val32 q l t.sc
      let m : W32 := ((1#32 <<< len p) - 1#32) <<< pos p
      (((val32 q l t.sa &&& ~~~m) ||| ((val32 q l t.sb <<< pos p) &&& m)).toNat, 0)) ∧
    Gives (.bfx w) s (okFM w) w.c 1 (fun q l =>
      let a := val32 q l w.sa
      let p := val32 q l w.sb
      let f : W32 := (a >>> pos p) &&& ((1#32 <<< len p) - 1#32)
      ((if w.mod.getLsbD 0 && decide (0 < len p) && f.getLsbD (len p - 1) then f ||| ~~~((1#32 <<< len p) - 1#32) else f).toNat, 0)) ∧
    Gives (.popc w) s (okFM1 w) w.c 1 (fun q l => (((List.range 32).filter fun k => (val32 q l w.sa).getLsbD k).length, 0)) ∧
    Gives (.clz w) s (okFM1 w) w.c 1 (fun q l => (((List.range 33).find? fun k => k == 32 || (val32 q l w.sa).getLsbD (31 - k)).getD 32, 0)) ∧
    Gives (.brev w) s (okFM1 w) w.c 1 (fun q l => ((val32 q l w.sa).reverse.toNat, 0)) ∧
    Gives (.prmt w) s (okFM w) w.c 1 (fun q l =>
      let x : Word := val32 q l w.sb ++ val32 q l w.sa
      let byte (i : Nat) : BitVec 8 := x.extractLsb' (8 * (w.mod.extractLsb' (3 * i) 3).toNat) 8
      ((byte 3 ++ byte 2 ++ byte 1 ++ byte 0).toNat, 0))

/-- R9, R175, R176, R177: the bounds of the SFU. RCP, FDIV and SQRT of the accurate grade are correctly rounded; its RSQ lies within 1 ulp of the
exact result, and is that result where FP32 has it. In the fast grade RCP, FDIV, SQRT and RSQ lie within 2^-12 of the exact result, and a result
below 2^-126 or, in FDIV, a divisor above 2^126 gives a zero with underflow and inexact. The other eleven functions give a value that lies within the
bound of R176 around every point of the interval which the model takes to enclose the exact result, or the number nearest the middle of that
interval; that the interval encloses it is the model's (notes/assumptions 2). -/
def Obligations.SfuBounds : Prop :=
  (∀ (a b : Nat), FiniteCode .f32 a → FiniteCode .f32 b →
    let x := codeValue .f32 a
    let y := codeValue .f32 b
    let bits (r : W32 × Flags) : Nat × Flags := (r.1.toNat, r.2)
    let neg := codeNeg .f32 a != codeNeg .f32 b
    let normal (v : Nat) : Prop := 2 ^ 23 ≤ v % 2 ^ 31
    let top := codeValue .f32 0x7F7FFFFF
    let near (z v : Rat) : Prop := (v - z).abs * 4096 ≤ z.abs
    let rcp := bits (sfu1 false .rcp (BitVec.ofNat 32 a))
    let div := bits (sfu2 false (BitVec.ofNat 32 a) (BitVec.ofNat 32 b))
    let sqrt := bits (sfu1 false .sqrt (BitVec.ofNat 32 a))
    let rsq := bits (sfu1 false .rsq (BitVec.ofNat 32 a))
    let rsqA := bits (sfu1 true .rsq (BitVec.ofNat 32 a))
    (x ≠ 0 → Rounded .f32 .rn (1 / x) (bits (sfu1 true .rcp (BitVec.ofNat 32 a)))) ∧
    (x ≠ 0 → y ≠ 0 → Rounded .f32 .rn (x / y) (bits (sfu2 true (BitVec.ofNat 32 a) (BitVec.ofNat 32 b)))) ∧
    (0 < x → ∃ p k : Int, pow2 p * pow2 p ≤ x ∧ x < pow2 (p + 1) * pow2 (p + 1) ∧
      let u := pow2 (p - 24)
      let r := bits (sfu1 true .sqrt (BitVec.ofNat 32 a))
      let v : Rat := (2 * k : Int) * u
      (v - u) * (v - u) < x ∧ x < (v + u) * (v + u) ∧ FiniteCode .f32 r.1 ∧ codeValue .f32 r.1 = v ∧
      r.2 = if v * v = x then 0 else 1) ∧
    (0 < x → FiniteCode .f32 rsqA.1 ∧ ∃ p : Int, pow2 p ≤ codeValue .f32 rsqA.1 ∧ codeValue .f32 rsqA.1 < pow2 (p + 1) ∧
      let v := codeValue .f32 rsqA.1
      let u := pow2 (p - 23)
      (v - u) * (v - u) * x ≤ 1 ∧ 1 ≤ (v + u) * (v + u) * x ∧ (rsqA.2 = if v * v * x = 1 then 0 else 1) ∧
      ∀ c, FiniteCode .f32 c → 0 < codeValue .f32 c → codeValue .f32 c * codeValue .f32 c * x = 1 → rsqA.1 = c) ∧
    (normal a → (pow2 126 < x.abs → rcp = (if codeNeg .f32 a then 0x80000000 else 0, 3)) ∧
      (x.abs ≤ pow2 126 → FiniteCode .f32 rcp.1 ∧ near (1 / x) (codeValue .f32 rcp.1) ∧
        rcp.2 = if codeValue .f32 rcp.1 * x = 1 then 0 else 1)) ∧
    (normal a → normal b →
      (pow2 126 < y.abs ∨ (x / y).abs < pow2 (-126) → div = (if neg then 0x80000000 else 0, 3)) ∧
      (y.abs ≤ pow2 126 → top < (x / y).abs → div = (infCode .f32 neg, 5)) ∧
      (y.abs ≤ pow2 126 → pow2 (-126) ≤ (x / y).abs → (x / y).abs ≤ top →
        FiniteCode .f32 div.1 ∧ near (x / y) (codeValue .f32 div.1) ∧ div.2 = if codeValue .f32 div.1 * y = x then 0 else 1)) ∧
    (normal a → 0 < x →
      FiniteCode .f32 sqrt.1 ∧ 0 < codeValue .f32 sqrt.1 ∧ 4095 * 4095 * x ≤ 4096 * 4096 * (codeValue .f32 sqrt.1 * codeValue .f32 sqrt.1) ∧
      4096 * 4096 * (codeValue .f32 sqrt.1 * codeValue .f32 sqrt.1) ≤ 4097 * 4097 * x ∧
      FiniteCode .f32 rsq.1 ∧ 0 < codeValue .f32 rsq.1 ∧ 4095 * 4095 ≤ 4096 * 4096 * (codeValue .f32 rsq.1 * codeValue .f32 rsq.1 * x) ∧
      4096 * 4096 * (codeValue .f32 rsq.1 * codeValue .f32 rsq.1 * x) ≤ 4097 * 4097)) ∧
  ∀ (acc : Bool) (f : SfuFn) (x : W32) (n : Bool) (m : Nat) (e : Int),
    f ∈ [SfuFn.exp2, .exp, .log2, .ln, .sin, .cos, .tanh, .sigm, .gelu, .silu, .erf] →
    fvOf .f32 (flushIn acc x.toNat) = .fin n m e → m ≠ 0 → sfuDomainError f n m e = false →
    (f = .log2 ∨ f = .ln → x ≠ 0x3F800000) →
    let i := sfuEncl f n m e
    let r := sfu1 acc f x
    let middle := roundFin .f32 .rn i.neg ((i.lo + i.hi) / 2) (i.k - 512)
    (codeValue .f32 0x7F7FFFFF < (i.lo : Rat) * pow2 (i.k - 512) → r = (BitVec.ofNat 32 (infCode .f32 i.neg), 5)) ∧
    (acc = false → ((i.hi + 1 : Nat) : Rat) * pow2 (i.k - 512) ≤ pow2 (-126) → r = (if i.neg then 0x80000000 else 0, 3)) ∧
    ((i.lo : Rat) * pow2 (i.k - 512) ≤ codeValue .f32 0x7F7FFFFF →
      (acc = true ∨ pow2 (-126) < ((i.hi + 1 : Nat) : Rat) * pow2 (i.k - 512)) →
      (∃ c, withinBound acc (sfuUlps f) (sfuAbsolute f) i c = true ∧ r.1 = BitVec.ofNat 32 c) ∨ r.1 = BitVec.ofNat 32 middle.1 ∨
        ∃ d g, i.exact = some (d, g) ∧ r.1 = BitVec.ofNat 32 (roundFin .f32 .rn i.neg d g).1) ∧
    (∀ d g c, i.exact = some (d, g) → acc = true → FiniteCode .f32 c → codeNeg .f32 c = i.neg →
      codeValue .f32 c = (if i.neg then -1 else 1) * (d : Rat) * pow2 g → d ≠ 0 → r = (BitVec.ofNat 32 c, 0))

/-- R142, R143, R144, R148: ICMP, FCMP, FCLASS, SEL, MOV and MOVI complete with their results. -/
def Obligations.CompareSelectMove : Prop :=
  ∀ (s : State) (w : FM) (t : F3) (k : FK),
    Gives (.icmp w) s (fun q => operandsOk q w.c [(.r32, w.sa), (.r32, w.sb)] 1 true true && combineOk q w) w.c 1 (fun q l =>
      let a := readInt (w.mod.getLsbD 3) (val32 q l w.sa)
      let b := readInt (w.mod.getLsbD 3) (val32 q l w.sb)
      let r : Bool := match (w.mod.extractLsb' 0 3).toNat with
        | 0 => decide (a = b) | 1 => decide (a ≠ b) | 2 => decide (a < b) | 3 => decide (a ≤ b) | 4 => decide (a > b) | _ => decide (a ≥ b)
      let p := (q.lane l).pred (w.mod.extractLsb' 6 5).toNat != w.mod.getLsbD 11
      let r := match (w.mod.extractLsb' 4 2).toNat with | 1 => r && p | 2 => r || p | _ => r
      (if r then 1 else 0, 0)) ∧
    Gives (.fcmp w) s (fun q => operandsOk q w.c [(.r32, w.sa), (.r32, w.sb)] 1 true true && combineOk q w) w.c 1 (fun q l =>
      let a := valFloat .f32 q l w.sa
      let b := valFloat .f32 q l w.sb
      let cc := (w.mod.extractLsb' 0 3).toNat
      let nan := nanCode .f32 a || nanCode .f32 b
      let r : Bool := match cc with
        | 0 => !nan && decide (orderCode .f32 false a = orderCode .f32 false b) | 1 => nan || decide (orderCode .f32 false a ≠ orderCode .f32 false b)
        | 2 => !nan && decide (orderCode .f32 false a < orderCode .f32 false b) | 3 => !nan && decide (orderCode .f32 false a ≤ orderCode .f32 false b)
        | 4 => !nan && decide (orderCode .f32 false b < orderCode .f32 false a) | 5 => !nan && decide (orderCode .f32 false b ≤ orderCode .f32 false a)
        | 6 => !nan | _ => nan
      let p := (q.lane l).pred (w.mod.extractLsb' 6 5).toNat != w.mod.getLsbD 11
      let r := match (w.mod.extractLsb' 4 2).toNat with | 1 => r && p | 2 => r || p | _ => r
      (if r then 1 else 0, if snanCode .f32 a || snanCode .f32 b || (nan && decide (2 ≤ cc ∧ cc ≤ 5)) then 16 else 0)) ∧
    Gives (.fclass w) s (fun q => operandsOk q w.c [(.r32, w.sa), (.r32, w.sb)] 1 true true) w.c 1 (fun q l =>
      let a := valFloat .f32 q l w.sa
      let mag := a % 2 ^ 31
      let neg := decide (2 ^ 31 ≤ a)
      let k : Nat :=
        if snanCode .f32 a then 8 else if nanCode .f32 a then 9
        else if mag = 0x7F800000 then (if neg then 0 else 7) else if mag = 0 then (if neg then 3 else 4)
        else if mag < 2 ^ 23 then (if neg then 2 else 5) else if neg then 1 else 6
      let m : Nat := if (val32 q l w.sb).getLsbD k && decide (k < 10) then 2 ^ k else 0
      (if w.c.dk == .pred then (if m = 0 then 0 else 1) else m, 0)) ∧
    Gives (.sel t) s (fun q => operandsOk q t.c [(.r32, t.sa), (.r32, t.sb), (.pred, t.sc)] 1 false false) t.c 1 (fun q l =>
      ((if valPred q l t.sc then val32 q l t.sa else val32 q l t.sb).toNat, 0)) ∧
    (w.mod.getLsbD 0 = false → Gives (.mov w) s (okFM1 w) w.c 1 (fun q l => ((val32 q l w.sa).toNat, 0))) ∧
    (w.mod.getLsbD 0 = true →
      Gives (.mov w) s (fun q => operandsOk q w.c [(.r64, w.sa)] 2 true false) w.c 2 (fun q l => ((val64 q l w.sa).toNat, 0))) ∧
    Gives (.movi k) s (fun q => operandsOk q k.c [] 1 true false) k.c 1 (fun _ _ => (k.imm.toNat, 0))

/-- R145 to R155: the floating-point instructions complete with the sums, products, fused multiply-adds and conversions whose values FloatRounding
and NanResults state, in each element of a packed word. It rests on the model's reading in notes/assumptions 8. -/
def Obligations.FloatingPoint : Prop :=
  ∀ (s : State) (w : FM) (t : F3),
    let rm := rmodeOf (w.mod.extractLsb' 0 3)
    let a (q : Squad) (l : Nat) : Nat := if w.mod.getLsbD 3 then fNeg .f32 (valFloat .f32 q l w.sa) else valFloat .f32 q l w.sa
    let b (q : Squad) (l : Nat) : Nat := if w.mod.getLsbD 4 then fNeg .f32 (valFloat .f32 q l w.sb) else valFloat .f32 q l w.sb
    let sat (r : Nat × Flags) : Nat × Flags :=
      (if w.mod.getLsbD 5 then (if nanCode .f32 r.1 || codeNeg .f32 r.1 then 0 else min r.1 0x3F800000) else r.1, r.2)
    let fm := if w.mod.getLsbD 3 then Fmt.bf16 else Fmt.f16
    let both (f : Nat → Nat × Flags) : Nat × Flags := ((f 0).1 + 2 ^ 16 * (f 1).1, (f 0).2 ||| (f 1).2)
    let pa (q : Squad) (l e : Nat) : Nat := valPacked fm q l w.sa e
    let pb (q : Squad) (l e : Nat) : Nat := valPacked fm q l w.sb e
    let fma (m : RMode) (q : Squad) (l : Nat) : Nat × Flags :=
      fFma .f32 m (valFloat .f32 q l t.sa) (valFloat .f32 q l t.sb) (valFloat .f32 q l t.sc)
    let fma2 (f : Fmt) (q : Squad) (l : Nat) : Nat × Flags :=
      both fun e => fFma f .rn (valPacked f q l t.sa e) (valPacked f q l t.sb e) (valPacked f q l t.sc e)
    Gives (.fadd w) s (okFM w) w.c 1 (fun q l => sat (fAdd .f32 rm (a q l) (b q l))) ∧
    Gives (.fmul w) s (okFM w) w.c 1 (fun q l => sat (fMul .f32 rm (a q l) (b q l))) ∧
    Gives (.ffmaRn t) s (okF3 t) t.c 1 (fma .rn) ∧ Gives (.ffmaRz t) s (okF3 t) t.c 1 (fma .rz) ∧
    Gives (.ffmaRd t) s (okF3 t) t.c 1 (fma .rd) ∧ Gives (.ffmaRu t) s (okF3 t) t.c 1 (fma .ru) ∧
    Gives (.fmin w) s (okFM w) w.c 1 (fun q l => fMinMax .f32 false (valFloat .f32 q l w.sa) (valFloat .f32 q l w.sb)) ∧
    Gives (.fmax w) s (okFM w) w.c 1 (fun q l => fMinMax .f32 true (valFloat .f32 q l w.sa) (valFloat .f32 q l w.sb)) ∧
    Gives (.fscale w) s (okFM w) w.c 1 (fun q l => fscaleFn w.mod (valFloat .f32 q l w.sa) (val32 q l w.sb)) ∧
    Gives (.hadd2 w) s (okFM w) w.c 1 (fun q l => both fun e => fAdd fm rm (pa q l e) (pb q l e)) ∧
    Gives (.hmul2 w) s (okFM w) w.c 1 (fun q l => both fun e => fMul fm rm (pa q l e) (pb q l e)) ∧
    Gives (.hmin2 w) s (okFM w) w.c 1 (fun q l => both fun e => fMinMax fm false (pa q l e) (pb q l e)) ∧
    Gives (.hmax2 w) s (okFM w) w.c 1 (fun q l => both fun e => fMinMax fm true (pa q l e) (pb q l e)) ∧
    Gives (.hfma2F16 t) s (okF3 t) t.c 1 (fma2 .f16) ∧ Gives (.hfma2Bf16 t) s (okF3 t) t.c 1 (fma2 .bf16) ∧
    Gives (.cvtsr w) s (okFM w) w.c 1 (fun q l => cvtsrFn (srFmt w.mod) (valFloat .f32 q l w.sa) ((val32 q l w.sb).toNat % 2 ^ 16)) ∧
    Gives (.pack2 w) s (okFM w) w.c 1 (fun q l => both fun e => fConvert .f32 fm rm (valFloat .f32 q l (if e = 0 then w.sa else w.sb))) ∧
    (let st := cvtTy (w.mod.extractLsb' 0 4).toNat
     let k := if cvtWide (cvtTy (w.mod.extractLsb' 4 4).toNat) then 2 else 1
     Gives (.cvt w) s (fun q => operandsOk q w.c [(if cvtWide st then .r64 else .r32, w.sa)] k true false) w.c k (fun q l =>
       cvtFn w.mod (srcImm w.sa) (if cvtWide st then (val64 q l w.sa).toNat else (val32 q l w.sa).toNat)))

/-- R124, R127, R146, R147, in every format that has infinities: a NaN operand gives the canonical NaN in FADD, FMUL, FFMA and conversion. Invalid stands for a signalling operand, and in FFMA
for zero times infinity whatever the addend, and for nothing else there. FMIN and FMAX return the lesser or greater operand unchanged, −0 below
+0; of a NaN and another operand the other; of two NaNs the canonical one. -/
def Obligations.NanResults : Prop :=
  canonNaN .f32 = 0x7FC00000 ∧ canonNaN .f16 = 0x7E00 ∧ canonNaN .bf16 = 0x7FC0 ∧ canonNaN .e4m3 = 0x7F ∧ canonNaN .e5m2 = 0x7E ∧
  ∀ (f : Fmt) (m : RMode) (a b c : Nat), f ≠ .e4m3 → a < 2 * signBit f → b < 2 * signBit f → c < 2 * signBit f →
    let ma := a % signBit f
    let mb := b % signBit f
    let s2 := snanCode f a || snanCode f b
    let zeroInf := (ma == 0 && mb == infCode f false) || (mb == 0 && ma == infCode f false)
    ((nanCode f a || nanCode f b) = true →
      fAdd f m a b = (canonNaN f, if s2 then 16 else 0) ∧ fMul f m a b = (canonNaN f, if s2 then 16 else 0)) ∧
    ((nanCode f a || nanCode f b || nanCode f c) = true → fFma f m a b c = (canonNaN f, if s2 || snanCode f c || zeroInf then 16 else 0)) ∧
    (zeroInf = true → fFma f m a b c = (canonNaN f, 16)) ∧
    (∀ d : Fmt, nanCode f a = true → fConvert f d m a = (canonNaN d, if snanCode f a then 16 else 0)) ∧
    (∀ big : Bool, fMinMax f big a b =
      (if nanCode f a && nanCode f b then canonNaN f else if nanCode f a then b else if nanCode f b then a
        else if decide (orderCode f true a < orderCode f true b) = big then b else a, if s2 then 16 else 0))

/-- R156 to R162: PLOP, both forms of PMOV, VOTE, SHFL, RDUC and MATCH complete with their results; the cross-lane instructions read
the held lanes, as each stood before. A segment code above 4 and an operation code above 10 do not decode (R160, R161). -/
def Obligations.PredicatesAndCrossLane : Prop :=
  ∀ (s : State) (g : Gang) (q : Squad) (w : FM), s.here? = some (g, q) →
    let held := heldLanes w.c g q
    let cross (srcs : List (OpKind × Src)) (u p : Bool) : Bool :=
      guardFieldOk q w.c && dstOk q w.c 1 u p && srcs.all fun x => srcOk q false x.1 x.2
    ((operandsOk q w.c [(.pred, w.sa), (.pred, w.sb)] 1 false true && w.c.dk == .pred) = true →
      exec (.plop w) s = .next (laneDone s g q w.c 1 fun l =>
        (if w.mod.getLsbD ((if valPred q l w.sa then 2 else 0) + (if valPred q l w.sb then 1 else 0)) then 1 else 0, 0))) ∧
    (w.mod.getLsbD 0 = false → (operandsOk q w.c [(.r32, w.sb)] 1 false false && !pmovMaskBad q w held) = true →
      exec (.pmov w) s = .next (laneDone s g q w.c 1 fun l => (((q.lane l).p.setWidth 32 &&& val32 q l w.sb).toNat, 0))) ∧
    (w.mod.getLsbD 0 = true →
      (guardFieldOk q w.c && srcOk q false .r32 w.sa && srcOk q false .r32 w.sb && !pmovMaskBad q w held) = true →
      exec (.pmov w) s = .next ((s.modSquad q.id fun _ => q.modLanes held fun l x =>
        { x with p := (x.p &&& ~~~(val32 q l w.sb).setWidth 24) ||| ((val32 q l w.sa).setWidth 24 &&& (val32 q l w.sb).setWidth 24) }).advance
          g.id)) ∧
    (cross [(.pred, w.sa)] true ((w.mod.extractLsb' 0 2).toNat != 2) = true →
      exec (.vote w) s = .next (laneDone s g q w.c 1 fun _ =>
        let p (l : Nat) : Bool := valPred q l w.sa
        (match (w.mod.extractLsb' 0 2).toNat with
         | 0 => if (lanesOf held).any p then 1 else 0
         | 1 => if (lanesOf held).all p then 1 else 0
         | 2 => (lanesMask ((lanesOf held).filter p)).toNat
         | _ => if (lanesOf held).all p || !(lanesOf held).any p then 1 else 0, 0))) ∧
    ((w.mod.extractLsb' 2 3).toNat ≤ 4 → cross [(.r32, w.sa), (.r32, w.sb)] false false = true →
      exec (.shfl w) s = .next (laneDone s g q w.c 1 fun l =>
        let seg := 32 / 2 ^ (w.mod.extractLsb' 2 3).toNat
        let b := (val32 q l w.sb).toNat
        let j : Int := match (w.mod.extractLsb' 0 2).toNat with
          | 0 => (b % seg : Nat)
          | 1 => ((l % seg : Nat) : Int) - b
          | 2 => (l % seg + b : Nat)
          | _ => (l % seg ^^^ b % seg : Nat)
        let k := if 0 ≤ j ∧ j < seg then l - l % seg + j.toNat else l
        ((if held.getLsbD k then val32 q k w.sa else val32 q l w.sa).toNat, 0))) ∧
    ((w.mod.extractLsb' 0 4).toNat ≤ 10 → cross [(.r32, w.sa)] ((w.mod.extractLsb' 4 2).toNat == 0) false = true →
      exec (.rduc w) s = .next (laneDone s g q w.c 1 fun l =>
        let op := (w.mod.extractLsb' 0 4).toNat
        let value (m : Nat) : W32 := if op = 1 ∨ op = 9 ∨ op = 10 then BitVec.ofNat 32 (valFloat .f32 q m w.sa) else val32 q m w.sa
        let part := (lanesOf held).filter fun m => match (w.mod.extractLsb' 4 2).toNat with
          | 0 => true | 1 => decide (m ≤ l) | _ => decide (m < l)
        let all := (lanesOf held).map value
        let xs := part.map value
        let sum (ys : List W32) : Nat × Flags :=
          ys.foldl (fun a y => ((fAdd .f32 .rn a.1 y.toNat).1, a.2 ||| (fAdd .f32 .rn a.1 y.toNat).2)) (0, 0)
        let best (big : Bool) (none : Nat) : Nat :=
          match (xs.map BitVec.toNat).filter fun y => !nanCode .f32 y with
          | [] => if xs = [] then none else 0x7FC00000
          | y :: ys => ys.foldl (fun a y => if decide (orderCode .f32 true y < orderCode .f32 true a) = big then a else y) y
        let signalling := all.any fun y => snanCode .f32 y.toNat
        (match op with
          | 0 => (xs.foldl (· + ·) 0).toNat
          | 1 => (sum xs).1
          | 2 => (BitVec.ofInt 32 (xs.foldl (fun a y => min a y.toInt) (2 ^ 31 - 1))).toNat
          | 3 => (BitVec.ofInt 32 (xs.foldl (fun a y => max a y.toInt) (-(2 ^ 31)))).toNat
          | 4 => xs.foldl (fun a y => min a y.toNat) (2 ^ 32 - 1)
          | 5 => xs.foldl (fun a y => max a y.toNat) 0
          | 6 => (xs.foldl (· &&& ·) 0xFFFFFFFF).toNat
          | 7 => (xs.foldl (· ||| ·) 0).toNat
          | 8 => (xs.foldl (· ^^^ ·) 0).toNat
          | 9 => best false 0x7F800000
          | _ => best true 0xFF800000,
         if op = 1 then (sum all).2 else if (op = 9 ∨ op = 10) ∧ signalling then 16 else 0))) ∧
    (w.mod.getLsbD 0 = false → cross [(.r32, w.sa)] false true = true →
      exec (.matchL w) s = .next (laneDone s g q w.c 1 fun l =>
        let m := lanesWhere held fun x => val32 q x w.sa == val32 q l w.sa
        (if w.c.dk == .pred then (if m = held then 1 else 0) else m.toNat, 0))) ∧
    (w.mod.getLsbD 0 = true → cross [(.r64, w.sa)] false true = true →
      exec (.matchL w) s = .next (laneDone s g q w.c 1 fun l =>
        let m := lanesWhere held fun x => val64 q x w.sa == val64 q l w.sa
        (if w.c.dk == .pred then (if m = held then 1 else 0) else m.toNat, 0)))

/-- R8, R163 to R168, R228: SREAD, SWRITE, HASH64, HCRC, BCMP and BFIND complete with their results; MIX64 is the function of R8. An SWRITE of a
comparator's register takes the value of one of the held lanes (which one is a free value, notes/assumptions 1) and leaves the other comparators;
of one that another launch owns while EN = 1 it raises ILLEGAL_OPERAND. -/
def Obligations.SpecialRegistersAndHashing : Prop :=
  (∀ x : Word,
    let a := (x ^^^ x >>> 29) * 0xA3B195E15C6D2F47#64
    let b := (a ^^^ a >>> 32) * 0xD1C53A976E248B5D#64
    mix64 x = b ^^^ b >>> 29) ∧ mix64 0 = 0 ∧
  ∀ (s : State) (g : Gang) (q : Squad) (w : FM), s.here? = some (g, q) →
    let size : Nat := match (w.mod.extractLsb' 0 2).toNat with | 0 => 4 | 1 => 1 | 2 => 2 | _ => 8
    let wide := size == 8
    let byte (x i : Nat) : Nat := x / 256 ^ i % 256
    let kr := if sregWide w.mod.toNat then 2 else 1
    ((guardFieldOk q w.c && dstOk q w.c kr true false) = true →
      exec (.sread w) s = .next (laneDone s g q w.c kr fun l => (sregRead s g q l w.mod.toNat, 0))) ∧
    (w.mod = 0x010 → (guardFieldOk q w.c && srcOk q false .r32 w.sa) = true →
      exec (.swrite w) s = .next ((s.modSquad q.id fun _ => q.modLanes (heldLanes w.c g q) fun l x =>
        { x with ff := (val32 q l w.sa).setWidth 5 }).advance g.id)) ∧
    (∀ k n, k < 8 → n ∈ [0x110 + k, 0x118 + k, 0x120 + k] → w.mod.toNat = n → k < (s.core q.core).cmp.length →
      (guardFieldOk q w.c && srcOk q false (if n < 0x118 then .r64 else .r32) w.sa) = true →
      let c := s.cmp q.core k
      ((c.bpc.getLsbD 0 = true ∧ c.owner ≠ q.launch) → exec (.swrite w) s = .next (s.decodeTrap g cIllegalOperand)) ∧
      ((c.bpc.getLsbD 0 = false ∨ c.owner = q.launch) → heldLanes w.c g q ≠ 0 →
        Does (.swrite w) s fun t => ∃ l, (heldLanes w.c g q).getLsbD l = true ∧ Passed t g ∧ SameRegs t s ∧ SameMem t s ∧
          (∀ j, j ≠ k → t.cmp q.core j = s.cmp q.core j) ∧
          let v := (val32 q l w.sa)
          let d := t.cmp q.core k
          (n < 0x118 → d = { c with bpa := val64 q l w.sa &&& 0xFFFFFFFFFFFFFFF8#64 }) ∧
          (0x118 ≤ n → n < 0x120 → d = { c with bpc := v &&& 0xFFFF0003#32, owner := if v.getLsbD 0 then q.launch else c.owner }) ∧
          (0x120 ≤ n → d = { c with bpn := v }))) ∧
    Gives (.hash64 w) s (fun q => operandsOk q w.c [(.r64, w.sa), (.r64, w.sb)] 2 true false) w.c 2 (fun q l =>
      ((mix64 (val64 q l w.sa + val64 q l w.sb + 0x6A1D3F85C2B74E19#64)).toNat, 0)) ∧
    Gives (.hcrc w) s (fun q => operandsOk q w.c [(.r32, w.sa), (if wide then .r64 else .r32, w.sb)] 1 true false) w.c 1 (fun q l =>
      let data : Word := if wide then val64 q l w.sb else (val32 q l w.sb).setWidth 64
      let step (c : W32) : W32 := (c >>> 1) ^^^ (if c.getLsbD 0 then 0x82F63B78#32 else 0)
      (((List.range size).foldl (fun c i => step (step (step (step (step (step (step (step (c ^^^ ((data >>> (8 * i)).setWidth 8).setWidth 32))))))))) (val32 q l w.sa)).toNat, 0)) ∧
    Gives (.bcmp w) s (fun q => operandsOk q w.c [(.quad, w.sa), (.quad, w.sb)] 1 true false) w.c 1 (fun q l =>
      let x := valQuad q l w.sa
      let y := valQuad q l w.sb
      (match (List.range 16).find? (fun i => byte x i != byte y i), (w.mod.extractLsb' 0 2).toNat with
        | none, 0 => 1 | some _, 0 => 0
        | none, 1 => 0 | some i, 1 => if byte x i < byte y i then 0xFFFFFFFF else 1
        | none, _ => 16 | some i, _ => i, 0)) ∧
    Gives (.bfind w) s (fun q => operandsOk q w.c [(.quad, w.sa), (.r32, w.sb)] 1 true false) w.c 1 (fun q l =>
      let hit := (List.range 16).filter fun i => byte (valQuad q l w.sa) i == (val32 q l w.sb).toNat % 256
      (match (w.mod.extractLsb' 0 2).toNat with
        | 0 => hit.head?.getD 16 | 1 => hit.getLast?.getD 16 | _ => (hit.map fun i => 2 ^ i).sum, 0))

/-- R172, R176: every SFU instruction of one operand, in both grades, and FDIV in both, complete with one result. It rests on the model's
reading in notes/assumptions 2. -/
def Obligations.SpecialFunctions : Prop :=
  ∀ (s : State) (w : FM),
    let one (acc : Bool) (f : SfuFn) (q : Squad) (l : Nat) : Nat × Flags :=
      ((sfu1 acc f (BitVec.ofNat 32 (valFloat .f32 q l w.sa))).1.toNat, (sfu1 acc f (BitVec.ofNat 32 (valFloat .f32 q l w.sa))).2)
    let two (acc : Bool) (q : Squad) (l : Nat) : Nat × Flags :=
      let r := sfu2 acc (BitVec.ofNat 32 (valFloat .f32 q l w.sa)) (BitVec.ofNat 32 (valFloat .f32 q l w.sb))
      (r.1.toNat, r.2)
    (∀ p ∈ [(Instr.exp2 w, SfuFn.exp2), (.exp w, .exp), (.log2 w, .log2), (.ln w, .ln), (.rcp w, .rcp), (.rsq w, .rsq), (.sqrt w, .sqrt),
            (.sin w, .sin), (.cos w, .cos), (.tanh w, .tanh), (.sigm w, .sigm), (.gelu w, .gelu), (.silu w, .silu), (.erf w, .erf)],
      Gives p.1 s (okFM1 w) w.c 1 (one false p.2)) ∧
    (∀ p ∈ [(Instr.exp2Acc w, SfuFn.exp2), (.expAcc w, .exp), (.log2Acc w, .log2), (.lnAcc w, .ln), (.rcpAcc w, .rcp), (.rsqAcc w, .rsq),
            (.sqrtAcc w, .sqrt), (.sinAcc w, .sin), (.cosAcc w, .cos), (.tanhAcc w, .tanh), (.sigmAcc w, .sigm), (.geluAcc w, .gelu),
            (.siluAcc w, .silu), (.erfAcc w, .erf)],
      Gives p.1 s (okFM1 w) w.c 1 (one true p.2)) ∧
    Gives (.fdiv w) s (okFM w) w.c 1 (two false) ∧ Gives (.fdivAcc w) s (okFM w) w.c 1 (two true)

/-- R173 to R176: the special values of the SFU, bit for bit in both grades: zeros, infinities, NaNs, and the arguments outside a function's
domain; of FDIV, quotients with a zero, an infinity or a NaN in either place, a subnormal operand of the fast grade read as a zero, and a fast
divisor above 2^126. It rests on the model's reading in notes/assumptions 2. -/
def Obligations.SpecialFunctionValues : Prop :=
  ∀ (acc : Bool) (x y : W32),
    let pz : W32 := 0x00000000
    let nz : W32 := 0x80000000
    let pinf : W32 := 0x7F800000
    let ninf : W32 := 0xFF800000
    let one : W32 := 0x3F800000
    let nan : W32 := 0x7FC00000
    let neg := decide (0x80000000 < x.toNat)
    (∀ f : SfuFn, (fvOf .f32 x.toNat).isNaN = true → sfu1 acc f x = (nan, if (fvOf .f32 x.toNat).isSNaN then 16 else 0)) ∧
    (∀ f ∈ [SfuFn.exp2, .exp], ∀ z ∈ [pz, nz], sfu1 acc f z = (one, 0)) ∧
    (∀ f ∈ [SfuFn.exp2, .exp], sfu1 acc f ninf = (pz, 0) ∧ sfu1 acc f pinf = (pinf, 0)) ∧
    (∀ f ∈ [SfuFn.log2, .ln], (∀ z ∈ [pz, nz], sfu1 acc f z = (ninf, 8)) ∧ sfu1 acc f one = (pz, 0) ∧ sfu1 acc f pinf = (pinf, 0)) ∧
    sfu1 acc .rcp pz = (pinf, 8) ∧ sfu1 acc .rcp nz = (ninf, 8) ∧ sfu1 acc .rcp pinf = (pz, 0) ∧ sfu1 acc .rcp ninf = (nz, 0) ∧
    sfu1 acc .rsq pz = (pinf, 8) ∧ sfu1 acc .rsq nz = (ninf, 8) ∧ sfu1 acc .rsq pinf = (pz, 0) ∧
    sfu1 acc .sqrt pinf = (pinf, 0) ∧
    (∀ f ∈ [SfuFn.sqrt, .sin, .tanh, .gelu, .silu, .erf], sfu1 acc f pz = (pz, 0) ∧ sfu1 acc f nz = (nz, 0)) ∧
    (∀ z ∈ [pz, nz], sfu1 acc .cos z = (one, 0) ∧ sfu1 acc .sigm z = (0x3F000000, 0)) ∧
    (∀ f ∈ [SfuFn.tanh, .erf], sfu1 acc f pinf = (one, 0) ∧ sfu1 acc f ninf = (0xBF800000, 0)) ∧
    sfu1 acc .sigm ninf = (pz, 0) ∧ sfu1 acc .sigm pinf = (one, 0) ∧
    (∀ f ∈ [SfuFn.gelu, .silu], sfu1 acc f ninf = (nz, 0) ∧ sfu1 acc f pinf = (pinf, 0)) ∧
    (∀ f ∈ [SfuFn.sin, .cos], sfu1 acc f pinf = (nan, 16) ∧ sfu1 acc f ninf = (nan, 16)) ∧
    (∀ f ∈ [SfuFn.log2, .ln, .rsq, .sqrt], sfu1 acc f ninf = (nan, 16) ∧
      (neg = true → (fvOf .f32 x.toNat).isNaN = false → (acc = true ∨ 0x80800000 ≤ x.toNat) → sfu1 acc f x = (nan, 16))) ∧
    (∀ f ∈ [SfuFn.sin, .cos], 0x49800000 < x.toNat % 2 ^ 31 → (fvOf .f32 x.toNat).isNaN = false → sfu1 acc f x = (nan, 16)) ∧
    (let mx := x.toNat % 2 ^ 31
     let my := y.toNat % 2 ^ 31
     let read (v : Nat) : Nat := if acc = false ∧ v < 2 ^ 23 then 0 else v
     let sign : W32 := (x ^^^ y) &&& 0x80000000
     let inf : Nat := 0x7F800000
     ((nanCode .f32 x.toNat || nanCode .f32 y.toNat) = true → sfu2 acc x y = (nan, if snanCode .f32 x.toNat || snanCode .f32 y.toNat then 16 else 0)) ∧
     (mx = inf → my = inf → sfu2 acc x y = (nan, 16)) ∧ (read mx = 0 → read my = 0 → sfu2 acc x y = (nan, 16)) ∧
     (mx = inf → my < inf → sfu2 acc x y = (sign ||| pinf, 0)) ∧ (mx < inf → my = inf → sfu2 acc x y = (sign, 0)) ∧
     (read mx ≠ 0 → mx < inf → read my = 0 → sfu2 acc x y = (sign ||| pinf, 8)) ∧
     (read mx = 0 → read my ≠ 0 → my < inf → sfu2 acc x y = (sign, 0)) ∧
     (acc = false → 2 ^ 23 ≤ mx → mx < inf → 0x7E800000 < my → my < inf → sfu2 acc x y = (sign, 3)))

/-- R100 to R103, R126: where the result of a LANE or SFU word of one or two registers goes. In a held lane it is in the vector registers from DN
upward, the low word first, unless NW = 1, and in latch LN, 64 bits wide, with LE = 1; every other register of the lane, its predicates and its
other latches stay, and its flags gain those raised; a lane whose guard does not hold stays as it was, and so do the uniform registers. A predicate
destination takes bit 0 in each held lane. A uniform operation executes once, when its guard holds in some lane: it writes the uniform registers
unless NW = 1, with LE = 1 the latch of every active lane, and the flags of the held lanes, and no vector register. -/
def Obligations.RegisterResult : Prop :=
  ∀ (s : State) (g : Gang) (q : Squad) (c : Common) (k : Nat) (f : Nat → Nat × Flags), s.here? = some (g, q) → q.lanes.length = 32 →
    (k = 1 ∨ k = 2) →
    let t := laneDone s g q c k f
    let held (l : Nat) : Prop := g.lanes.getLsbD l = true ∧ guardHolds c (q.lane l) = true
    (c.dk = .vec → ∃ q', t.squad? q.id = some q' ∧ q'.u = q.u ∧
      ∀ l, l < 32 →
        (held l →
          (c.nw = false → ∀ i, i < k → regGet (q'.lane l).v (c.dn.toNat + i) = BitVec.ofNat 32 ((f l).1 / 2 ^ (32 * i))) ∧
          (∀ n, (c.nw = true ∨ n < c.dn.toNat ∨ c.dn.toNat + k ≤ n) → regGet (q'.lane l).v n = regGet (q.lane l).v n) ∧
          (c.le = true → (q'.lane l).latch c.ln.toNat = BitVec.ofNat 64 (f l).1) ∧
          (∀ n, (c.le = false ∨ n ≠ c.ln.toNat) → (q'.lane l).latch n = (q.lane l).latch n) ∧
          (q'.lane l).p = (q.lane l).p ∧ (q'.lane l).ff = (q.lane l).ff ||| (f l).2 ∧ (q'.lane l).st = (q.lane l).st) ∧
        (¬held l → q'.lane l = q.lane l)) ∧
    (c.dk = .pred → c.dn.toNat < 24 → ∃ q', t.squad? q.id = some q' ∧ q'.u = q.u ∧ ∀ l, l < 32 →
      (q'.lane l).v = (q.lane l).v ∧
      (held l → c.nw = false →
        (q'.lane l).pred c.dn.toNat = ((f l).1 % 2 == 1) ∧ ∀ n, n < 24 → n ≠ c.dn.toNat → (q'.lane l).pred n = (q.lane l).pred n)) ∧
    (c.dk = .uni → ∃ q', t.squad? q.id = some q' ∧
      (heldLanes c g q = 0 → q' = q) ∧
      (heldLanes c g q ≠ 0 → c.nw = false →
        ∀ i, i < k → regGet q'.u (c.dn.toNat + i) = BitVec.ofNat 32 ((f (lowest (heldLanes c g q))).1 / 2 ^ (32 * i))) ∧
      (∀ n, (c.nw = true ∨ n < c.dn.toNat ∨ c.dn.toNat + k ≤ n) → regGet q'.u n = regGet q.u n) ∧
      ∀ l, l < 32 → (q'.lane l).v = (q.lane l).v ∧ (q'.lane l).p = (q.lane l).p ∧
        (heldLanes c g q ≠ 0 → c.le = true → g.lanes.getLsbD l = true →
          (q'.lane l).latch c.ln.toNat = BitVec.ofNat 64 (f (lowest (heldLanes c g q))).1) ∧
        (∀ n, (c.le = false ∨ g.lanes.getLsbD l = false ∨ n ≠ c.ln.toNat) → (q'.lane l).latch n = (q.lane l).latch n) ∧
        (held l → (q'.lane l).ff = (q.lane l).ff ||| (f (lowest (heldLanes c g q))).2) ∧ (¬held l → (q'.lane l).ff = (q.lane l).ff))

/-- THE FRAME of the LANE and SFU words: in the state that a completed one leaves, memory, every other squad and every other gang are as
they were, and so is all of the state outside the tables of squads and gangs. The gang itself only moves past its word. -/
def Obligations.LaneFrame : Prop :=
  ∀ (s : State) (g : Gang) (q : Squad) (c : Common) (k : Nat) (f : Nat → Nat × Flags), s.here? = some (g, q) →
    let t := laneDone s g q c k f
    t = { s with squads := t.squads, gangs := t.gangs } ∧
    (∀ a, t.mem.read a = s.mem.read a) ∧
    (∀ n, n ≠ q.id → t.squad? n = s.squad? n) ∧
    (∀ n, n ≠ g.id → t.gang? n = s.gang? n) ∧
    t.gang? g.id = some g.past

/-! ## CTL -/

/-- R215, R207, R213: BRA, BRX, CALL and RET complete when no target faults: every active lane whose guard holds goes to its target, and
every other one to the next clause. CALL leaves the address of the next clause in its link pair, unless NW = 1 or no guard holds. Memory
stays, and so does every register but the link pair. -/
def Obligations.ControlTransfer : Prop :=
  ∀ (s : State) (g : Gang) (q : Squad) (b : FC) (w : FM), s.here? = some (g, q) → q.lanes.length = 32 →
    let go (i : Instr) (c : Common) (T : Nat → Word) (regs : State → Prop) : Prop :=
      (∀ l ∈ lanesOf (heldLanes c g q), targetFault (T l) = none) →
      Does i s fun t => (∀ l, l < 32 → g.lanes.getLsbD l = true →
        Goes t g.squad l (if guardHolds c (q.lane l) then T l else g.nextClause)) ∧ SameMem t s ∧ regs t
    let near : Word := g.pc + 8 * b.off.signExtend 64
    (guardFieldOk q b.c = true → go (.bra b) b.c (fun _ => near) fun t => SameRegs t s) ∧
    ((guardFieldOk q w.c && srcOk q false .base w.sa && srcOk q false .r32 w.sb) = true →
      go (.brx w) w.c (fun l => val64 q l w.sa + 8 * (val32 q l w.sb).signExtend 64) fun t => SameRegs t s) ∧
    ((guardFieldOk q w.c && srcOk q false .base w.sa) = true → go (.ret w) w.c (fun l => val64 q l w.sa) fun t => SameRegs t s) ∧
    ((guardFieldOk q b.c && dstOk q b.c 2 true false) = true →
      (b.c.dk = .vec → go (.call b) b.c (fun _ => near) fun t => ∃ q', t.squad? q.id = some q' ∧ q'.u = q.u ∧ ∀ l, l < 32 →
        (q'.lane l).p = (q.lane l).p ∧
        (b.c.nw = false → (heldLanes b.c g q).getLsbD l = true → regPair (q'.lane l).v b.c.dn.toNat = g.nextClause) ∧
        ∀ n, (b.c.nw = true ∨ (heldLanes b.c g q).getLsbD l = false ∨ (n ≠ b.c.dn.toNat ∧ n ≠ b.c.dn.toNat + 1)) →
          regGet (q'.lane l).v n = regGet (q.lane l).v n) ∧
      (b.c.dk = .uni → go (.call b) b.c (fun _ => near) fun t => ∃ q', t.squad? q.id = some q' ∧
        q'.lanes.map laneFile = q.lanes.map laneFile ∧
        (b.c.nw = false → heldLanes b.c g q ≠ 0 → regPair q'.u b.c.dn.toNat = g.nextClause) ∧
        ∀ n, (b.c.nw = true ∨ heldLanes b.c g q = 0 ∨ (n ≠ b.c.dn.toNat ∧ n ≠ b.c.dn.toNat + 1)) → regGet q'.u n = regGet q.u n))

/-- R97, R215, R218, R109: BRA, BRX, CALL, RET, LOOP and LBRK with a bad target in some lane that would go to it trap before any lane moves: APERTURE
outside the global aperture, MISALIGNED off an 8-byte boundary, with the fetch bit [10] set and no page table level; no link, count or other register
is written. Where lanes have targets of both kinds the lower code is raised, in the lanes of that kind, with the target of the lowest (the model's
choice, notes/assumptions 16). An unassigned opcode raises ILLEGAL_ENCODING in every active lane, with the raw word as its detail. -/
def Obligations.BadTargetsAndOpcodesTrap : Prop :=
  (∀ (s : State) (g : Gang) (q : Squad) (b : FC) (w : FM), s.here? = some (g, q) →
    let near : Word := g.pc + 8 * b.off.signExtend 64
    let traps (i : Instr) (m : Lanes) (T : Nat → Word) : Prop :=
      let outside := lanesWhere m fun l => apertureOf (T l).toNat != .global
      let off := lanesWhere m fun l => (T l).toNat % 8 != 0
      (outside ≠ 0 → exec i s = .next (s.takeTrap g 0x12 outside (T (lowest outside)) 0x470)) ∧
      (outside = 0 → off ≠ 0 → exec i s = .next (s.takeTrap g 0x13 off (T (lowest off)) 0x470))
    let count (l : Nat) : W32 :=
      if b.aux.getLsbD 7 then q.uni (b.aux.extractLsb' 0 7).toNat else regGet (q.lane l).v (b.aux.extractLsb' 0 7).toNat
    (guardFieldOk q b.c = true → traps (.bra b) (heldLanes b.c g q) fun _ => near) ∧
    ((guardFieldOk q w.c && srcOk q false .base w.sa && srcOk q false .r32 w.sb) = true →
      traps (.brx w) (heldLanes w.c g q) fun l => val64 q l w.sa + 8 * (val32 q l w.sb).signExtend 64) ∧
    ((guardFieldOk q w.c && srcOk q false .base w.sa) = true → traps (.ret w) (heldLanes w.c g q) fun l => val64 q l w.sa) ∧
    ((guardFieldOk q b.c && dstOk q b.c 2 true false) = true → (b.c.dk = .vec ∨ b.c.dk = .uni) →
      traps (.call b) (heldLanes b.c g q) fun _ => near) ∧
    (loopOk b q = true → traps (.loop b) (lanesWhere (heldLanes b.c g q) fun l => decide (1 < (count l).toNat)) fun _ => near) ∧
    (loopOk b q = true → traps (.lbrk b) (heldLanes b.c g q) fun _ => near)) ∧
  ∀ (s : State) (g : Gang) (q : Squad) (e : BitVec 4) (tail : Bool) (w : Word), s.here? = some (g, q) →
    exec (.unassignedOpcode e tail w) s = .next (s.takeTrap g 0x01 g.lanes 0 g.word)

/-- R216 to R218: LOOP, LBRK, NOP, YIELD and EXIT complete. In each lane whose guard holds (once, for a uniform count) LOOP takes one from a count above 1 and goes
back, and else leaves 0 and goes on; LBRK leaves 0 and goes to its target. No other register changes. NOP moves past its
word and does nothing else; YIELD also marks its gang, when its guard holds in some lane; EXIT ends the lanes whose guard holds, in a roaming gang
frees their slots and lowers the live count of the launch by their number, and sends the others to the next clause. -/
def Obligations.LoopsExitNopYield : Prop :=
  (∀ (s : State) (g : Gang) (q : Squad) (b : FC), s.here? = some (g, q) → q.lanes.length = 32 → loopOk b q = true →
    let near : Word := g.pc + 8 * b.off.signExtend 64
    targetFault near = none →
    let n := (b.aux.extractLsb' 0 7).toNat
    let uni := b.aux.getLsbD 7
    let held := heldLanes b.c g q
    let count (l : Nat) : W32 := if uni then q.uni n else regGet (q.lane l).v n
    let go (i : Instr) (back : W32 → Bool) (new : W32 → W32) : Prop := Does i s fun t => ∃ q', t.squad? q.id = some q' ∧ SameMem t s ∧
      (∀ l, l < 32 → g.lanes.getLsbD l = true →
        Goes t g.squad l (if held.getLsbD l && back (count l) then near else g.nextClause)) ∧
      (∀ m, (m ≠ n ∨ uni = false) → regGet q'.u m = regGet q.u m) ∧
      (uni = true → held ≠ 0 → regGet q'.u n = new (q.uni n)) ∧
      ∀ l, l < 32 → (q'.lane l).p = (q.lane l).p ∧
        (uni = false → held.getLsbD l = true → regGet (q'.lane l).v n = new (regGet (q.lane l).v n)) ∧
        ∀ m, (m ≠ n ∨ uni = true ∨ held.getLsbD l = false) → regGet (q'.lane l).v m = regGet (q.lane l).v m
    go (.loop b) (fun c => decide (1 < c.toNat)) (fun c => if 1 < c.toNat then c - 1 else 0) ∧ go (.lbrk b) (fun _ => true) fun _ => 0) ∧
  ∀ (s : State) (g : Gang) (q : Squad) (w : FM), s.here? = some (g, q) → guardFieldOk q w.c = true → q.lanes.length = 32 →
    let held := heldLanes w.c g q
    exec (.nop w) s = .next (s.advance g.id) ∧
    Does (.yield w) s (fun t => SameRegs t s ∧ SameMem t s ∧
      t.gang? g.id = some (if held = 0 then g.past else ({ g with yielded := true } : Gang).past)) ∧
    Does (.exitL w) s (fun t => SameMem t s ∧
      (∀ l, l < 32 → g.lanes.getLsbD l = true → held.getLsbD l = false → Goes t g.squad l g.nextClause) ∧
      (q.roam = false → ∃ q', t.squad? q.id = some q' ∧ q'.u = q.u ∧ ∀ l, l < 32 →
        (held.getLsbD l = true → (q'.lane l).st = .exited) ∧ laneFile (q'.lane l) = laneFile (q.lane l)) ∧
      (q.roam = true → t.launch? q.launch = (s.launch? q.launch).map (fun x => { x with live := x.live - (lanesOf held).length }) ∧
        ∀ q', t.squad? q.id = some q' → ∀ l, l < 32 → held.getLsbD l = true → (q'.lane l).st = .absent))


/-- R114, R115: TAKING A TRAP, with a trap vector and outside a handler: the gang with its lanes is in its handler at the vector; the trap
registers hold the code, the place, the word, the lanes and the address, and the fields of the word by its format, all zero for a header; the
record is kept for R112. No register of a lane changes, no byte of memory, and no other gang. PAGE_NOT_PRESENT and PERMISSION never come here
(R111). -/
def Obligations.TrapEntry : Prop :=
  ∀ (s : State) (g : Gang) (q : Squad) (x : Launch) (code : Nat) (mask : Lanes) (addr detail : Word),
    s.gang? g.id = some g → s.squad? g.squad = some q → s.launch? q.launch = some x → x.r.trapv ≠ 0 → g.handler = false →
    code ≠ cPageNotPresent → code ≠ cPermission →
    let t := s.takeTrap g code mask addr detail
    SameRegs t s ∧ SameMem t s ∧ (∀ n, n ≠ g.id → t.gang? n = s.gang? n) ∧
    ∃ y, t.gang? g.id = some y ∧ y.squad = g.squad ∧ y.lanes = g.lanes ∧ y.pc = x.r.trapv ∧ y.pos = 0 ∧ y.handler = true ∧
      y.trap.frec = { code := code, eng := g.header.eng.toNat, coff := g.pos, lanes := mask, pc := g.pc, addr := addr, detail := detail } ∧
      y.trap.regs.xcode = BitVec.ofNat 8 code ∧ y.trap.regs.xpc = g.pc + 8 * BitVec.ofNat 64 g.pos ∧ y.trap.regs.xraw = g.word ∧
      y.trap.regs.xmask = mask ∧ y.trap.regs.xaddr = addr ∧
      let z := y.trap.regs
      let w := g.word
      let fmt : Nat := match (g.header.classAt g.pos).bind fun e => shapeOf e (opBits w) with
        | some (.f3 _) => 0 | some (.fm _) => 1 | some (.fi _) => 2 | some (.fk _) => 3 | some (.fa _) => 4 | some (.fc _) => 5 | none => 7
      (g.pos = 0 → (z.xop, z.xfmt, z.xdst, z.xsa, z.xsb, z.xsc, z.ximm, z.xguard) = (0, 7, 0, 0, 0, 0, 0, 0)) ∧
      (g.pos ≠ 0 →
        z.xop.toNat = g.header.eng.toNat + 16 * (opBits w).toNat + (if g.header.isTailAt g.pos then 4096 else 0) ∧
        z.xguard = w.extractLsb' 50 1 ++ w.extractLsb' 51 5 ∧ z.xfmt.toNat = fmt ∧
        z.xdst = w.extractLsb' 34 3 ++ (w.extractLsb' 37 1 ++ (w.extractLsb' 38 1 ++ w.extractLsb' 39 11)) ∧
        z.xsa = (if fmt = 3 ∨ fmt = 5 then 0 else w.extractLsb' 23 11) ∧
        z.xsb = (if fmt = 2 ∨ fmt = 3 then 0 else if fmt = 5 then (w.extractLsb' 0 8).setWidth 11 else w.extractLsb' 12 11) ∧
        z.xsc = (if fmt = 0 then w.extractLsb' 1 11 else 0) ∧
        z.ximm = match fmt with
          | 0 => 0 | 2 => (w.extractLsb' 0 23).signExtend 64 | 3 => (w.extractLsb' 2 32).signExtend 64
          | 4 => (w.extractLsb' 0 12).signExtend 64 | 5 => (w.extractLsb' 8 26).signExtend 64 | _ => (w.extractLsb' 0 12).setWidth 64)

/-- R112: a trap without a trap vector, and PERMISSION always, is fatal and reported with its record; a second trap in the handler is
fatal, and reported after the record of the first. That PERMISSION in a handler is reported by its record alone is the model's choice
(notes/assumptions 18); the place of a launch that has no core is its die (notes/assumptions 27). -/
def Obligations.FatalTraps : Prop :=
  ∀ (s : State) (g : Gang) (q : Squad) (x : Launch) (code : Nat) (mask : Lanes) (addr detail : Word),
    s.squad? g.squad = some q → s.launch? q.launch = some x →
    let r : FaultRec := { code := code, eng := g.header.eng.toNat, coff := g.pos, lanes := mask, pc := g.pc, addr := addr, detail := detail }
    let t := s.takeTrap g code mask addr detail
    let first (k : List FaultRec) : Prop := ∃ rest, t.events = s.events ++ (k.map fun r =>
      ({ fn := x.fn, kind := 1, die := if 384 ≤ q.core then x.die else dieOf q.core, core := q.core, part := q.part, handle := q.launch,
         frame := 0, frec := r } : Event)) ++ rest
    ((code = 0x11 ∨ (g.handler = false ∧ x.r.trapv = 0)) → first [r]) ∧ (code ≠ 0x11 → g.handler = true → first [g.trap.frec, r]) ∧
    ((code = 0x11 ∨ g.handler = true ∨ x.r.trapv = 0) → x.st = .running → ∀ y ∈ t.squads, y.launch ≠ q.launch)

/-- R116: TRAP and BKPT are user traps 0x08 and 0x09 in the lanes whose guard holds, and have no effect in none. TRET sends the lanes whose
guard holds out of the handler, to the trapping word again, or to the word after it, or to the clause after it when that word was the
last; the others stay in the handler at the next clause. Outside a handler it raises ILLEGAL_OPERAND. It rests on the model's reading in
notes/assumptions 18; that the DETAIL of a user trap is 0 is the model's choice (notes/assumptions 68). -/
def Obligations.UserTrapsAndReturn : Prop :=
  ∀ (s : State) (g : Gang) (q : Squad), s.here? = some (g, q) →
    (∀ (w : FI), guardFieldOk q w.c = true →
      let held := heldLanes w.c g q
      (held = 0 → exec (.trap w) s = .next (s.advance g.id) ∧ exec (.bkpt w) s = .next (s.advance g.id)) ∧
      (held ≠ 0 → exec (.trap w) s = .next (s.takeTrap g 0x08 held 0 0) ∧ exec (.bkpt w) s = .next (s.takeTrap g 0x09 held 0 0))) ∧
    ∀ (b : FC), guardFieldOk q b.c = true →
      let go := heldLanes b.c g q
      let again := b.aux.getLsbD 0
      let last := !again && g.trap.last
      let pc : Word := if last then g.trap.pc + 8 * BitVec.ofNat 64 ((Header.ofWord g.trap.hdr).cnt.toNat + 2) else g.trap.pc
      let pos := if again then g.trap.pos else if last then 0 else g.trap.pos + 1
      (g.handler = false → exec (.tret b) s = .next (s.takeTrap g cIllegalOperand g.lanes 0 g.word)) ∧
      (g.handler = true → Does (.tret b) s fun t => SameRegs t s ∧ SameMem t s ∧
        (go ≠ 0 → ∃ y ∈ t.gangs, y.squad = g.squad ∧ y.lanes = go ∧ y.handler = false ∧ y.pc = pc ∧ y.resume = pos) ∧
        ∀ l, l < 32 → g.lanes.getLsbD l = true → go.getLsbD l = false → ∃ y ∈ t.gangs, y.squad = g.squad ∧ y.lanes.getLsbD l = true ∧
          y.pc = g.nextClause ∧ y.pos = 0 ∧ y.handler = true ∧ y.trap = g.trap)

/-- R220, R221, R222: RJSET gives mask j its expected lanes and empties its other sets, unless a lane waits on it; RJARV, once its loads have
returned, adds the lanes to A; RJWAIT adds them to A, or to N where they had arrived, and makes them wait, and the other lanes go on. The
gang passes RJSET and RJARV. With no held lane RJSET and RJARV do nothing, by R100; for RJSET that is the model's choice over R220, which would
empty E (notes/assumptions 17). A round that an arrival completes fires the lanes that
wait in it, and REJOIN_RELEASE makes fired lanes run again at the clause after their RJWAIT, and empties that set. No byte of memory and no
other register changes. -/
def Obligations.RejoinMasks : Prop :=
  (∀ (s : State) (g : Gang) (q : Squad) (w : FM), s.here? = some (g, q) → q.lanes.length = 32 →
    (guardFieldOk q w.c && srcOk q false .rejoin w.sa) = true →
    let j := srcNum w.sa
    let held := heldLanes w.c g q
    let arrive : Squad := q.modMask j fun m => { m with a := m.a ||| held }
    let wait : Squad := (q.modMask j fun m => { m with a := m.a ||| held, n := m.n ||| (held &&& m.a) }).modLanes held fun l y =>
      { y with st := .rejoin j g.pc g.pos g.nextClause (!(q.mask j).a.getLsbD l) s.now }
    let same (q' z : Squad) (k : Nat) : Prop := (q'.mask k).e = (z.mask k).e ∧ (q'.mask k).a = (z.mask k).a ∧ (q'.mask k).n = (z.mask k).n
    let files (q' : Squad) : Prop := q'.u = q.u ∧ ∀ l, l < 32 → laneFile (q'.lane l) = laneFile (q.lane l)
    (held = 0 → exec (.rjset w) s = .next (s.advance g.id) ∧ exec (.rjarv w) s = .next (s.advance g.id)) ∧
    (held ≠ 0 → (∀ l, l < 32 → q.waitsOn j l = false) → Does (.rjset w) s fun t => SameMem t s ∧ Passed t g ∧ ∃ q', t.squad? q.id = some q' ∧
      (q'.mask j).e = held ∧ (q'.mask j).a = 0 ∧ (q'.mask j).n = 0 ∧ (∀ k, k < 8 → k ≠ j → q'.mask k = q.mask k) ∧ files q') ∧
    (held ≠ 0 → (∃ l, l < 32 ∧ q.waitsOn j l = true) → exec (.rjset w) s = .next (s.takeTrap g cIllegalOperand g.lanes 0 g.word)) ∧
    (held ≠ 0 → (g.fenced = true ∨ s.fenceReady q held 1 1 = true) →
      Does (.rjarv w) s fun t => SameMem t s ∧ Passed t g ∧ ∃ q', t.squad? q.id = some q' ∧ files q' ∧
        ((∀ k, k < 8 → arrive.roundDone k = false) → ∀ k, k < 8 → same q' arrive k) ∧
        (arrive.roundDone j = true → ∀ l c p next t0, l < 32 → (q.lane l).st = .rejoin j c p next true t0 → (q'.mask j).fired.getLsbD l = true)) ∧
    Does (.rjwait w) s (fun t => SameMem t s ∧
      (∀ l, l < 32 → g.lanes.getLsbD l = true → held.getLsbD l = false → Goes t g.squad l g.nextClause) ∧
      ∃ q', t.squad? q.id = some q' ∧ files q' ∧
        (∀ l, l < 32 → held.getLsbD l = true → ∃ cur, (q'.lane l).st = .rejoin j g.pc g.pos g.nextClause cur s.now ∧
          ((q.mask j).a.getLsbD l = false → cur = true)) ∧
        ((∀ k, k < 8 → wait.roundDone k = false) → ∀ k, k < 8 → same q' wait k) ∧
        (wait.roundDone j = true → ∀ l, l < 32 → held.getLsbD l = true → (q.mask j).a.getLsbD l = false → (q.mask j).fired.getLsbD l = false →
          (q'.mask j).fired.getLsbD l = true))) ∧
  ∀ (s : State) (n k : Nat) (z : Squad), s.squad? n = some z → z.place = .resident → (z.mask k).fired ≠ 0 → s.loadsOut z (z.mask k).fired = false →
      Does (.rejoinRelease n k) s fun t => SameMem t s ∧ ∃ z', t.squad? n = some z' ∧ z'.u = z.u ∧ (z'.mask k).fired = 0 ∧
        (∀ l, l < 32 → laneFile (z'.lane l) = laneFile (z.lane l)) ∧
        ∀ l c p next cur t0, l < 32 → l < z.lanes.length → (z.mask k).fired.getLsbD l = true → (z.lane l).st = .rejoin k c p next cur t0 →
          Goes t n l next ∧ (z'.lane l).st = .run

/-! ## MEM -/

/-- R182, R183, R186, R185, R66, R117: LD and LDA complete. What has run ahead for the word, what a vault holds in the view of its core and, for an LD
without the bypass hint of a cacheable page that is not writable, what a line of the core's read-only cache holds is at once in each lane's registers
(for a uniform destination in the uniform registers) and in its latch (for a uniform one in that of every active lane), extended as SZ says. Of every
other access a request for the lane's bytes is on its way and no register changes yet. The gang passes its word; every other register stays, and all
of memory. It rests on the model's reading in notes/assumptions 11, 13. -/
def Obligations.Loads : Prop :=
  ∀ (s : State) (g : Gang) (q : Squad) (w : FA), s.here? = some (g, q) → q.lanes.length = 32 →
    (ldDesc w).ok q = true → roleFault q .mem = false → Ready s g q (ldDesc w) →
    (∀ x ∈ accsOf s g q (ldDesc w), ∀ h c, x.spot = .vault h c → s.eccDouble h (ldDesc w).n = none) →
    let accs := accsOf s g q (ldDesc w)
    let n := szBytes (szOf w.mod)
    let k := szRegs (szOf w.mod)
    let d := w.c.dn.toNat
    let key := ascKey (s.spaceOf q.launch).1.id (s.spaceOf q.launch).2.id
    let extended (v : Nat) : Nat :=
      if szOf w.mod = 1 then ((BitVec.ofNat 8 v).signExtend 32).toNat
      else if szOf w.mod = 3 then ((BitVec.ofNat 16 v).signExtend 32).toNat else v
    let cached (a x : Nat) : Option Nat :=
      (s.lines.find? fun y => y.core == q.core && y.asc == key && y.va == a / 128 * 128 && y.pa == x / 128 * 128).map fun y =>
        ofBytes ((y.bytes.drop (x % 128)).take n)
    ∀ i ∈ [(Instr.ld w, hintOf w.mod == 2), (.lda w, true)],
      let here (x : Acc) : Option Nat := match g.runAhead x, x.spot with
        | some v, _ => some v
        | none, .vault h _ => some ((s.view q.core).readN h n)
        | none, .page e h => if e.w || e.noc || i.2 then none else cached x.va h
        | none, _ => none
      Does i.1 s fun t => SameMem t s ∧ t.ents = s.ents ∧ PastWord t g ∧ ∃ q', t.squad? q.id = some q' ∧
        (∀ x ∈ accs, ∀ v, here x = some v →
          (w.c.dk = .vec → w.c.nw = false → regGetN (q'.lane x.lane).v d k = extended v) ∧
          (w.c.dk = .uni → w.c.nw = false → regGetN q'.u d k = extended v) ∧
          (w.c.le = true → ∀ l, l < 32 → (if w.c.dk = .uni then g.lanes.getLsbD l = true else l = x.lane) →
            (q'.lane l).latch w.c.ln.toNat = BitVec.ofNat 64 (extended v))) ∧
        (∀ r, (w.c.dk ≠ .uni ∨ w.c.nw = true ∨ r < d ∨ d + k ≤ r) → regGet q'.u r = regGet q.u r) ∧
        (∀ l, l < 32 → (q'.lane l).p = (q.lane l).p ∧ (q'.lane l).ff = (q.lane l).ff ∧
          ∀ r, (w.c.dk ≠ .vec ∨ w.c.nw = true ∨ (∀ x ∈ accs, x.lane ≠ l) ∨ r < d ∨ d + k ≤ r) →
            regGet (q'.lane l).v r = regGet (q.lane l).v r) ∧
        ∀ x ∈ accs, here x = none → ∀ home, (x.spot = .stack home ∨ ∃ e, x.spot = .page e home) →
          regGetN (q'.lane x.lane).v d k = regGetN (q.lane x.lane).v d k ∧ regGetN q'.u d k = regGetN q.u d k ∧
          ∃ r ∈ t.reqs, r.gang = g.id ∧ r.squad = q.id ∧ r.owner = homeCore home ∧ r.accepted = false ∧
            ∃ p ∈ r.pieces, p.lane = x.lane ∧ p.home = home ∧ p.n = min n 8

/-- R186, R187, R74: ST, and STL once its release is satisfied, complete: each access adds posted writes of its lane's data at the address
of R181 to the buffers, a 16-byte one in two halves, and the gang passes its word; the stored bytes are seen at home later, and every byte of memory and every
register stays. It rests on the model's reading in notes/assumptions 10. -/
def Obligations.Stores : Prop :=
  ∀ (s : State) (g : Gang) (q : Squad) (w : FA), s.here? = some (g, q) → (stDesc w).ok q = true → roleFault q .mem = false →
    Ready s g q (stDesc w) →
    let accs := accsOf s g q (stDesc w)
    let n := szBytes (szOf w.mod)
    let data (l : Nat) : List Byte := toBytes n (valRun q l w.c.dk w.c.dn.toNat (szRegs (szOf w.mod)))
    let posts (x : Acc) : List (Nat × Nat × Post) :=
      let h := x.spot.home?.getD 0
      let l := if w.c.dk = .uni then 32 else x.lane
      if n = 16 then [(l, h, .store ((data x.lane).take 8)), (l, h + 8, .store ((data x.lane).drop 8))] else [(l, h, .store (data x.lane))]
    let does (i : Instr) (ps : List Posting) : Prop :=
      s.buffersOk q ps = true → s.remoteOk q ps = true → (q.roam = true ∨ q.cnt.rm + ps.length ≤ 65535) →
      Does i s fun t => SameMem t s ∧ SameRegs t s ∧ PastWord t g ∧ ∃ es, t.ents = s.ents ++ es ∧
        es.map (fun e => (e.lane, e.home, e.post)) = (accs.map posts).flatten ∧
        ∀ e ∈ es, e.core = q.core ∧ e.squad = q.id ∧ e.launch = q.launch ∧ e.athome = false
    let held := heldLanes w.c g q
    does (.st w) (storePostings s q held (stDesc w) (szRegs (szOf w.mod)) false 0 accs) ∧
    ((g.fenced = true ∨ s.fenceReady q held 1 (faScope w.mod) = true) →
      does (.stl w) (storePostings s q held (stDesc w) (szRegs (szOf w.mod)) true (faScope w.mod) accs))

/-- R190: the new value of an atomic's location. Type 0 is i32, 1 n32, 3 i64, 4 n64; incwrap is of n32. -/
def Obligations.AtomicNewValues : Prop :=
  (∀ (old b : W32),
    let new (aop ty : Nat) : W32 := BitVec.ofNat 32 (atomNew aop ty old.toNat b.toNat).1
    (∀ ty, ty < 2 → new 0 ty = old + b) ∧ new 1 0 = (if b.slt old then b else old) ∧ new 2 0 = (if old.slt b then b else old) ∧
    new 1 1 = (if b < old then b else old) ∧ new 2 1 = (if old < b then b else old) ∧ new 3 1 = old &&& b ∧ new 4 1 = old ||| b ∧
    new 5 1 = old ^^^ b ∧ new 6 1 = b ∧ new 7 1 = (if b ≤ old then 0 else old + 1) ∧
    atomNew 0 2 old.toNat b.toNat = fAdd .f32 .rn old.toNat b.toNat) ∧
  (∀ (old b : Word),
    let new (aop ty : Nat) : Word := BitVec.ofNat 64 (atomNew aop ty old.toNat b.toNat).1
    new 0 3 = old + b ∧ new 1 3 = (if b.slt old then b else old) ∧ new 2 3 = (if old.slt b then b else old) ∧
    new 1 4 = (if b < old then b else old) ∧ new 2 4 = (if old < b then b else old) ∧ new 3 4 = old &&& b ∧ new 4 4 = old ||| b ∧
    new 5 4 = old ^^^ b ∧ new 6 4 = b)

/-- R191, R193: ATOM and CAS complete, once an ordering with release is satisfied, and the gang passes its word. In vaults they are performed
at once, in ascending lane order, and each lane's register (for a uniform destination the uniform register) holds what stood at its address
before; memory elsewhere stays. CAS stores its new value only where the old one equals the compare value. In a slice, of a page or of a stack, a
request with the lane's operands is on its way. It rests on the model's reading in notes/assumptions 11. -/
def Obligations.AtomicsAndCompareSwap : Prop :=
  ∀ (s : State) (g : Gang) (q : Squad) (w : FM), s.here? = some (g, q) → q.lanes.length = 32 → roleFault q .mem = false →
    let held := heldLanes w.c g q
    let does (i : Instr) (d : MemDesc) (rel : Bool) (scope : Nat) (new : Nat → Nat → Option Nat) : Prop :=
      let accs := accsOf s g q d
      d.ok q = true → Ready s g q d → (∀ x ∈ accs, ∀ h c, x.spot = .vault h c → s.eccDouble h d.n = none) →
      (rel = false ∨ g.fenced = true ∨ s.fenceReady q held 1 scope = true) →
      let k := w.c.dn.toNat
      Does i s fun t => PastWord t g ∧ ∃ q', t.squad? q.id = some q' ∧
        (AllVault accs → Unwatched s → (∀ x ∈ accs, ∀ e ∈ s.ents, e.overlaps (x.spot.home?.getD 0) d.n = false) →
          t.mem = (rmwRun d.n new s.mem (homesOf accs)).1 ∧
          ∀ y ∈ (rmwRun d.n new s.mem (homesOf accs)).2,
            (w.c.dk = .vec → w.c.nw = false → regGetN (q'.lane y.1).v k (d.n / 4) = y.2) ∧
            (w.c.dk = .uni → w.c.nw = false → regGetN q'.u k (d.n / 4) = y.2)) ∧
        (∀ r, (w.c.dk ≠ .uni ∨ r < k ∨ k + d.n / 4 ≤ r) → regGet q'.u r = regGet q.u r) ∧
        (∀ l r, l < 32 → (w.c.dk ≠ .vec ∨ (∀ x ∈ accs, x.lane ≠ l) ∨ r < k ∨ k + d.n / 4 ≤ r) →
          regGet (q'.lane l).v r = regGet (q.lane l).v r) ∧
        ((∀ x ∈ accs, ∀ h c, x.spot ≠ .vault h c) → SameMem t s) ∧
        ∀ x ∈ accs, ∀ h, ((∃ e, x.spot = .page e h) ∨ x.spot = .stack h) → ∃ r ∈ t.reqs, r.isAtomic = true ∧ r.squad = q.id ∧ r.gang = g.id ∧
          ∃ p ∈ r.pieces, p.lane = x.lane ∧ p.home = h ∧ p.n = d.n
    let ty := (w.mod.extractLsb' 4 3).toNat
    let b (l : Nat) : Nat :=
      if ty = 2 then valFloat .f32 q l w.sb else if ty = 3 ∨ ty = 4 then (val64 q l w.sb).toNat else (val32 q l w.sb).toNat
    does (.atom w) (atomDesc w) (w.mod.getLsbD 11) (w.mod.extractLsb' 7 3).toNat (fun l old =>
      some (atomNew (w.mod.extractLsb' 0 4).toNat ty old (b l)).1) ∧
    does (.cas w) (casDesc w) (w.mod.getLsbD 1) (w.mod.extractLsb' 3 3).toNat (fun l old =>
      if w.mod.getLsbD 6 then
        (if old = (valQuad q l w.sb) % 2 ^ 64 then some (valQuad q l w.sb / 2 ^ 64) else none)
      else if old = (val64 q l w.sb).toNat % 2 ^ 32 then some ((val64 q l w.sb).toNat / 2 ^ 32) else none)

/-- R190, R192, R185: RED completes as a posted operation, once an ordering with release is satisfied: for each lane it adds the reduction at the
lane's address to the buffers, the gang passes its word, and no byte of memory and no register changes yet. -/
def Obligations.Reductions : Prop :=
  ∀ (s : State) (g : Gang) (q : Squad) (w : FM), s.here? = some (g, q) → (redDesc w).ok q = true → roleFault q .mem = false →
    Ready s g q (redDesc w) →
    let accs := accsOf s g q (redDesc w)
    let rel := w.mod.getLsbD 11
    let scope := (w.mod.extractLsb' 7 3).toNat
    (rel = false ∨ g.fenced = true ∨ s.fenceReady q (heldLanes w.c g q) 1 scope = true) →
    s.storeBufOcc q.core + accs.length ≤ 64 → (∀ v, s.vaultBufOcc q.core v + accs.length ≤ 32) → s.remoteOcc q.core + accs.length ≤ 128 →
    (q.roam = true ∨ q.cnt.rm + accs.length ≤ 65535) →
    let ty := (w.mod.extractLsb' 4 3).toNat
    let b (l : Nat) : Word :=
      if ty = 2 then BitVec.ofNat 64 (valFloat .f32 q l w.sb) else if ty = 3 ∨ ty = 4 then val64 q l w.sb else (val32 q l w.sb).setWidth 64
    Does (.red w) s fun t => SameMem t s ∧ SameRegs t s ∧ PastWord t g ∧ ∃ es, t.ents = s.ents ++ es ∧
      es.map (fun e => (e.lane, e.home, e.post)) = accs.map fun x =>
        (x.lane, x.spot.home?.getD 0, .red (w.mod.extractLsb' 0 4).toNat (w.mod.extractLsb' 4 3).toNat (b x.lane))

/-- R197, R198, R199: FENCE completes when the earlier loads of its lanes have returned and, unless it is acq or of thread scope, the writes of
their cumulative sets are as its scope asks: at team scope and wider every one has reached home, and at a narrower one none stands in the
buffers of another core; else the gang waits at it for those. PREF waits for nothing: it asks for each line whose page is translated and
starts a walk for each that is not. CVTA computes its result. Each takes the memory port, which is free. FENCE and PREF leave memory and
registers. It rests on the model's reading in
notes/assumptions 35. -/
def Obligations.FencesAndAddresses : Prop :=
  ∀ (s : State) (g : Gang) (q : Squad) (w : FM) (a : FA), s.here? = some (g, q) → roleFault q .mem = false → s.portBusy g q = false →
    let held := heldLanes w.c g q
    let kind := (w.mod.extractLsb' 0 2).toNat
    let scope := (w.mod.extractLsb' 2 3).toNat
    let complete : Prop := s.loadsOut q held = false ∧ (kind = 0 ∨ (q.roam = true ∧ (scope = 1 ∨ scope = 2)) ∨ scope = 0 ∨
      ∀ l ∈ lanesOf held, ∀ n ∈ s.cumulative q l, wideScope q.roam scope = false ∧ ∀ e ∈ s.ents, e.id = n → e.athome = false → e.core = q.core)
    let vas := (lanesOf (heldLanes a.c g q)).map fun l => faAddr a q l
    (guardFieldOk q w.c = true →
      ((held = 0 ∨ g.fenced = true ∨ complete) → Does (.fence w) s fun t => SameMem t s ∧ SameRegs t s ∧ t.gang? g.id = some g.past) ∧
      (held ≠ 0 → g.fenced = false → ¬complete → Does (.fence w) s fun t => SameMem t s ∧ SameRegs t s ∧ Waits t g (.fence kind scope held))) ∧
    ((guardFieldOk q a.c && srcOk q false .base a.base) = true → (q.roam = false ∨ g.pos = 1 ∨ ∀ v ∈ vas, apertureOf v ≠ .global) →
      Does (.pref a) s fun t => SameMem t s ∧ SameRegs t s ∧ t.gang? g.id = some g.past ∧
        t.reqs.length = s.reqs.length + (prefLines s q vas).length ∧ t.walks.length = s.walks.length + (prefMisses s q vas).length) ∧
    (let op := (w.mod.extractLsb' 0 3).toNat
     let none64 := 2 ^ 64 - 1
     (op = 0 → operandsOk q w.c [(.r32, w.sa)] 2 true false = true → exec (.cvta w) s = .next (laneDone (s.portTaken q) g q w.c 2 fun l =>
       let x := (val32 q l w.sa).toNat
       (if x < 2 ^ 26 then 0xFF00000000000000 + x else none64, 0))) ∧
     (op = 1 → operandsOk q w.c [(.r64, w.sa)] 2 true false = true → exec (.cvta w) s = .next (laneDone (s.portTaken q) g q w.c 2 fun l =>
       let x := (val64 q l w.sa).toNat
       (if apertureOf x = .scratch then x - 0xFF00000000000000 else none64, 0))) ∧
     (op = 2 → operandsOk q w.c [(.r64, w.sa)] 2 true false = true → exec (.cvta w) s = .next (laneDone (s.portTaken q) g q w.c 2 fun l =>
       let a := (val64 q l w.sa).toNat
       let off := a - 0xFF00000000000000
       (match s.team? q.team with
        | some t => if q.roam = false ∧ apertureOf a = .scratch ∧ off < t.scratch then
            0xFF10000000000000 + t.cores.getD (off / 4096 % t.cores.length) 0 % 96 * 2 ^ 23 +
              (t.base.getD (off / 4096 % t.cores.length) 0 + off / 4096 / t.cores.length * 4096 + off % 4096) % 2 ^ 23
          else none64
        | none => none64, 0))) ∧
     (op = 3 → operandsOk q w.c [(.r64, w.sa)] 1 true false = true → exec (.cvta w) s = .next (laneDone (s.portTaken q) g q w.c 1 fun l =>
       ((match apertureOf (val64 q l w.sa).toNat with | .global => 0 | .scratch => 1 | .lateral => 2 | .stack => 3 | .none => 0xFF), 0))))

/-- R108, R200: a word of memory of which some accesses are misaligned traps MISALIGNED, when every access is translated and raises no other
fault: the record names the lanes of those accesses (for a uniform access every held lane) and the first one's address, with bit [8] for a store
and bit [9] for an atomic. It rests on the model's reading in notes/assumptions 16, 30. -/
def Obligations.MisalignedAccessTraps : Prop :=
  ∀ (s : State) (g : Gang) (q : Squad) (a : FA) (w : FM), s.here? = some (g, q) → roleFault q .mem = false →
    s.portBusy g q = false → (q.roam = false ∨ g.pos = 1) →
    let traps (i : Instr) (d : MemDesc) (detail : Word) : Prop :=
      let bad := (accsOf s g q d).filter fun x => x.va % d.n != 0
      d.ok q = true → bad ≠ [] →
      (∀ x ∈ accsOf s g q d, x.spot.home? ≠ none ∧ ∀ f ∈ accFaults d x, f.1 = 0x13) →
      (∀ y ∈ lookAhead s g q d, y.2.2.spot ≠ .miss) →
      ∀ x rest, bad = x :: rest →
        exec i s = .next ((s.portFree g q).takeTrap g 0x13 (if d.uniform then heldLanes d.c g q else lanesMask (bad.map fun y => y.lane))
          (BitVec.ofNat 64 x.va) detail)
    traps (.ld a) (ldDesc a) 0x70 ∧ traps (.lda a) (ldDesc a) 0x70 ∧ traps (.st a) (stDesc a) 0x170 ∧ traps (.stl a) (stDesc a) 0x170 ∧
    traps (.atom w) (atomDesc w) 0x270 ∧ traps (.cas w) (casDesc w) 0x270 ∧ traps (.red w) (redDesc w) 0x370

/-- R39, R201: a word of memory of a squad that is not roaming, all of whose accesses meet pages that are not present, parks their lanes (for a uniform
access every held lane) with a record for each, and has no other effect: their saved PC is the clause, and the lanes whose guard does not hold go on
past the word. It rests on the model's reading in notes/assumptions 20. -/
def Obligations.AbsentPageParks : Prop :=
  ∀ (s : State) (g : Gang) (q : Squad) (a : FA) (w : FM), s.here? = some (g, q) → roleFault q .mem = false → q.roam = false →
    q.lanes.length = 32 → s.portBusy g q = false →
    let parks (i : Instr) (d : MemDesc) : Prop :=
      let accs := accsOf s g q d
      let held := heldLanes d.c g q
      d.ok q = true → accs ≠ [] → (∀ x ∈ accs, x.absent = true ∧ accFaults d x = []) →
      (∀ y ∈ lookAhead s g q d, y.2.2.spot ≠ .miss ∧ y.2.2.absent = false) →
      Does i s fun t => SameMem t s ∧ SameRegs t s ∧ t.ents = s.ents ∧ t.reqs = s.reqs ∧
        (g.lanes &&& ~~~held = 0 → t.gang? g.id = none) ∧
        (g.lanes &&& ~~~held ≠ 0 → ∃ y, t.gang? g.id = some y ∧ y.lanes = g.lanes &&& ~~~held ∧ y.pc = g.past.pc ∧ y.pos = g.past.pos) ∧
        ∃ q', t.squad? q.id = some q' ∧ ∀ x ∈ accs, ∀ l ∈ (if d.uniform then lanesOf held else [x.lane]),
          (q'.lane l).st = .parked ∧ (q'.lane l).pc = g.pc ∧ (q'.lane l).frec.code = 0x10 ∧
          (q'.lane l).frec.lanes = lanesMask [l] ∧ (q'.lane l).frec.addr = BitVec.ofNat 64 x.va
    parks (.ld a) (ldDesc a) ∧ parks (.lda a) (ldDesc a) ∧ parks (.st a) (stDesc a) ∧ parks (.stl a) (stDesc a) ∧
    parks (.atom w) (atomDesc w) ∧ parks (.cas w) (casDesc w) ∧ parks (.red w) (redDesc w)

/-! ## SYNC -/

/-- R271, R272: SWINIT, SWARM, SWADD and RPUT complete when their word or block is found (the last two after their rel fence at die
scope): the gang goes on, its update is on its way to the home of its object, and no byte of memory and no register changes yet. -/
def Obligations.SyncUpdatesSent : Prop :=
  ∀ (s : State) (g : Gang) (q : Squad) (w : FM) (f : FI), s.here? = some (g, q) →
    let sends (i : Instr) (va n : Nat) (kind : UpdKind) : Prop :=
      ∀ home, syncObj s q va n n = .ok home →
        Does i s fun t => SameMem t s ∧ SameRegs t s ∧ Passed t g ∧ ∃ u, t.upds = s.upds ++ [u] ∧ u.kind = kind ∧ u.home = home ∧
          u.core = q.core ∧ u.team = q.team ∧ u.launch = q.launch ∧ u.op = none ∧ u.held = none
    let released (held : Lanes) : Prop := g.fenced = true ∨ s.fenceReady q held 1 4 = true
    let at0 (held : Lanes) (x : Src) : Nat := (val64 q (lowest held) x).toNat
    let h := heldLanes w.c g q
    ((guardFieldOk q w.c && srcOk q true .uni64 w.sa && targetOk q w.sb) = true → h ≠ 0 →
      sends (.swinit w) (at0 h w.sa) 16 (.init ((val64 q 0 w.sb).setWidth 40) (w.mod.getLsbD 0) (w.mod.getLsbD 1)) ∧
      sends (.swarm w) (at0 h w.sa) 16 (.arm ((val64 q 0 w.sb).setWidth 40) (w.mod.getLsbD 0))) ∧
    ((guardFieldOk q f.c && srcOk q true .uni64 f.sa) = true → heldLanes f.c g q ≠ 0 → released (heldLanes f.c g q) →
      sends (.swadd f) (at0 (heldLanes f.c g q) f.sa) 16 (.add f.imm.toNat)) ∧
    ((guardFieldOk q w.c && srcOk q true .uni64 w.sa && srcOk q true .r32 w.sb) = true → h ≠ 0 → released h →
      sends (.rput w) (at0 h w.sa) 256 (.flip ((val32 q (lowest h) w.sb).toNat % 1024)))

/-- R261, R272, R437: evaluate takes one pass of its loop while TARGET is not 0 and COUNT has reached it, and then leaves the word; add raises
COUNT, which saturates at 2^40 − 1 and then sets OVER, and evaluates. An update of a word is performed at its home as one read-modify-write of its 16 bytes, and an RPUT as one flip of
its phase bit: SYNC_WORD_UPDATE performs the oldest of its word, HELD_UPDATE_RETRY a held one that may be tried again. Every other byte
stays, when no posted write goes home before it. A word with a double-bit error (R435) is not among these states. It rests on the model's reading in notes/assumptions 15. -/
def Obligations.SyncUpdatesPerformed : Prop :=
  (∀ (w n : Nat), w < 2 ^ 128 →
    ((swTarget w = 0 ∨ swCount w < swTarget w) → swEvaluate w = w) ∧
    (swTarget w ≠ 0 → swTarget w ≤ swCount w → swEvaluate w = swEvaluate (evalOnce w)) ∧
    ∃ x, swAdd w n = swEvaluate x ∧ swTarget x = swTarget w ∧ swOneshot x = swOneshot w ∧ swRows x = swRows w ∧ swGen x = swGen w ∧
      swCount x = (if 2 ^ 40 - 1 < swCount w + n then 2 ^ 40 - 1 else swCount w + n) ∧
      bitOf x 82 = (bitOf w 82 || decide (2 ^ 40 - 1 < swCount w + n))) ∧
  ∀ (s : State) (u : Upd) (home : Nat) (i : Instr), s.upds.find? (fun x => x.id == u.id) = some u → s.olderUpd u = false →
    s.updHome u = .ok (some home) → (u.kind.isWrite = false → s.eccPieces [(home, u.kind.span)] = none) →
    ((i = .syncWordUpdate u.id ∧ u.held = none) ∨ (i = .heldUpdateRetry u.id ∧ u.held ≠ none ∧ u.retry = true)) →
    let w := s.mem.readN home 16
    Does i s fun t => (∀ x ∈ t.upds, x.id ≠ u.id) ∧ (s.watched = [] →
      (∀ e ∈ s.ents, e.athome = false → e.overlaps home u.kind.span = false ∧ (u.op ≠ none → e.op ≠ u.op)) →
      (∀ n, u.kind = .add n → t.mem = s.mem.writeN home 16 (swAdd w n)) ∧
      (∀ x o r, u.kind = .init x o r → t.mem = s.mem.writeN home 16 (swPut w x.toNat 0 o r false 0)) ∧
      (∀ x o, u.kind = .arm x o → t.mem = s.mem.writeN home 16 (swEvaluate (swPut w x.toNat (swCount w) o (swRows w) false (swGen w)))) ∧
      (∀ n b, u.kind = .arrive n b → t.mem = s.mem.writeN home 16 (swAdd w (if swRows w then n else b))) ∧
      (∀ k, u.kind = .flip k →
        let k := k % ringSlots (s.mem.readN home 2)
        let a := home + 64 + k / 8
        t.mem = s.mem.write a (s.mem.read a ^^^ BitVec.ofNat 8 (2 ^ (k % 8)))) ∧
      (∀ n, n ≠ 0 → u.kind = .armTasks n → t.mem = s.mem.writeN home 16 (swEvaluate (swPut w n (swCount w) (swOneshot w) (swRows w) false (swGen w)))) ∧
      ∀ bs, u.kind = .write bs → t.mem = s.mem.writeBytes home bs)

/-- R266, R268, R272: SWWAIT on a word whose GEN differs from its operand, and RGET on a slot in the expected phase, complete at once, when
no write of their threads to the object is on its way and no word of memory is in error (R435); otherwise they wait. A waiter that a change has released completes with what
released it: the new GEN, or the address of the slot. It rests on the model's reading in notes/assumptions 11. -/
def Obligations.SyncWaits : Prop :=
  ∀ (s : State) (g : Gang) (q : Squad) (w : FM), s.here? = some (g, q) →
    let l := lowest (heldLanes w.c g q)
    let va := (val64 q l w.sa).toNat
    let sel := val32 q l w.sb
    let ok := guardFieldOk q w.c && srcOk q true .uni64 w.sa && srcOk q true .r32 w.sb
    let settled (home n : Nat) : Prop := (∀ k ∈ lanesOf (heldLanes w.c g q), s.writePending q k home n = false) ∧
      (∀ e ∈ s.ents, e.overlaps home n = false) ∧ ∀ h, s.eccDouble h 16 = none ∧ s.eccDouble h 1 = none
    (∀ home, (ok && dstOk q w.c 1 true false) = true → heldLanes w.c g q ≠ 0 → syncObj s q va 16 16 = .ok home → settled home 16 →
      swEvaluate (s.mem.readN home 16) = s.mem.readN home 16 →
      let gen := swGen (s.mem.readN home 16)
      (gen ≠ sel.toNat → Does (.swwait w) s fun t => SameMem t s ∧ Passed t g ∧ Wrote t g q w.c 1 fun _ => gen) ∧
      (gen = sel.toNat → Does (.swwait w) s fun t => SameMem t s ∧ SameRegs t s ∧ ∃ y, t.gang? g.id = some y ∧ y.pc = g.pc ∧
        y.pos = g.pos ∧ y.wait = .sync home (BitVec.ofNat 64 va) sel none)) ∧
    (∀ home, (ok && dstOk q w.c 2 true false) = true → heldLanes w.c g q ≠ 0 → syncObj s q va 256 256 = .ok home → settled home 256 →
      let i := sel.toNat % 1024 % ringSlots (s.mem.readN home 2)
      let slot := slotOf s.mem home i
      (ringPhase s.mem home i = sel.getLsbD 16 → Does (.rget w) s fun t => SameMem t s ∧ Passed t g ∧ Wrote t g q w.c 2 fun _ => slot) ∧
      (ringPhase s.mem home i ≠ sel.getLsbD 16 → Does (.rget w) s fun t => SameMem t s ∧ SameRegs t s ∧ ∃ y, t.gang? g.id = some y ∧
        y.pc = g.pc ∧ y.pos = g.pos ∧ y.wait = .ring home (BitVec.ofNat 64 va) i (sel.getLsbD 16) sel false)) ∧
    (∀ h a b v, g.wait = .sync h a b (some v) → Does .syncWaiterRelease s fun t => SameMem t s ∧
      Passed t { g with ready := s.now } ∧ Wrote t g q (Common.ofWord g.word) 1 fun _ => v.toNat) ∧
    (∀ h a i p x, g.wait = .ring h a i p x true → Does .ringWaiterRelease s fun t => SameMem t s ∧
      Passed t { g with ready := s.now } ∧ Wrote t g q (Common.ofWord g.word) 2 fun _ => slotOf s.mem h i)

/-- R264, R265, R273: BAR and BARARV complete once their rel fence at team scope is: their lanes' arrivals are on their way, and BAR waits;
BARRIER_ARRIVAL counts them one by one, opening a round that is not open, with its count as EXPECT or, of 0, ALL, the team's threads that
live; the arrival that reaches it closes the round, for every gang that waits in it, and the next opens another; the BAR that made them
waits for the round that is still open; BARRIER_RELEASE ends the wait of a gang all of whose rounds have closed. It rests on the model's
reading in notes/assumptions 23. -/
def Obligations.NamedBarriers : Prop :=
  (∀ (s : State) (g : Gang) (q : Squad) (w : FM), s.here? = some (g, q) → guardFieldOk q w.c = true → barOk q w.sa w.sb = true →
    let held := heldLanes w.c g q
    let b := (val32 q (lowest held) w.sa).toNat
    let n := (val32 q (lowest held) w.sb).toNat
    held ≠ 0 → b ≤ 15 → n ≤ 6144 → (g.fenced = true ∨ s.fenceReady q held 1 2 = true) →
    let sent (t : State) (waits : Bool) : Prop := SameMem t s ∧ SameRegs t s ∧ ∃ a, t.arrs = s.arrs ++ [a] ∧ a.team = q.team ∧ a.b = b ∧
      a.n = n ∧ a.lanes = held ∧ a.waits = waits ∧ a.gang = g.id
    Does (.bararv w) s (fun t => sent t false ∧ Passed t g) ∧
    Does (.bar w) s (fun t => sent t true ∧ ∃ y, t.gang? g.id = some y ∧ y.pc = g.pc ∧ y.pos = g.pos ∧ y.wait = .barrier b [] true)) ∧
  (∀ (s : State) (a : BarArr) (e : Team), s.arrs.find? (fun x => x.id == a.id) = some a → s.team? a.team = some e → a.b < 16 → a.lanes ≠ 0 →
    let x := e.bar a.b
    let expect := if a.n = 0 then none else some a.n
    let n := if a.n = 0 then s.teamLive a.team else a.n
    let before := if x.isOpen then x.arrived else 0
    let m := before + (lanesOf a.lanes).length
    let now := x.round + m / n
    (x.isOpen = false ∨ x.expect = expect) → before < n →
    Does (.barrierArrival a.id) s fun t => SameMem t s ∧ SameRegs t s ∧ (∀ y ∈ t.arrs, y.id ≠ a.id) ∧
      (∃ e', t.team? a.team = some e' ∧ e'.bar a.b =
        if m % n = 0 then { round := now } else { expect := expect, arrived := m % n, isOpen := true, round := now }) ∧
      (∀ g ∈ t.gangs, ∀ q, s.squad? g.squad = some q → q.team = a.team → q.roam = false → g.id ≠ a.gang →
        ∀ rs p, g.wait = .barrier a.b rs p → ∀ r, x.round ≤ r → r < now → r ∉ rs) ∧
      (a.waits = true → ∀ g ∈ s.gangs, g.id = a.gang → g.wait = .barrier a.b [] true → ∃ y ∈ t.gangs, y.id = g.id ∧
        ∃ rs, y.wait = .barrier a.b rs false ∧ (rs = [] ↔ m % n = 0) ∧ ∀ r ∈ rs, r = now)) ∧
  (∀ (s : State) (g : Gang) (q : Squad) (b : Nat), s.here? = some (g, q) → g.wait = .barrier b [] false →
    Does .barrierRelease s fun t => SameMem t s ∧ SameRegs t s ∧ Passed t { g with ready := s.now })

/-- R269, R270, R316, R333, R346: WAITE completes while at most n operations of its class are outstanding, and else waits until
COUNTER_WAIT_RELEASE. Either way the flags of the retired operations of its class, which their retirement has gathered, then join %fflags of every
lane of the squad that exists and has not exited, and are gathered anew; an engine fault held with a retired operation of the class is delivered.
OPERATION_RETIRE gathers the flags of an operation, which no lane has before. CNTRD writes the count of its class. A roaming thread has no
counters. It rests on the model's reading in notes/assumptions 19. -/
def Obligations.CounterWaits : Prop :=
  ∀ (s : State) (g : Gang) (q : Squad) (w : FM), s.here? = some (g, q) →
    let c := classOf (w.mod.extractLsb' 0 3).toNat
    let n := val32 q (lowest (heldLanes w.c g q)) w.sa
    let merged (t : State) (k : CounterClass) : Prop := ∃ q', t.squad? q.id = some q' ∧ q'.u = q.u ∧ q'.acc = q.acc ∧
      q'.mxFlags = (if k = .mx then 0 else q.mxFlags) ∧ q'.rwFlags = (if k = .rw then 0 else q.rwFlags) ∧
      q'.sgFlags = (if k = .sg then 0 else q.sgFlags) ∧
      let f : Flags := match k with | .mx => q.mxFlags | .rw => q.rwFlags | .sg => q.sgFlags | _ => 0
      ∀ l, l < 32 → (q'.lane l).v = (q.lane l).v ∧ (q'.lane l).p = (q.lane l).p ∧
        (q'.lane l).ff = (if (q.lane l).st = .absent ∨ (q.lane l).st = .exited then (q.lane l).ff else (q.lane l).ff ||| f)
    ((guardFieldOk q w.c && srcOk q true .r32 w.sa) = true → heldLanes w.c g q ≠ 0 →
      (q.roam = true → Does (.waite w) s fun t => SameMem t s ∧ SameRegs t s ∧ Passed t g) ∧
      (q.roam = false → q.cnt.get c ≤ n.toNat → (∀ h ∈ q.held, h.1 ≠ c) →
        Does (.waite w) s fun t => SameMem t s ∧ Passed t g ∧ merged t c) ∧
      (q.roam = false → n.toNat < q.cnt.get c → Does (.waite w) s fun t => SameMem t s ∧ SameRegs t s ∧ ∃ y, t.gang? g.id = some y ∧
        y.pc = g.pc ∧ y.pos = g.pos ∧ y.wait = .counter c n)) ∧
    ((guardFieldOk q w.c && destNamed w.c && dstOk q w.c 1 true false) = true → heldLanes w.c g q ≠ 0 →
      Does (.cntrd w) s fun t => SameMem t s ∧ Passed t g ∧ Wrote t g q w.c 1 fun _ => if q.roam then 0 else q.cnt.get c) ∧
    (∀ k m, g.wait = .counter k m → q.cnt.get k ≤ m.toNat → q.saving = none →
      ((∀ h ∈ q.held, h.1 ≠ k) → Does .counterWaitRelease s fun t => SameMem t s ∧ Passed t { g with ready := s.now } ∧ merged t k) ∧
      (∀ f, q.held.find? (fun h => h.1 == k) = some f → f.2.code ≠ cPermission → g.handler = false →
        ∀ x, s.launch? q.launch = some x → x.r.trapv ≠ 0 → Does .counterWaitRelease s fun t => SameMem t s ∧
          ∃ y, t.gang? g.id = some y ∧ y.pc = x.r.trapv ∧ y.handler = true ∧ y.trap.frec = f.2)) ∧
    (∀ k o, k ∈ [CounterClass.mx, .rw, .sg] → s.ops.find? (fun o => o.squad == q.id && o.cls == k) = some o → o.done = true → o.upds = 0 →
      o.fault = none → s.squad? q.id = some q →
      Does (.operationRetire q.id k) s fun t => SameMem t s ∧ ∃ q', t.squad? q.id = some q' ∧ q'.cnt.get k = q.cnt.get k - 1 ∧
        q'.mxFlags = (if k = .mx then q.mxFlags ||| o.flags else q.mxFlags) ∧
        q'.rwFlags = (if k = .rw then q.rwFlags ||| o.flags else q.rwFlags) ∧
        q'.sgFlags = (if k = .sg then q.sgFlags ||| o.flags else q.sgFlags) ∧ q'.lanes.map laneFile = q.lanes.map laneFile)

/-! ## MIG -/

/-- R252, R255: MIGR completes in the lanes that are at the home of their address and sends the others on their way to it, each with the
clause as its PC; PIN sets or clears the pin flag of the lanes whose guard holds. Both are for roaming threads; a resident one raises
ILLEGAL_OPERAND. It rests on the model's reading in notes/assumptions 21. -/
def Obligations.MigrationAndPin : Prop :=
  ∀ (s : State) (g : Gang) (q : Squad) (w : FM) (a : FA), s.here? = some (g, q) → roleFault q .mig = false →
    (q.roam = false → exec (.migr a) s = .next (s.takeTrap g cIllegalOperand g.lanes 0 g.word) ∧
      exec (.pin w) s = .next (s.takeTrap g cIllegalOperand g.lanes 0 g.word)) ∧
    (q.roam = true → q.lanes.length = 32 → guardFieldOk q w.c = true → Does (.pin w) s fun t => SameMem t s ∧ SameRegs t s ∧ Passed t g ∧
      ∃ q', t.squad? q.id = some q' ∧ ∀ l, l < 32 →
        (q'.lane l).pin = if (heldLanes w.c g q).getLsbD l then !w.mod.getLsbD 0 else (q.lane l).pin) ∧
    ((migrDesc a).ok q = true → g.pos = 1 →
      (Settled s g q (migrDesc a) migrGoes → Does (.migr a) s fun t => SameMem t s ∧ SameRegs t s ∧ Passed t g) ∧
      (q.lanes.length = 32 → accsOf s g q (migrDesc a) ≠ [] → (∀ x ∈ accsOf s g q (migrDesc a), x.spot.home? ≠ none ∧ migrGoes g q x ≠ none) →
        Does (.migr a) s fun t => SameMem t s ∧ SameRegs t s ∧ ∃ q', t.squad? q.id = some q' ∧
          ∀ x ∈ accsOf s g q (migrDesc a), ∀ core chip, migrGoes g q x = some (core, chip) →
            (q'.lane x.lane).st = .departing core chip none ∧ (q'.lane x.lane).pc = g.pc ∧
            ∀ y ∈ t.gangs, y.id = g.id → y.lanes.getLsbD x.lane = false))

/-- R254: RATOM completes at any place of its clause and where the word stands, in a roaming thread too, once an ordering with release is
satisfied: no lane migrates. In vaults it is performed at once and each lane's register (for a uniform destination the uniform register)
holds what stood there; elsewhere a request is on its way, and memory and registers stay. It rests on the model's reading in
notes/assumptions 11. -/
def Obligations.RemoteAtomic : Prop :=
  ∀ (s : State) (g : Gang) (q : Squad) (w : FM), s.here? = some (g, q) → q.lanes.length = 32 → roleFault q .mig = false →
    let d := atomDesc w
    let accs := accsOf s g q d
    let k := w.c.dn.toNat
    let ty := (w.mod.extractLsb' 4 3).toNat
    let b (l : Nat) : Nat :=
      if ty = 2 then valFloat .f32 q l w.sb else if ty = 3 ∨ ty = 4 then (val64 q l w.sb).toNat else (val32 q l w.sb).toNat
    let new (l old : Nat) : Option Nat := some (atomNew (w.mod.extractLsb' 0 4).toNat ty old (b l)).1
    d.ok q = true → Settled s g q d (fun _ _ _ => none) → s.portBusy g q = false →
    (∀ x ∈ accs, ∀ h c, x.spot = .vault h c → s.eccDouble h d.n = none) →
    (w.mod.getLsbD 11 = false ∨ g.fenced = true ∨ s.fenceReady q (heldLanes w.c g q) 1 (w.mod.extractLsb' 7 3).toNat = true) →
    Does (.ratom w) s fun t => PastWord t g ∧ ∃ q', t.squad? q.id = some q' ∧
      (AllVault accs → Unwatched s → (∀ x ∈ accs, ∀ e ∈ s.ents, e.overlaps (x.spot.home?.getD 0) d.n = false) →
        t.mem = (rmwRun d.n new s.mem (homesOf accs)).1 ∧
        ∀ y ∈ (rmwRun d.n new s.mem (homesOf accs)).2,
          (w.c.dk = .vec → w.c.nw = false → regGetN (q'.lane y.1).v k (d.n / 4) = y.2) ∧
          (w.c.dk = .uni → w.c.nw = false → regGetN q'.u k (d.n / 4) = y.2)) ∧
      ((∀ x ∈ accs, ∃ e h, x.spot = .page e h) → SameMem t s ∧ SameRegs t s ∧ ∀ x ∈ accs, ∃ r ∈ t.reqs, r.isAtomic = true ∧
        r.squad = q.id ∧ r.gang = g.id ∧ ∃ p ∈ r.pieces, p.lane = x.lane ∧ p.home = x.spot.home?.getD 0 ∧ p.n = d.n)

/-- R253, R256, R257: HOME and AQSTAT complete with their descriptions, HOME once its addresses are translated; SPAWN creates one thread of
the launch for each lane whose guard holds (for a uniform destination one) while the reserve lasts: status 0 and a leaf of kind 2 with the
lane's clause and work identifier, or status 1. It rests on the model's reading in notes/assumptions 21, 22, 66. -/
def Obligations.HomesAndSpawn : Prop :=
  ∀ (s : State) (g : Gang) (q : Squad) (w : FM), s.here? = some (g, q) → roleFault q .mig = false →
    let held := if w.c.dk = .uni then (lanesOf (heldLanes w.c g q)).take 1 else lanesOf (heldLanes w.c g q)
    let reg (x : Src) : Bool := match x with | .vec _ => true | .uni _ => true | _ => false
    ((destNamed w.c && operandsOk q w.c [(.r64, w.sa)] 1 true false && reg w.sa) = true →
      (∀ l ∈ held, apertureOf (val64 q l w.sa).toNat = .global → pageSpot s g q (val64 q l w.sa).toNat ≠ .miss) →
      exec (.home w) s = .next (laneDone s g q w.c 1 fun l =>
        let a := (val64 q l w.sa).toNat
        let at0 (core chip : Nat) (wr host : Bool) : Nat :=
          (if host then 2 ^ 20 else (s.fnOf q.launch).virtCore core + 2 ^ 9 * ((chip + (s.spaceOf q.launch).2.chip) % 1024)) +
          (if wr then 2 ^ 19 else 0) + (if host = false ∧ core = q.core ∧ chip = 0 then 2 ^ 21 else 0)
        let vault := dieOf q.core * 96 + (a - latBase) / 2 ^ 23
        ((match apertureOf a, pageSpot s g q a with
          | .global, .page e h => at0 (homeCore h) (homeChip h) e.w (homeIsHost h)
          | .lateral, _ => if (s.fnOf q.launch).owns vault then at0 vault 0 true false else 0xFFFFFFFF
          | _, _ => 0xFFFFFFFF), 0))) ∧
    ((destNamed w.c && operandsOk q w.c [(.r32, w.sa)] 1 true false) = true →
      exec (.aqstat w) s = .next (laneDone s g q w.c 1 fun l =>
        (match (s.fnOf q.launch).physCore (val32 q l w.sa).toNat with
         | none => 0xFFFFFFFF
         | some core =>
           let d := s.die (dieOf q.core)
           match (w.mod.extractLsb' 0 2).toNat with
           | 0 => if core = q.core then (s.core core).inbound.length else Assoc.get 0 d.poolQ core
           | 1 => if core = q.core then s.ringOcc core else Assoc.get 0 d.pool core
           | 2 => 3072 - (if core = q.core then s.slotsUsed core else Assoc.get 0 d.poolS core)
           | _ => if core = q.core then s.openBins core else Assoc.get 0 d.poolB core, 0))) ∧
    (∀ x, q.roam = true → s.launch? q.launch = some x → (operandsOk q w.c [(.r64, w.sa), (.r64, w.sb)] 1 true false && reg w.sa && reg w.sb) = true →
      (∀ l ∈ held, (val64 q l w.sa).toNat % 8 = 0 ∧ apertureOf (val64 q l w.sa).toNat = .global) →
      Does (.spawn w) s fun t => SameMem t s ∧ Passed t g ∧
        let k := min held.length (x.demand - x.live)
        Wrote t g q w.c 1 (fun l => if held.idxOf l < k then 0 else 1) ∧
        (t.launch? q.launch).map (·.live) = some (x.live + k) ∧ ∃ fs, t.flights = s.flights ++ fs ∧
          fs.map (fun f => (f.leaf.kind, f.leaf.pc, f.leaf.wid, f.leaf.pin, f.leaf.hops, f.leaf.dcore, f.leaf.launch)) =
            (held.take k).map fun l => (2, val64 q l w.sa, val64 q l w.sb, false, 0, q.core, q.launch))

/-! ## Engines: issue -/

/-- R284, R285, R322, R332, R337, R345: every COPY, ROW and SIG instruction that is legal enters its engine's queue, with its operands as
they stand at issue, and its gang goes on; when the queue is full the gang waits at its word and nothing else happens. A ROW or SIG
instruction needs the whole squad. It rests on the model's reading in notes/assumptions 19. -/
def Obligations.CopyRowAndSignatureIssue : Prop :=
  ∀ (s : State) (g : Gang) (q : Squad) (w : FM), s.here? = some (g, q) → q.roam = false →
    let held := heldLanes w.c g q
    let a := val64 q 0 w.sa
    let b := val64 q 0 w.sb
    let full (i : Instr) : Prop := Does i s fun t => SameMem t s ∧ SameRegs t s ∧ t.ops = s.ops ∧ Waits t g .queue
    let copies : List Instr := [.tload w, .tstore w, .tgather w, .tscatter w, .twalk w, .tfill w, .tmove w]
    ((guardFieldOk q w.c && srcOk q true .uni64 w.sa) = true → roleFault q .copy = false → held ≠ 0 → q.cnt.cp < 65535 →
      ∀ i, (i = .tsub w ∨ (i ∈ copies ∧ copySbOk q w.sb = true)) →
        (s.queueOcc q.core .cp 0 < 64 → Does i s fun t => Enters t s g q .cp i a b [] held ∧ SameRegs t s ∧ Passed t g) ∧
        (64 ≤ s.queueOcc q.core .cp 0 → full i)) ∧
    (srcOk q true .uni64 w.sa = true → roleFault q .row = false → missingLanes g q = 0 → q.cnt.rw < 65535 →
      ∀ i ∈ [Instr.topk w, .topkm w, .pbound w],
        (s.queueOcc q.core .rw 0 < 32 → Does i s fun t => Enters t s g q .rw i a 0 [] q.existing ∧ SameRegs t s ∧ Passed t g) ∧
        (32 ≤ s.queueOcc q.core .rw 0 → full i)) ∧
    ((w.c.dk == .vec && dstOk q w.c 2 false false && decide (mtxAcc w < q.accs) &&
        (rstatOp w.mod != 3 || match w.sa with | .vec n => runOk n.toNat 2 (vecLimit q) | _ => false)) = true →
      roleFault q .row = false → missingLanes g q = 0 → q.cnt.rw < 65535 → s.queueOcc q.core .rw 0 < 32 → (∀ o ∈ s.ops, o.id < s.nextId) →
      Does (.rstat w) s fun t => Enters t s g q .rw (.rstat w) 0 0 [] q.existing ∧ SameRegs t s ∧ PastWord t g ∧
        (rstatOp w.mod = 3 → ∃ o ∈ t.ops, o.id = s.nextId ∧ o.idx = (List.range 32).map fun l => val64 q l w.sa)) ∧
    (srcOk q true .uni64 w.sa = true → roleFault q .sig = false → missingLanes g q = 0 → q.cnt.sg < 65535 →
      ∀ i ∈ [Instr.sign w, .srep w, .sgsum w, .sbkt w],
        (s.queueOcc q.core .sg 0 < 32 → Does i s fun t => Enters t s g q .sg i a 0 [] q.existing ∧ SameRegs t s ∧ Passed t g) ∧
        (32 ≤ s.queueOcc q.core .sg 0 → full i))

/-- R299, R303, R306, R307, R314, R315, R227: an MTX instruction that is legal enters the queue of its engine with copies of its descriptors
as they stand at issue, and then advances those that its INC bits name; ACRD carries its row, OPMAP writes or reads a descriptor. In a
gang without its whole squad it raises ILLEGAL_CONVERGENCE. It rests on the model's reading in notes/assumptions 19. -/
def Obligations.MatrixIssue : Prop :=
  ∀ (s : State) (g : Gang) (q : Squad) (w : FM), s.here? = some (g, q) → q.roam = false → roleFault q .mtx = false →
    let tile (x : Src) : Bool := srcOk q false .tile x
    let na := srcNum w.sa
    let nb := srcNum w.sb
    let room := missingLanes g q = 0 ∧ q.cnt.mx < 65535 ∧ s.queueOcc q.core .mx (engineOf q.part) < 32
    let inc (k n : Nat) (z : Squad) : Squad := if w.mod.getLsbD k then z.setDesc n (z.desc n).advance else z
    let does (i : Instr) (td : List Nat) (after : Squad → Squad) : Prop :=
      Does i s fun t => Enters t s g q .mx i 0 0 (td.map q.desc) q.existing ∧ Passed t g ∧
        ∃ q', t.squad? q.id = some q' ∧ squadFile q' = squadFile (after q)
    (room → mtxAcc w < q.accs →
      does (.acz w) [] id ∧
      (tile w.sa = true → does (.acld w) [na] (inc 9 na) ∧ does (.acst w) [na] (inc 9 na)) ∧
      ((tile w.sa && tile w.sb) = true → does (.mma w) [na, nb] (fun z => inc 10 nb (inc 9 na z)) ∧
        (mtxAux w < q.tiles → ∀ i ∈ [Instr.mmag w, .mmas w, .mmad w],
          does i [na, nb, mtxAux w] fun z => inc 11 (mtxAux w) (inc 10 nb (inc 9 na z)))) ∧
      (((w.c.dk == .vec || w.c.dk == .none) && dstOk q w.c 2 false false &&
          match w.sa with | .uni n => runOk n.toNat 1 (uniLimit q) | .imm _ => true | _ => false) = true →
        Does (.acrd w) s fun t => Enters t s g q .mx (.acrd w) ((val32 q 0 w.sa).setWidth 64) 0 [] g.lanes ∧ SameRegs t s ∧ PastWord t g)) ∧
    (tile w.sa = true → missingLanes g q = 0 →
      (∀ n, w.mod.getLsbD 0 = false → w.sb = .uni n → runOk n.toNat 4 (uniLimit q) = true → Does (.opmap w) s fun t =>
        SameMem t s ∧ Passed t g ∧ ∃ q', t.squad? q.id = some q' ∧ q'.desc na = BitVec.ofNat 128 (regGetN q.ufile n.toNat 4) ∧ q'.u = q.u ∧
          (∀ k, k ≠ na → q'.desc k = q.desc k) ∧ q'.lanes = q.lanes) ∧
      (w.mod.getLsbD 0 = true → w.c.dk = .uni → runOk w.c.dn.toNat 4 (uniLimit q) = true → Does (.opmap w) s fun t =>
        SameMem t s ∧ Passed t g ∧ ∃ q', t.squad? q.id = some q' ∧ regGetN q'.u w.c.dn.toNat 4 = (q.desc na).toNat ∧ q'.td = q.td ∧
          (∀ r, (r < w.c.dn.toNat ∨ w.c.dn.toNat + 4 ≤ r) → regGet q'.u r = regGet q.u r) ∧ q'.lanes = q.lanes)) ∧
    (missingLanes g q ≠ 0 → mtxAcc w < q.accs → exec (.acz w) s = .next (s.takeTrap g cIllegalConvergence g.lanes 0 g.word))

/-- R302, R304, R308 to R312: the values of matrix products. An integer element is the prior value plus the sum of its products modulo 2^32; a
floating one adds its groups of 16 or 8 products in ascending k, each an exact sum rounded once, with the zeros, infinities and NaNs stated; MMA
takes the row of A and the row of B, MMAG the rows that its list gathers into the rows that it scatters to, MMAS the row that the metadata
decompress with two B tiles in sequence, and MMAD the representative of each member. -/
def Obligations.MatrixValues : Prop :=
  (∀ (ta tb : Nat) (d : W32) (a b : List Nat), ta ∈ [4, 5] → tb ∈ [4, 5] → a.length = b.length → (∀ x ∈ a ++ b, x < 256) →
    let int (ty x : Nat) : Int := if ty = 4 ∧ 128 ≤ x then (x : Int) - 256 else x
    productElem ta tb d a b =
      (BitVec.ofInt 32 (d.toNat + ((List.range a.length).map fun k => int ta (a.getD k 0) * int tb (b.getD k 0)).sum), 0)) ∧
  (∀ (f h : Fmt) (a b : List Nat), a.length = b.length → a ≠ [] →
    (∀ i, i < a.length → a.getD i 0 < 2 * signBit f ∧ b.getD i 0 < 2 * signBit h) →
    let n := a.length
    let x (i : Nat) : Nat := a.getD i 0
    let y (i : Nat) : Nat := b.getD i 0
    let r := groupSum (a.map (fvOf f)) (b.map (fvOf h))
    let sum : Rat := ((List.range n).map fun i => codeValue f (x i) * codeValue h (y i)).sum
    let minus (i : Nat) : Bool := codeNeg f (x i) != codeNeg h (y i)
    let inf (k : Fmt) (c : Nat) : Prop := k ≠ .e4m3 ∧ c % signBit k = maxFinite k + 1
    let infinite (i : Nat) : Prop := inf f (x i) ∨ inf h (y i)
    let bad (i : Nat) : Prop := nanCode f (x i) = true ∨ nanCode h (y i) = true ∨ (inf f (x i) ∧ y i % signBit h = 0) ∨ (x i % signBit f = 0 ∧ inf h (y i))
    ((∀ i, i < n → FiniteCode f (x i) ∧ FiniteCode h (y i)) →
      (sum ≠ 0 → Rounded .f32 .rn sum (r.1.toNat, r.2)) ∧
      (sum = 0 → (∀ i, i < n → codeValue f (x i) * codeValue h (y i) = 0 ∧ minus i = true) → r = (0x80000000, 0)) ∧
      (sum = 0 → (∃ i, i < n ∧ (codeValue f (x i) * codeValue h (y i) ≠ 0 ∨ minus i = false)) → r = (0, 0))) ∧
    ((∃ i, i < n ∧ bad i) ∨ (∃ i j, i < n ∧ j < n ∧ infinite i ∧ infinite j ∧ minus i = true ∧ minus j = false) → r = (0x7FC00000, 16)) ∧
    ∀ neg, (∀ i, i < n → ¬bad i) → (∃ i, i < n ∧ infinite i) → (∀ i, i < n → infinite i → minus i = neg) →
      r = (BitVec.ofNat 32 (infCode .f32 neg), 0)) ∧
  (∀ (ta tb : Nat) (d : W32) (a a' b b' : List Nat), ta ≤ 3 → tb ≤ 3 →
    let fmt (ty : Nat) : Fmt := if ty = 0 then .e4m3 else if ty = 1 then .e5m2 else if ty = 2 then .bf16 else .f16
    let g := if ta ≤ 1 then 16 else 8
    let s := groupSum (a.map (fvOf (fmt ta))) (b.map (fvOf (fmt tb)))
    let x := fAdd .f32 .rn d.toNat s.1.toNat
    let z := productElem ta tb (BitVec.ofNat 32 x.1) a' b'
    productElem ta tb d [] [] = (d, 0) ∧
    (a.length = g → b.length = g → a'.length = b'.length → a'.length ≤ 15 * g →
      productElem ta tb d (a ++ a') (b ++ b') = (z.1, s.2 ||| x.2 ||| z.2))) ∧
  (∀ (s : State) (o : EngOp) (va w n : Nat) (rows : List (List Nat)), tileRows s o va w n = .ok rows →
    ∃ ps, tileObj s o 6 false va 8192 = .ok ps ∧ rows.length = 64 ∧ ∀ m j, m < 64 → j < n →
      (rows.getD m []).getD j 0 = (s.view o.core).readN (homeOff ps (canonOff 1 m (j * w))) w) ∧
  ∀ (s : State) (o : EngOp) (q : Squad) (w : FM) (a : Nat),
    let da := o.td.getD 0 0
    let db := o.td.getD 1 0
    let dx := o.td.getD 2 0
    let k := if da.ty = 2 ∨ da.ty = 3 then 64 else 128
    let elem (acc m n : Nat) (row col : List Nat) : W32 := (productElem da.ty db.ty (q.accElem acc m n) row col).1
    let named (x : Nat) (row : List Nat) : Prop := (x = 0xFFFF ∧ row = List.replicate k 0) ∨
      (x ≠ 0xFFFF ∧ ∃ pa, tileObj s o 6 false (da.addr + x / 64 * da.tstride) 8192 = .ok pa ∧
        row = tileRow (s.view o.core) pa (tyWidth da.ty) (x % 64) k)
    (∀ ra rb, tileRows s o da.addr (tyWidth da.ty) k = .ok ra → tileRows s o db.addr (tyWidth db.ty) k = .ok rb →
      ∃ r f, mmaRun s o q a = .ok r ∧ r.put = [(a, f)] ∧ ∀ m n, m < 64 → n < 64 → f m n = elem a m n (ra.getD m []) (rb.getD n [])) ∧
    (∀ r ps rb, mmagRun s o q w a = .ok r → tileObj s o 6 false dx.addr 256 = .ok ps →
      tileRows s o db.addr (tyWidth db.ty) (classK (tyClass db.ty)) = .ok rb →
      let gather (i : Nat) : Nat := fieldAt (readPieces (s.view o.core) ps) (2 * i) 2
      let scatter (i : Nat) : Nat := fieldAt (readPieces (s.view o.core) ps) (128 + 2 * i) 2
      ∃ f, r.put = [(a, f)] ∧
        (∀ i, i < 64 → scatter i ≠ 0xFFFF → ∃ row, named (gather i) row ∧ ∀ n, n < 64 → f (scatter i) n = elem a (scatter i) n row (rb.getD n [])) ∧
        ∀ m n, m < 64 → (∀ i, i < 64 → scatter i ≠ m) → f m n = q.accElem a m n) ∧
    (∀ r ra b0 b1 codes, mmasRun s o q a = .ok r → tileRows s o da.addr (tyWidth da.ty) k = .ok ra →
      tileRows s o db.addr (tyWidth db.ty) k = .ok b0 → tileRows s o (db.addr + 8192) (tyWidth db.ty) k = .ok b1 →
      tileRows s o dx.addr 4 (k / 16) = .ok codes →
      ∃ f, r.put = [(a, f)] ∧ ∀ m, m < 64 → ∃ row : List Nat, row.length = 2 * k ∧
        (∀ g p, g < k / 2 → p < 4 →
          let code := (codes.getD m []).getD (g / 8) 0 / 16 ^ (g % 8) % 16
          row.getD (4 * g + p) 0 = if p = code % 4 then (ra.getD m []).getD (2 * g) 0
            else if p = code / 4 then (ra.getD m []).getD (2 * g + 1) 0 else 0) ∧
        ∀ n, n < 64 → f m n = (productElem da.ty db.ty (elem a m n (row.take k) (b0.getD n [])) (row.drop k) (b1.getD n [])).1) ∧
    ∀ r ps rb, mmadRun s o q w a = .ok r → tileObj s o 6 false dx.addr (256 * dx.ty) = .ok ps →
      tileRows s o db.addr (tyWidth db.ty) (classK (tyClass db.ty)) = .ok rb →
      ∃ f : Nat → Nat → Nat → W32, r.put = (List.range dx.ty).map (fun t => (a + t, f t)) ∧ ∀ t m n, t < dx.ty → m < 64 → n < 64 →
        let x := fieldAt (readPieces (s.view o.core) ps) (4 * (64 * t + m) + 2) 2
        (x = 0xFFFF → f t m n = q.accElem (a + t) m n) ∧
        (x ≠ 0xFFFF → ∃ row, named x row ∧ f t m n = elem (a + t) m n row (rb.getD n []))

/-- R324, R328 to R331, R340 to R344: the values of the row engine and the signature stage. RSTAT folds the columns in ascending order; a selection
ranks its candidates by key, index, list and position, writes the first k and pads the rest; a page's bound adds the greater product of each
dimension, rounded up at every step; a signature bit is the sign of an exact sum; buckets stand in the order of their lowest members, and a
representative is the lowest member, that of the largest norm, or the mean; a gradient sum adds in ascending rows; a bucketed list names the keys
of equal signature. R374 to R376, R393: those of routing and combining: the rank of logits, the weights as quotients of exponentials by their sum,
whose own bound the model's unit keeps (notes/assumptions 2), equal winners' 1/n, the picks of a token, and the sum of a row. -/
def Obligations.EngineValues : Prop :=
  let add (x y : W32) : W32 := BitVec.ofNat 32 (fAdd .f32 .rn x.toNat y.toNat).1
  let fma (x y z : W32) : W32 := BitVec.ofNat 32 (fFma .f32 .rn x.toNat y.toNat z.toNat).1
  let num (f : Fmt) (c : Nat) : Rat := if c % signBit f ≤ maxFinite f then codeValue f c else 0
  (∀ (m : BitVec 12) (mu : W32) (xs : List W32),
    let op := (m.extractLsb' 5 2).toNat
    (op = 1 → m.getLsbD 8 = false → (rowStat m mu xs).1 = xs.foldl add 0) ∧ (op = 1 → m.getLsbD 8 = true → rowStat m mu xs = (xs.sum, 0)) ∧
    (op = 2 → (rowStat m mu xs).1 = xs.foldl (fun y x => fma x x y) 0) ∧
    (op = 3 → (rowStat m mu xs).1 = xs.foldl (fun y x => add y (sfu1 (!m.getLsbD 7) .exp (add x (mu ^^^ 0x80000000))).1) 0) ∧
    (op = 0 → m.getLsbD 8 = true → xs ≠ [] → (rowStat m mu xs).1 ∈ xs ∧ (rowStat m mu xs).2 = 0 ∧ ∀ x ∈ xs, x.toInt ≤ (rowStat m mu xs).1.toInt) ∧
    (op = 0 → m.getLsbD 8 = false → xs ≠ [] → (∀ x ∈ xs, nanCode .f32 x.toNat = true) → (rowStat m mu xs).1 = 0x7FC00000) ∧
    (op = 0 → m.getLsbD 8 = false → (∃ x ∈ xs, nanCode .f32 x.toNat = false) → (rowStat m mu xs).1 ∈ xs ∧ nanCode .f32 (rowStat m mu xs).1.toNat = false ∧
      ∀ x ∈ xs, nanCode .f32 x.toNat = false → orderCode .f32 true x.toNat ≤ orderCode .f32 true (rowStat m mu xs).1.toNat)) ∧
  (∀ (ty a b : Nat), ty ≤ 3 →
    let f : Fmt := if ty = 1 then .bf16 else if ty = 3 then .f16 else .f32
    a < 2 * signBit f → b < 2 * signBit f →
    (keyAbove ty a b = true ↔ if ty = 2 then (BitVec.ofNat 32 b).toInt < (BitVec.ofNat 32 a).toInt
      else nanCode f a = false ∧ (nanCode f b = true ∨ orderCode f true b < orderCode f true a))) ∧
  (∀ (ty : Nat) (x y : Cand), x.above ty y = true ↔ keyAbove ty x.key y.key = true ∨ (keyAbove ty y.key x.key = false ∧
    (x.idx < y.idx ∨ (x.idx = y.idx ∧ ((x.second = false ∧ y.second = true) ∨ (x.second = y.second ∧ x.pos < y.pos)))))) ∧
  (∀ (ty : Nat) (l : List Cand), (rankSort ty l).Perm l ∧ (rankSort ty l).Pairwise fun x y => y.above ty x = false) ∧
  (∀ (b : RowBlk) (nz : Bool) (cs : List Cand) (hk hi hn : Nat), b.ty ≤ 2 →
    let f : Fmt := if b.ty = 1 then .bf16 else .f32
    let w := if b.ty = 1 then 2 else 4
    let zero (k : Nat) : Bool := if b.ty = 2 then k == 0 else k % signBit f == 0
    let live := cs.filter fun x => x.idx != 0xFFFFFFFF && !(nz && zero x.key)
    let pad := if b.ty = 0 then 0xFF800000 else if b.ty = 1 then 0xFF80 else 0x80000000
    let out (j : Nat) : Nat × Nat := match (rankSort b.ty live)[j]? with
      | some x => (if b.ty ≠ 2 ∧ nanCode f x.key = true then (if b.ty = 1 then 0x7FC0 else 0x7FC00000) else x.key, x.idx)
      | none => (pad, 0xFFFFFFFF)
    let r := selectOut b nz cs [(hk, w * b.k)] [(hi, 4 * b.k)] [(hn, 4)]
    r.writes = ((List.range b.k).flatMap fun j => [(hk + w * j, toBytes w (out j).1), (hi + 4 * j, toBytes 4 (out j).2)]) ++
      [(hn, toBytes 4 (min b.k live.length))] ∧
    r.flags = if b.ty ≠ 2 ∧ ∃ x ∈ live, snanCode f x.key = true then 16 else 0) ∧
  (∀ (keys idxs : List Nat) (second : Bool) (i : Nat), i < keys.length →
    (candsOf keys idxs second)[i]? = some { key := keys.getD i 0, idx := idxs.getD i i, second := second, pos := i }) ∧
  (∀ (f : Fmt) (q lo hi : List Nat) (x l h : Nat), f ∈ [Fmt.f32, .bf16, .f16] → lo.length = q.length → hi.length = q.length →
    let p := pageBound f q lo hi
    let z := pageBound f (q ++ [x]) (lo ++ [l]) (hi ++ [h])
    let top := max (codeValue f x * codeValue f l) (codeValue f x * codeValue f h)
    pageBound f [] [] [] = (0, 0) ∧
    ((nanCode f x || nanCode f l || nanCode f h) = true → z.1 = 0x7FC00000 ∧ z.2.getLsbD 4 = true) ∧ (nanCode .f32 p.1 = true → z.1 = 0x7FC00000) ∧
    (nanCode .f32 p.1 = false → FiniteCode f x → FiniteCode f l → FiniteCode f h →
      (top = 0 → z = p) ∧
      (top ≠ 0 → ∃ m, Rounded .f32 .ru top m ∧
        let s := fAdd .f32 .ru p.1 m.1
        (nanCode .f32 s.1 = false → z = (s.1, p.2 ||| m.2 ||| s.2)) ∧ (nanCode .f32 s.1 = true → z = (0x7FC00000, p.2 ||| m.2 ||| 16))))) ∧
  (∀ (seed n mask ty : Nat) (row : List Nat), ty ≤ 3 →
    let f : Fmt := if ty = 0 then .e4m3 else if ty = 1 then .e5m2 else if ty = 2 then .bf16 else .f16
    (∀ x ∈ row, x < 2 * signBit f) →
    let sign (j c : Nat) : Rat := if (mix64 (BitVec.ofNat 64 (seed + j * 2 ^ 20 + c))).getLsbD 63 then -1 else 1
    let raw := ((List.range n).map fun j =>
      if 0 < ((List.range row.length).map fun c => sign j c * num f (row.getD c 0)).sum then 2 ^ j else 0).sum
    signRow seed n mask ty row = (if mask = 0 then raw else raw &&& mask, if ∀ x ∈ row, x % signBit f ≤ maxFinite f then 0 else 16)) ∧
  (∀ sigs : List Nat,
    (∀ k ∈ bucketsOf sigs, k.2 = ((List.range sigs.length).filter fun i => sigs.getD i 0 == k.1) ∧ k.2 ≠ []) ∧
    (∀ i, i < sigs.length → ∃ k ∈ bucketsOf sigs, k.1 = sigs.getD i 0) ∧ (bucketsOf sigs).Pairwise fun x y => x.2.headD 0 < y.2.headD 0) ∧
  (∀ (ty : Nat) (rows : Nat → List Nat) (ms : List Nat), ty ≤ 3 → ms ≠ [] → ms.Pairwise (· < ·) →
    let f : Fmt := if ty = 0 then .e4m3 else if ty = 1 then .e5m2 else if ty = 2 then .bf16 else .f16
    (∀ i ∈ ms, ∀ x ∈ rows i, x < 2 * signBit f) →
    let norm (i : Nat) : Rat := ((rows i).map fun x => (num f x).abs).sum
    let wide (x : Nat) : W32 := BitVec.ofNat 32 (fConvert f .f32 .rn x).1
    let sum (xs : List Nat) : W32 := (xs.map wide).foldl add 0
    let best := maxL1 ty rows ms
    best ∈ ms ∧ (∀ i ∈ ms, norm i ≤ norm best ∧ (norm i = norm best → best ≤ i)) ∧
    (∀ xs, (sumElems ty xs).1 = sum xs) ∧ (∀ xs, (sumElems 6 xs).1 = (xs.map (BitVec.ofNat 32)).foldl add 0) ∧
    ∀ cols c, c < cols → ∃ count fl, Rounded .f32 .rn ms.length (count, fl) ∧ ((meanRow ty cols rows ms).getD c (0, 0)).1 =
      (fConvert .f32 f .rn (sfu2 true (sum (ms.map fun i => (rows i).getD c 0)) (BitVec.ofNat 32 count)).1.toNat).1) ∧
  (∀ (s : State) (o : EngOp) (b : SigBlk) (blk pm pb pn pq pk : List (Nat × Nat)) (r : SigOut), sbktRun s o b blk = .ok r →
    vaultArr s o 8 false b.src (2 * b.n) 2 = .ok pq → vaultArr s o 8 false b.sigs (2 * b.cols) 2 = .ok pk →
    vaultArr s o 8 true b.map (4 * b.n * b.l) 4 = .ok pm → vaultArr s o 8 true b.bkt (4 * b.n) 4 = .ok pb →
    vaultArr s o 8 true (o.a.toNat + 0x3C) 4 4 = .ok pn →
    let sig (ps : List (Nat × Nat)) (i : Nat) : Nat := fieldAt (readPieces (s.view o.core) ps) (2 * i) 2
    let hits (k : Nat) : List Nat := (List.range b.cols).filter fun n => sig pk n == sig pq k
    r.writes = overPieces pm (((List.range b.n).flatMap fun k => (List.range b.l).flatMap fun e =>
        toBytes 4 (if e < (hits k).length then b.seed + (hits k).getD e 0 else 0xFFFFFFFF))) ++
      overPieces pb ((List.range b.n).flatMap fun k => toBytes 4 (hits k).length) ++
      overPieces pn (toBytes 4 ((List.range b.n).map fun k => min b.l (hits k).length).sum)) ∧
  (∀ (n : Nat) (logit : Nat → Nat), (∀ e, logit e < 2 ^ 16) →
    let ls := (List.range n).map fun e => (e, logit e)
    let nan (x : Nat × Nat) : Bool := nanCode .bf16 x.2
    let value (x : Nat × Nat) : Int := orderCode .bf16 false x.2
    (rankLogits ls).Perm ls ∧ (rankLogits ls).Pairwise fun x y =>
      (nan x = true → nan y = true) ∧ (nan x = false → nan y = true ∨ value y ≤ value x) ∧
      (nan x = nan y → (nan x = true ∨ value x = value y) → x.1 < y.1)) ∧
  (∀ bs : List Nat, (∀ b ∈ bs, b < 2 ^ 16 ∧ nanCode .bf16 b = false) →
    ∃ us : List Nat, us.length = bs.length ∧
      (∀ i, i < bs.length → us.getD i 0 ≤ 0x3F800000 ∧
        (orderCode .bf16 false (bs.getD i 0) = orderCode .bf16 false (bs.headD 0) → us.getD i 0 = 0x3F800000) ∧
        let d := (fAdd .f32 .rn (65536 * bs.getD i 0) (fNeg .f32 (65536 * bs.headD 0))).1
        (orderCode .bf16 false (bs.getD i 0) ≠ orderCode .bf16 false (bs.headD 0) → orderCode .f32 false d < orderCode .f32 false 0xC2B00000 →
          us.getD i 0 = 0)) ∧
      winWeights bs = us.map fun u => (sfu2 true (BitVec.ofNat 32 u) ((us.map (BitVec.ofNat 32)).foldl add 0)).1) ∧
  (∀ b n : Nat, nanCode .bf16 b = false → 0 < n → n ≤ 8 → ∀ w ∈ winWeights (List.replicate n b), ∃ fl, Rounded .f32 .rn (1 / (n : Rat)) (w.toNat, fl)) ∧
  (∀ (lcap t : Nat) (p : PassOut) (win : List (Nat × Nat)), (win.map (·.1)).Nodup →
    let z := passToken lcap p t win
    let nan (x : Nat × Nat) : Bool := nanCode .bf16 x.2
    let picks (e : Nat) : Nat := (Assoc.get [] p.lists e).length
    z.idx = p.idx ++ win.map (fun x => x.1 + if nan x then 0x8000 else if picks x.1 < lcap then 0 else 0x4000) ∧
    z.nantok = p.nantok + (if win.any nan then 1 else 0) ∧
    z.drops = p.drops + (win.filter fun x => !nan x && decide (lcap ≤ picks x.1)).length ∧
    ∀ e, Assoc.get [] z.lists e = Assoc.get [] p.lists e ++ (List.range win.length).filterMap fun r =>
      let x := win.getD r (0, 0)
      if x.1 = e ∧ nan x = false ∧ picks e < lcap then some (t, r) else none) ∧
  (∀ (c : CbCtx) (t : Nat) (ranks : List Nat), ranks.Pairwise (· < ·) →
    let order := c.sumOrder t ranks
    let expert (r : Nat) : Nat := c.index t r % 1024
    let sum := (order.map (c.weight t)).foldl add 0
    order.Perm ranks ∧ order.Pairwise (fun x y => expert x < expert y ∨ (expert x = expert y ∧ x < y)) ∧
    ∀ missing, c.sumWeights t missing order = order.map fun r =>
      if c.policy = 1 ∧ missing = true then (if sum = 0 ∨ sum = 0x80000000 then 0 else (sfu2 true (c.weight t r) sum).1) else c.weight t r) ∧
  ∀ (aty oty d c : Nat) (terms : List (W32 × List Byte)), c < d → oty ≤ 2 →
    let elem (row : List Byte) : W32 := BitVec.ofNat 32 (if aty = 0 then 65536 * fieldAt row (2 * c) 2 else fieldAt row (4 * c) 4)
    let acc := terms.foldl (fun y x => fma x.1 (elem x.2) y) 0
    let w := if oty = 1 then 4 else 2
    ((combineRow aty oty d terms).drop (w * c)).take w =
      if oty = 1 then toBytes 4 acc.toNat else toBytes 2 (fConvert .f32 (if oty = 0 then .bf16 else .f16) .rn acc.toNat).1

/-- R377, R378, R386, R399, R400, R402: ROUTE, CBOPEN and CBCLOSE enter the queue of their die's engine and the gang goes on; CBPUT enters it
and waits for the buffer's answer; CBSTAT goes past its word, blocked until its value comes. It rests on the model's reading in
notes/assumptions 19, 24. -/
def Obligations.ExpertIssue : Prop :=
  ∀ (s : State) (g : Gang) (q : Squad) (w : FM), s.here? = some (g, q) → q.roam = false → roleFault q .exp = false →
    guardFieldOk q w.c = true → heldLanes w.c g q ≠ 0 → q.cnt.xp < 65535 →
    let held := heldLanes w.c g q
    let va := (val64 q (lowest held) w.sa).toNat
    let b : Word := (val32 q (lowest held) w.sb).setWidth 64
    let uni64 := srcOk q true .uni64 w.sa
    let posted (i : Instr) (a b : Word) : Prop := Does i s fun t => Enters t s g q .xp i a b [] held ∧ SameRegs t s ∧ Passed t g
    (s.routeOcc (dieOf q.core) < 64 → uni64 = true →
      (w.mod.getLsbD 0 = true → (srcOk q true .r32 w.sb && entryOk w.sb) = true → ObjAt s q va 32 32 (fun a => a != .stack) →
        posted (.route w) (BitVec.ofNat 64 va) b) ∧
      (w.mod.getLsbD 0 = false → ObjAt s q va 128 128 (fun a => a == .scratch || a == .lateral) → posted (.route w) (BitVec.ofNat 64 va) b)) ∧
    (s.cbOcc (dieOf q.core) < 64 →
      ((uni64 && ctxOk q w.sb) = true → ObjAt s q va 128 128 vaultOnly → posted (.cbopen w) (BitVec.ofNat 64 va) b) ∧
      (ctxOk q w.sa = true → posted (.cbclose w) 0 ((val32 q (lowest held) w.sa).setWidth 64)) ∧
      ((uni64 && tagOk q w.sb) = true → ObjAt s q va 16 (if w.mod.getLsbD 3 then 128 else 16) vaultOnly →
        Does (.cbput w) s fun t => Enters t s g q .xp (.cbput w) (BitVec.ofNat 64 va) b [] held ∧ SameRegs t s ∧ Waits t g (.cbput false))) ∧
    ((ctxOk q w.sa && destNamed w.c && dstOk q w.c 1 true false) = true → Does (.cbstat w) s fun t => SameMem t s ∧ SameRegs t s ∧
      PastWord t g ∧ ∃ y x, t.gang? g.id = some y ∧ y.stats = g.stats ++ [x] ∧ y.block = g.block ++ [x.id] ∧ x.lanes = g.lanes ∧
        x.sel = (w.mod.extractLsb' 0 3).toNat ∧ x.ctx = (val32 q (lowest held) w.sa).toNat)

/-- R361 to R367: LAUNCH takes an entry of its core's queue, when none that waits for one has issued before it and no earlier one of its squad is in its fence, and writes a nonzero handle;
TSPAWN enters its operation; JOIN and SWAPOUT complete on a word of another generation, when no write of their threads to it is on its way
and it is not in error (R435), and on one of the same generation wait for it, as JOIN_RELEASE then ends; SLICE writes what is left of the budget, or sets the deadline of its launch; POST sends its
8 bytes. It rests on the model's reading in notes/assumptions 9, 19. -/
def Obligations.TaskIssue : Prop :=
  ∀ (s : State) (g : Gang) (q : Squad) (w : FM), s.here? = some (g, q) → q.roam = false → roleFault q .task = false →
    guardFieldOk q w.c = true → heldLanes w.c g q ≠ 0 →
    let held := heldLanes w.c g q
    let va := (val64 q (lowest held) w.sa).toNat
    let uni64 := srcOk q true .uni64 w.sa
    let fenced (scope : Nat) : Prop := g.fenced = true ∨ s.fenceReady q held 1 scope = true
    ((uni64 && launchDst q w.c) = true → ObjAt s q va 128 128 (fun a => a == .global || a == .scratch) → fenced 5 → q.cnt.xp < 65535 →
      s.launchQueue q.core < 4 → s.launchFenced g (if g.fenced then g.since else s.now) = false →
      (∀ x ∈ s.launchWaiters q.core, (if g.fenced then g.since else s.now) ≤ x.1.since) →
      let alone : Prop := ∀ x ∈ s.launchWaiters q.core, x.1.id = g.id
      0 < s.nextHandle → s.nextHandle < 2 ^ 64 → Does (.launch w) s fun t =>
        SameMem t s ∧ Passed t g ∧
        (alone → Wrote t g q w.c 2 (fun _ => s.nextHandle) ∧ t.nextHandle = s.nextHandle + 1) ∧
        ∃ p rest, t.pendLaunch = s.pendLaunch ++ p :: rest ∧ (alone → rest = []) ∧ p.core = q.core ∧ p.addr = BitVec.ofNat 64 va ∧ p.parent = q.launch ∧ p.queued = true ∧
          p.handle.toNat = s.nextHandle ∧
          ∃ o ∈ t.ops, p.op = some o.id ∧ o.cls = .xp ∧ o.squad = q.id ∧ o.done = false) ∧
    (uni64 = true → ObjAt s q va 64 64 (fun a => a == .scratch || a == .lateral) → fenced 5 → q.cnt.xp < 65535 →
      Does (.tspawn w) s fun t => Enters t s g q .xp (.tspawn w) (BitVec.ofNat 64 va) 0 [] held ∧ SameRegs t s ∧ Passed t g) ∧
    (∀ home, (uni64 && srcOk q true .r32 w.sb) = true → AccessAt s g q (lowest held) va 16 (fun a => a != .stack) false home →
      (∀ l ∈ lanesOf held, s.readPending q l home 16 = false) → s.eccDouble home 16 = none →
      (homeIsVault home = true → (∀ e ∈ s.ents, e.overlaps home 16 = false) ∧ swEvaluate (s.mem.readN home 16) = s.mem.readN home 16) →
      let gen := swGen ((s.view q.core).readN home 16)
      let old := val32 q (lowest held) w.sb
      (gen ≠ old.toNat → (dstOk q w.c 1 true false = true → Does (.join w) s fun t => SameMem t s ∧ Passed t g ∧ Wrote t g q w.c 1 fun _ => gen) ∧
        Does (.swapout w) s fun t => SameMem t s ∧ SameRegs t s ∧ Passed t g) ∧
      (gen = old.toNat → (dstOk q w.c 1 true false = true → Does (.join w) s fun t => SameMem t s ∧ SameRegs t s ∧
          Waits t g (.join home (BitVec.ofNat 64 va) old false none)) ∧
        Does (.swapout w) s fun t => SameMem t s ∧ SameRegs t s ∧ Waits t g (.join home (BitVec.ofNat 64 va) old true none))) ∧
    (∀ h a k sw v, g.wait = .join h a k sw (some v) → q.saving ≠ some 3 → Does .joinRelease s fun t => SameMem t s ∧
      Passed t { g with ready := s.now } ∧ (sw = true → SameRegs t s) ∧
      (sw = false → Wrote t g q (Common.ofWord g.word) 1 fun _ => v.toNat)) ∧
    (∀ x, s.launch? q.launch = some x → dstOk q w.c 1 true false = true →
      (w.mod.getLsbD 0 = false → destNamed w.c = true → Does (.slice w) s fun t => SameMem t s ∧ Passed t g ∧
        Wrote t g q w.c 1 fun _ => if x.r.budget = 0 then 0xFFFFFFFF else q.budget) ∧
      (w.mod.getLsbD 0 = true → uni64 = true → Does (.slice w) s fun t => SameMem t s ∧ SameRegs t s ∧ Passed t g ∧
        t.launch? q.launch = some { x with r := { x.r with deadline := val64 q (lowest held) w.sa, dlv := true } })) ∧
    (∀ home, (uni64 && srcOk q true .r64 w.sb) = true → AccessAt s g q (lowest held) va 8 (fun a => a == .global) true home → fenced 6 →
      s.storeBufOcc q.core < 64 → Does (.post w) s fun t => SameMem t s ∧ SameRegs t s ∧ Passed t g ∧ ∃ e, t.ents = s.ents ++ [e] ∧
        e.home = home ∧ e.post = .store (toBytes 8 (val64 q (lowest held) w.sb).toNat) ∧ e.core = q.core ∧ e.squad = q.id ∧ e.athome = false)

/-! ## The sequencer's, memory's and the migration engine's own events -/

/-- R31, R32, R35, R209, R211, R212, R97, R117, R179, R197, R203: the sequencer's events on a gang, each where it may happen. Entering the
active set, ageing by one class, making room after 4,096 cy, passing a clause boundary (with the next clause, a bad header, an unmet WAITZ,
a missed fetch, a wait for a result, or a YIELD), starting a clause at its first word, a fetched clause or a walk for it, the end of a wait
for the function unit, the memory port or a fence, and a run-ahead. None changes memory, a register, or another gang; but a clause whose
WAITZ is met starts with the flags of its classes merged (R270). The ready gangs of a squad at
one clause head become one gang, which holds the lanes of all of them (R208). It rests on the model's reading in notes/assumptions 12, 37. -/
def Obligations.SequencerEvents : Prop :=
  (∀ (s : State) (g : Gang), g ∈ s.gangs → fusable s g.squad g.pc g = true →
    let r := s.fuse g
    SameRegs r.1 s ∧ SameMem r.1 s ∧
    (∀ y ∈ r.1.gangs, y.id = r.2 → ∀ x ∈ s.gangs, fusable s g.squad g.pc x = true → ∀ l, x.lanes.getLsbD l = true → y.lanes.getLsbD l = true) ∧
    (∀ x ∈ r.1.gangs, fusable s g.squad g.pc x = true → x.id = r.2) ∧
    ∀ x ∈ s.gangs, fusable s g.squad g.pc x = false → x.id ≠ g.id → (∀ y ∈ s.gangs, y.id = x.id → y = x) → x ∈ r.1.gangs) ∧
  ∀ (s : State) (g : Gang) (q : Squad), s.here? = some (g, q) →
    let does (i : Instr) (P : State → Prop) : Prop := Does i s fun t => SameMem t s ∧ SameRegs t s ∧ (∀ n, n ≠ g.id → t.gang? n = s.gang? n) ∧ P t
    let becomes (i : Instr) (y : Gang) : Prop := does i fun t => t.gang? g.id = some y
    let limit := decide (g.entry + 4096 ≤ s.now) && s.othersPend g q
    let only := (s.gangs.filter fun x => x.id == g.id).length = 1
    let alone := g.resume ≠ 0 ∨ fusable s g.squad g.pc g = false ∨ (only ∧ ∀ x ∈ s.gangs, fusable s g.squad g.pc x = true → x.id = g.id)
    (s.nextEntry q.core q.part q.shadow = some g → becomes .gangEnterActive { g with active := true, entry := s.now }) ∧
    (s.isReady g q = true → g.ready + 256 ≤ s.now → g.aged + 256 ≤ s.now → 0 < classRank g q →
      does .classAgeing fun t => ∃ y, t.gang? g.id = some y ∧ classRank y q + 1 = classRank g q ∧ y.aged = s.now ∧ y.ready = g.ready) ∧
    (g.active = true → g.phase ≠ .body → limit = true → becomes .entryTimeLimit
      { g.leave with phase := .head, ready := if g.wait = .none then s.now else g.ready }) ∧
    (g.active = true → g.waitsLast = true → limit = true → becomes .entryTimeLimit g.leave) ∧
    (g.phase = .boundary →
      (g.yielded = true → does .clauseBoundary fun t => ∃ y, t.gang? g.id = some y ∧ y.active = false ∧ y.phase = .head ∧ y.pc = g.pc) ∧
      (g.yielded = false → alone → ∀ h ws, s.clauseAt g q = some (h, ws) →
        let good := (Header.ofWord h).ok = true ∧ misplaced (Header.ofWord h) ws = none
        let awaits := s.firstAwaits g (Header.ofWord h) ws (max 1 g.resume)
        (¬good → does .clauseBoundary fun t => ∃ y, t.gang? g.id = some y ∧ y.phase = .head ∧ y.hdr = h ∧ y.words = ws ∧ y.wait = g.wait) ∧
        (good → (g.resume ≠ 0 ∨ waitzUnmet q (Header.ofWord h) = false) →
          (g.block = [] → awaits = false → limit = false → becomes .clauseBoundary { g with phase := .head, hdr := h, words := ws }) ∧
          ((g.block ≠ [] ∨ awaits = true ∨ limit = true) → does .clauseBoundary fun t => ∃ y, t.gang? g.id = some y ∧
            y.wait = g.wait ∧ y.active = false ∧ y.phase = .head ∧ y.hdr = h ∧ y.words = ws)) ∧
        (good → waitzUnmet q (Header.ofWord h) = true → g.resume = 0 → does .clauseBoundary fun t => ∃ y, t.gang? g.id = some y ∧
          y.wait = .waitz ∧ y.active = (g.active && g.nosw && !limit))) ∧
      (g.yielded = false → alone → s.clauseAt g q = none → does .clauseBoundary fun t => ∃ y, t.gang? g.id = some y ∧
        y.wait = .fetch ∧ y.active = (g.active && g.nosw && !limit))) ∧
    (g.phase = .head → g.active = true → s.gangReady g q = true → g.words ≠ [] → g.resume = 0 → g.pos = 0 → only → alone →
      (g.header.ok = false → exec .clauseStart s = .next (s.takeTrap g cIllegalClause g.lanes 0 g.hdr)) ∧
      (g.header.ok = true → misplaced g.header g.words = none → (g.header.waitz = 0 ∨ q.roam = true) →
        s.firstAwaits g g.header g.words 1 = false → heldCollective g q = false → s.matching g q g.pc = [] →
        does .clauseStart fun t => ∃ y, t.gang? g.id = some y ∧ y.phase = .body ∧ y.pos = 1 ∧ y.pc = g.pc ∧ y.words = g.words ∧
          ∃ q', t.squad? q.id = some q' ∧ ∀ l n, l < 32 → l < q.lanes.length → g.lanes.getLsbD l = true → (q'.lane l).latch n = 0) ∧
      (let zs := waitzClasses g.header.waitz
       g.header.ok = true → misplaced g.header g.words = none → g.header.waitz ≠ 0 → q.roam = false → g.fenced = false →
        waitzUnmet q g.header = false → (∀ h ∈ q.held, h.1 ∉ zs) → s.firstAwaits g g.header g.words 1 = false → heldCollective g q = false →
        s.matching g q g.pc = [] → Does .clauseStart s fun t => SameMem t s ∧
          (∃ y, t.gang? g.id = some y ∧ y.phase = .body ∧ y.pos = 1 ∧ y.pc = g.pc ∧ y.words = g.words) ∧
          ∃ q', t.squad? q.id = some q' ∧ q'.u = q.u ∧ q'.acc = q.acc ∧
            let f : Flags := (if .mx ∈ zs then q.mxFlags else 0) ||| (if .rw ∈ zs then q.rwFlags else 0) ||| (if .sg ∈ zs then q.sgFlags else 0)
            ∀ l, l < 32 → (q'.lane l).v = (q.lane l).v ∧ (q'.lane l).p = (q.lane l).p ∧
              (q'.lane l).ff = (if (q.lane l).st = .absent ∨ (q.lane l).st = .exited then (q.lane l).ff else (q.lane l).ff ||| f))) ∧
    (∀ s2, g.wait = .fetch →
      (∀ s3 h ws, fetchWord s g q g.pc.toNat = (s2, .ok h) → (Header.ofWord h).ok = true →
        fetchWords s2 g q (g.pc + 8) (Header.ofWord h).len = (s3, .ok ws) →
        does .clauseFetch fun t => ∃ y, t.gang? g.id = some y ∧ y.wait = .none ∧ y.hdr = h ∧ y.words = ws ∧ y.pc = g.pc) ∧
      (fetchWord s g q g.pc.toNat = (s2, .error .miss) → does .clauseFetch fun t => (∃ y, t.gang? g.id = some y ∧ y.wait = .walk ∧ y.pc = g.pc) ∧
        ∃ x ∈ t.walks, x.gang = g.id ∧ x.pref = false ∧ x.va.toNat / 4096 = g.pc.toNat / 4096)) ∧
    (g.wait = .sfu → (s.part q.core q.part).sfuFree ≤ s.now → s.sfuBefore g q (g.port.getD 0) = false →
      becomes .sfuAccept { g with wait := .none, ready := s.now }) ∧
    (g.wait = .port → s.portBusy g q = false → becomes .memoryPortAccept { g with wait := .none, ready := s.now }) ∧
    ((g.wait = .buffer ∨ g.wait = .remote ∨ g.wait = .limit .rm) → becomes .memoryPortAccept { g with wait := .none, ready := s.now }) ∧
    (∀ kind scope m, g.wait = .fence kind scope m → s.fenceReady q m kind scope = true →
      becomes .fenceComplete { g with wait := .none, ready := s.now, fenced := true }) ∧
    (∀ e, g.header.classAt g.pos = some e → g.header.ra = true → g.ra = [] → s.stalledOnLoad g e = true →
      does .runAhead fun t => ∃ y, t.gang? g.id = some y ∧ y = { g with ra := y.ra } ∧
        ∀ r ∈ y.ra, (r.1 = g.pc ∧ g.pos < r.2.1 ∧ r.2.1 ≤ g.header.len) ∨ (r.1 = g.nextClause ∧ 1 ≤ r.2.1))

/-- R62, R68, R70, R74, R75, R191, R194, R198: memory's events. A walk that runs ends: its leaf is installed, or its fault reaches the gang
that missed, and every gang whose walks have ended goes on, when no table entry has a double-bit error (R435) and no request comes first; a
slice accepts one of the requests that may stand at its head and that nothing holds back, and fixes a load's value as its core sees it; a load then returns its value to its registers, from the own slice, another one, another chip or the host, and a line of a PREF to the
cache; an atomic is performed at its home as it returns; a posted write arrives at home and changes no byte but its own and watched sync
words; an acknowledgement lowers rm when it is the last of its request. It rests on the model's reading in notes/assumptions 10, 11, 53. -/
def Obligations.MemoryEvents : Prop :=
  (∀ (s : State) (w : Walk), s.walks.find? (fun x => x.id == w.id) = some w → w ∈ s.walking (dieOf w.core) →
    s.eccPieces (walkReads s (s.spaceOf w.launch).1 (s.spaceOf w.launch).2 w.va.toNat) = none →
    s.queued w.core w.since (walkReads s (s.spaceOf w.launch).1 (s.spaceOf w.launch).2 w.va.toNat) = false →
    let ends (P : State → Prop) : Prop := Does (.pageWalk w.id) s fun t => SameMem t s ∧ SameRegs t s ∧ (∀ x ∈ t.walks, x.id ≠ w.id) ∧
      (∀ y ∈ t.gangs, y.wait = .walk → ∃ x ∈ t.walks, x.gang = y.id ∧ x.pref = false) ∧ P t
    (∀ e, walk s (s.spaceOf w.launch).1 (s.spaceOf w.launch).2 w.core w.va.toNat = .leaf e → ends fun t =>
      (∃ x ∈ t.tlb, x.core = w.core ∧ x.asc = e.asc ∧ x.va = e.va ∧ x.size = e.size) ∧
      ((∀ x ∈ s.tlb, x.core = w.core → x.va ≠ e.va) → { e with core := w.core } ∈ t.tlb)) ∧
    ∀ r l, walk s (s.spaceOf w.launch).1 (s.spaceOf w.launch).2 w.core w.va.toNat = .fault r l → ends fun t =>
      t.tlb = s.tlb ∧ (w.pref = false → ∀ y ∈ s.gangs, y.id = w.gang → ∃ z ∈ t.gangs, z.id = y.id ∧ (w.va >>> 12, r, l) ∈ z.wfault)) ∧
  (∀ (s : State) (core : Nat), (s.sliceHeads core).filter s.canAccept ≠ [] →
    (∀ r ∈ s.sliceHeads core, (∀ p ∈ r.pieces, s.eccDouble p.home p.n = none) ∧ ∀ a v h, r.fill = some (a, v, h) → s.eccDouble h 128 = none) →
    Does (.sliceAccept core) s fun t => SameMem t s ∧ SameRegs t s ∧ ∃ r ∈ s.sliceHeads core, s.canAccept r = true ∧
      (∀ x ∈ s.reqs, x.id < r.id → x.owner = core → x.accepted = false → x.host = false → x.otherChip = false → x.core ≠ r.core) ∧
      ∃ x ∈ t.reqs, x.id = r.id ∧ x.accepted = true ∧
      (r.isAtomic = false → x.pieces.map (fun p => (p.lane, p.home, p.n, p.val)) =
        r.pieces.map fun p => (p.lane, p.home, p.n, BitVec.ofNat 64 ((s.viewBefore r.core r.id).readN p.home p.n)))) ∧
  (∀ (s : State) (r : Req), s.reqs.find? (fun x => x.id == r.id) = some r → r.accepted = true → r.remote = false → r.host = false →
    r.kind = .line → Does (.sliceLoadReturn r.id) s fun t => SameMem t s ∧ SameRegs t s ∧ (∀ x ∈ t.reqs, x.id ≠ r.id) ∧
      ∀ a v h, r.fill = some (a, v, h) → ∃ ln ∈ t.lines, ln.core = r.core ∧ ln.asc = a ∧ ln.va = v ∧ ln.pa = h) ∧
  (∀ (s : State) (r : Req) (q : Squad) (sx : Bool), s.reqs.find? (fun x => x.id == r.id) = some r → r.kind = .load sx →
    s.squad? r.squad = some q →
    let loaded (val : Piece → Nat) (t : State) : Prop := SameMem t s ∧ (∀ x ∈ t.reqs, x.id ≠ r.id) ∧
      (∀ y ∈ t.gangs, y.squad = r.squad → r.id ∉ y.block ∧ ∀ p ∈ y.pend, p.1 ≠ r.id) ∧
      ∃ q', t.squad? r.squad = some q' ∧ squadFile q' = squadFile (r.pieces.foldl (fun z p =>
        loadPut z r.c r.uni r.active p.n p.reg p.lane (loadExt p.n sx (val p))) q)
    (r.accepted = true → r.remote = false → r.host = false → Does (.sliceLoadReturn r.id) s (loaded fun p => p.val.toNat)) ∧
    (r.accepted = true → r.remote = true → r.host = false → r.otherChip = false →
      Does (.remoteLoadReturn r.id) s (loaded fun p => p.val.toNat)) ∧
    (r.remote = true → r.host = false → r.otherChip = true → s.olderReq r = false → s.canAccept r = true →
      Does (.remoteLoadReturn r.id) s (loaded fun p => (s.viewBefore r.core r.id).readN p.home p.n % 2 ^ 64)) ∧
    (r.host = true → s.canAccept r = true → (∀ x ∈ s.reqs, x.host = true → x.core = r.core → x.id < r.id → ∀ p ∈ r.pieces, x.overlaps p.home p.n = false) →
      Does (.hostAccessComplete r.id) s (loaded fun p => (s.viewBefore r.core r.id).readN p.home p.n % 2 ^ 64))) ∧
  (∀ (s : State) (r : Req), s.reqs.find? (fun x => x.id == r.id) = some r → r.accepted = true → r.isAtomic = true → r.host = false →
    (∀ p ∈ r.pieces, s.eccDouble p.home p.n = none) → (∀ a v h, r.fill = some (a, v, h) → s.eccDouble h 128 = none) →
    (∀ x ∈ s.reqs, x.accepted = true → x.isAtomic = true → x.id < r.id → ∀ p ∈ r.pieces, x.overlaps p.home p.n = false) →
    Does (.atomicReturn r.id) s fun t => (∀ x ∈ t.reqs, x.id ≠ r.id) ∧
      (∀ y ∈ t.gangs, y.squad = r.squad → r.id ∉ y.block ∧ ∀ p ∈ y.pend, p.1 ≠ r.id) ∧
      (Unwatched s → (∀ e ∈ s.ents, ∀ p ∈ r.pieces, e.overlaps p.home p.n = false) →
        t.mem = r.pieces.foldl (fun m p => match (rmwPiece r.kind m p).2.2 with | some v => m.writeN p.home p.n v | none => m) s.mem ∧
        ∀ q p, s.squad? r.squad = some q → r.pieces = [p] → p.reg = 0 → p.lane < q.lanes.length → r.uni = false → r.c.dk = .vec → r.c.nw = false →
          ∃ q', t.squad? r.squad = some q' ∧ ∀ k, k < max 1 (p.n / 4) →
            regGet (q'.lane p.lane).v (r.c.dn.toNat + k) = BitVec.ofNat 32 (s.mem.readN p.home p.n % 2 ^ 64 / 2 ^ (32 * k)))) ∧
  (∀ (s : State) (e : Ent), s.ents.find? (fun x => x.id == e.id) = some e → e.athome = false → s.entFree e = true → s.behind e = false →
    e.refused = false → (e.isRed = true → s.eccDouble e.home e.post.len = none) →
    Does (.writeAtHome e.id) s fun t => SameRegs t s ∧ (∀ x ∈ t.ents, x.id = e.id → x.athome = true) ∧
      (s.watched = [] → t.mem = applyPost s.mem e.home e.post) ∧
      ∀ a, (a < e.home ∨ e.home + e.post.len ≤ a) → (∀ w ∈ s.watched, a < w ∨ w + 16 ≤ a) → t.mem.read a = s.mem.read a) ∧
  (∀ (s : State) (e : Ent) (q : Squad), s.ents.find? (fun x => x.id == e.id) = some e → e.rm = true → e.athome = true →
    s.squad? e.squad = some q → (∀ x ∈ s.ents, x.rm = true → x.squad = e.squad → e.id ≤ x.id) →
    Does (.remoteAck e.id) s fun t => SameMem t s ∧ SameRegs t s ∧ (∀ x ∈ t.ents, x.id ≠ e.id) ∧ ∃ q', t.squad? e.squad = some q' ∧
      ((∀ x ∈ s.ents, x.grp = e.grp → x.id = e.id) → q'.cnt = { q.cnt with rm := q.cnt.rm - 1 }) ∧
      ((∃ x ∈ s.ents, x.grp = e.grp ∧ x.id ≠ e.id) → q'.cnt = q.cnt))

/-- R236 to R248: a migrating thread leaves its slot as a leaf once its accesses are complete; leaves go to the network or, for another
chip, to a bundle; a bundle goes out when full or after 64 cy, or its leaves to the die whose port is up (R428), and the leaves of a valid one arrive; a leaf that arrives is stamped and
queued, when nothing held or on its way must enter first, and a bad one ends its launch; held leaves come back lowest stamp first; the head
of the queue enters a bin or opens one in the partition with the fewest slots in use, and the threads of a bin start as one gang at their
clause; the table of a die learns what the cores hold. It rests on the model's reading in notes/assumptions 15, 22, 57. -/
def Obligations.MigrationEvents : Prop :=
  (∀ (s : State) (n l core chip : Nat) (full : Option Nat) (q : Squad), s.squad? n = some q → l < 32 →
    (q.lane l).st = .departing core chip full → s.laneDrained q l = true → (s.core q.core).depart.length < 64 →
    (∀ k, k < l → (q.lane k).pc = (q.lane l).pc → ∀ a b c, (q.lane k).st ≠ .departing a b c) →
    Does (.leafDepart n l) s fun t => SameMem t s ∧ (∀ q', t.squad? n = some q' → (q'.lane l).st = .absent) ∧
      ∃ x, (t.core q.core).depart = (s.core q.core).depart ++ [x] ∧ x.kind = 1 ∧ x.pc = (q.lane l).pc ∧ x.wid = (q.lane l).wid ∧
        x.hops = (q.lane l).hops + 1 ∧ x.dcore = core ∧ x.dchip = (chip + (s.spaceOf q.launch).2.chip) % 1024 ∧ x.launch = q.launch ∧ x.pred = (q.lane l).p.setWidth 8 ∧
        x.v = (List.range 16).map fun k => regGet (q.lane l).v k) ∧
  (∀ (s : State) (core : Nat) (x : Leaf) (rest : List Leaf), (s.core core).depart = x :: rest → s.launchEnded x.launch = false →
    Does (.leafSend core) s fun t => SameMem t s ∧ (t.core core).depart = rest ∧ (t.core core).migout = (s.core core).migout + 1 ∧
      (x.dchip = (s.spaceOf x.launch).2.chip → ∃ f, t.flights = s.flights ++ [f] ∧ f.leaf = x) ∧
      (x.dchip ≠ (s.spaceOf x.launch).2.chip → ∃ b ∈ t.bundles, b.die = (s.portDie (dieOf core) none).getD (dieOf core) ∧ b.chip = x.dchip ∧ x ∈ b.leaves)) ∧
  (∀ (s : State) (die chip : Nat) (b : OutBundle),
    s.bundles.find? (fun b => b.die == die && b.chip == chip && !b.sent && (b.leaves.length == 32 || decide (b.first + 64 ≤ s.now))) = some b →
    (s.portUp die none = true → Does (.bundleSend die chip) s fun t => SameMem t s ∧ SameRegs t s ∧ { b with sent := true } ∈ t.bundles) ∧
    ∀ d, s.portUp die none = false → s.portDie die none = some d → Does (.bundleSend die chip) s fun t => SameMem t s ∧ SameRegs t s ∧
      ∀ x ∈ b.leaves, ∃ y ∈ t.bundles, y.die = d ∧ y.chip = x.dchip ∧ x ∈ y.leaves) ∧
  (∀ (s : State) (core : Nat) (b : Bundle),
    (bundleOk b.bytes = false → Does (.bundleArrival core b) s fun t => SameMem t s ∧ SameRegs t s ∧ t.flights = s.flights ∧
      (t.core core).migdrop = (s.core core).migdrop + 1) ∧
    (bundleOk b.bytes = true → Does (.bundleArrival core b) s fun t => SameMem t s ∧ SameRegs t s ∧ ∃ fs, t.flights = s.flights ++ fs ∧
      fs.map (fun f => (f.leaf, f.bad)) = (List.range (fieldAt b.bytes 1 1)).map fun k =>
        let z := Leaf.ofBytes ((b.bytes.drop (16 + 128 * k)).take 128)
        (z.1, !z.2))) ∧
  (∀ (s : State) (b : OutBundle), s.bundles.find? (fun y => y.id == b.id && y.sent) = some b →
    Does (.transportRetryLimit b.id) s fun t => SameMem t s ∧ (∀ y ∈ t.bundles, y.id ≠ b.id) ∧ (∀ x ∈ b.leaves, t.launchEnded x.launch = true) ∧
      ∀ x, b.leaves.head? = some x → s.launchEnded x.launch = false →
        ∃ v rest, t.events = s.events ++ v :: rest ∧ v.kind = 1 ∧ v.handle = x.launch ∧ v.frec.code = 0x41) ∧
  (∀ (s : State) (f : Flight), s.flights.find? (fun x => x.id == f.id) = some f →
    (∀ y ∈ s.flights, y.id < f.id → y.leaf.kind = f.leaf.kind → y.leaf.launch = f.leaf.launch → y.leaf.dcore = f.leaf.dcore →
      f.leaf.kind ≠ 2 ∧ f.leaf.kind ≠ 3) →
    s.joined f.src (dieOf f.leaf.dcore) = true →
    let d := f.leaf.dcore
    let x : Leaf := { f.leaf with transit := false, stamp := if f.leaf.stamp = 0 then (s.core d).stamp + 1 else f.leaf.stamp }
    (f.bad = false → f.leaf.transit = false → s.launchEnded f.leaf.launch = false → s.inboundRoom d = true → s.heldFor d = [] →
      s.creditBefore d x.stamp = false → Does (.leafArrival f.id) s fun t => SameMem t s ∧ SameRegs t s ∧ (∀ x ∈ t.flights, x.id ≠ f.id) ∧
        (t.core d).inbound = (s.core d).inbound ++ [x]) ∧
    (f.bad = false → f.leaf.transit = true → s.launchEnded f.leaf.launch = false → s.creditBefore d f.leaf.stamp = false →
      Does (.leafArrival f.id) s fun t => SameMem t s ∧ SameRegs t s ∧ (∀ x ∈ t.flights, x.id ≠ f.id) ∧
        (t.core d).inbound = (s.core d).inbound ++ [{ f.leaf with transit := false }]) ∧
    (f.bad = true → f.leaf.transit = false → (∃ l, s.launch? f.leaf.launch = some l) → s.launchEnded f.leaf.launch = false →
      Does (.leafArrival f.id) s fun t => SameMem t s ∧ (∀ x ∈ t.flights, x.id ≠ f.id) ∧ t.launchEnded f.leaf.launch = true ∧
        ∃ v rest, t.events = s.events ++ v :: rest ∧ v.kind = 1 ∧ v.handle = f.leaf.launch ∧ v.frec.code = 0x40)) ∧
  (∀ (s : State) (core : Nat) (r : RingEnt), s.nextHeld core = some r → s.inboundRoom core = true →
    s.eccDouble (sliceHome r.core (ringBase (s.core r.core) + 128 * r.slot)) 128 = none →
    (r.core = core → (∀ x ∈ s.rings, x.core = core → s.launchEnded x.leaf.launch = false) → s.creditBefore core r.leaf.stamp = false →
      Does (.ringReadback core) s fun t => SameMem t s ∧ SameRegs t s ∧ t.rings.length < s.rings.length ∧
        (t.core core).inbound = (s.core core).inbound ++ [{ r.leaf with transit := false }]) ∧
    (r.core ≠ core → Does (.transitCredit core) s fun t => SameMem t s ∧ SameRegs t s ∧ t.rings.length < s.rings.length ∧
      ∃ f, t.flights = s.flights ++ [f] ∧ f.leaf = { r.leaf with transit := true })) ∧
  (∀ (s : State) (core : Nat) (x : Leaf) (rest : List Leaf), (s.core core).inbound = x :: rest → s.launchEnded x.launch = false →
    s.bins.find? (fun b => b.core == core && b.launch == x.launch && b.pc == x.pc && !b.forced && decide (b.leaves.length < 32)) = none →
    let roomy (p : Nat) : Prop := p < 12 ∧ s.canHold core p = true ∧ (s.bins.filter fun b => b.core == core && b.part == p).length < 16
    (∃ p, roomy p) → Does (.arrivalDispatch core) s fun t => SameMem t s ∧ SameRegs t s ∧ (t.core core).inbound = rest ∧
      (t.core core).migin = (s.core core).migin + 1 ∧ ∃ b ∈ t.bins, b.core = core ∧ b.launch = x.launch ∧ b.pc = x.pc ∧ b.leaves = [x] ∧
        b.opened = s.now ∧ roomy b.part ∧ ∀ p, roomy p → s.partSlots core b.part ≤ s.partSlots core p) ∧
  (∀ (s : State) (core : Nat) (x : Leaf) (rest : List Leaf) (b : Bin), (s.core core).inbound = x :: rest → s.launchEnded x.launch = false →
    s.bins.find? (fun b => b.core == core && b.launch == x.launch && b.pc == x.pc && !b.forced && decide (b.leaves.length < 32)) = some b →
    s.canHold core b.part = true → Does (.arrivalDispatch core) s fun t => SameMem t s ∧ SameRegs t s ∧ (t.core core).inbound = rest ∧
      (t.core core).migin = (s.core core).migin + 1 ∧ { b with leaves := b.leaves ++ [x], entered := b.entered ++ [s.now] } ∈ t.bins) ∧
  (∀ (s : State) (b : Bin), s.bins.find? (fun x => x.id == b.id) = some b → s.binDue b = true →
    (∀ x ∈ s.bins, x.core = b.core → x.part = b.part → x.id < b.id → s.binDue x = false) →
    Does (.binRelease b.id) s fun t => SameMem t s ∧ (∀ x ∈ t.bins, x.id ≠ b.id) ∧ ∃ z y, t.squads = s.squads ++ [z] ∧ t.gangs = s.gangs ++ [y] ∧
      z.roam = true ∧ z.launch = b.launch ∧ z.core = b.core ∧ z.part = b.part ∧ y.squad = z.id ∧ y.pc = b.pc ∧ y.lanes = z.existing ∧
      ∀ l x, l < 32 → b.leaves[l]? = some x → (z.lane l).st = .run ∧ (z.lane l).wid = x.wid ∧ (z.lane l).p = x.pred.setWidth 24 ∧
        ∀ k, k < 16 → regGet (z.lane l).v k = x.v.getD k 0) ∧
  (∀ (s : State) (die : Nat) (wide : Bool), die < s.dies.length → Does (.poolTableRefresh die wide) s fun t => SameMem t s ∧ SameRegs t s ∧
    ∀ core, core < 384 → (dieOf core = die ↔ wide = false) →
      Assoc.get 0 (t.die die).pool core = s.ringOcc core ∧ Assoc.get 0 (t.die die).poolQ core = (s.core core).inbound.length ∧
      Assoc.get 0 (t.die die).poolS core = s.slotsUsed core ∧ Assoc.get 0 (t.die die).poolB core = s.openBins core)

/-! ## Engines: their own events -/

/-- R285, R291 to R293, R299, R303, R306, R314, R322, R337, R372, R378, R16: the events of the engines. A copy whose set-up succeeds starts,
a TSUB starts a stream; each destination row is written in turn, with its arrival, and the last one completes the copy; a stream item
raises DONE; the head of a matrix, row, signature or routing queue is performed: its results are in the accumulators, the registers or
posted to its objects; a complete operation retires in order and lowers its counter, its fault and flags held for the covering wait. A
start waits for the operations of its cycle to enter and for the earlier accesses of the lanes that issued it; no word of an accumulator
that it reads, and none that a drained reduction names, is in error (R435). It rests on the model's reading in notes/assumptions 19, 28, 29. -/
def Obligations.EngineEvents : Prop :=
  (∀ (s : State) (core : Nat) (o : EngOp) (w : FM), s.waitingTsub core = none → s.nextCopy core = some o → OneOp s o →
    let s1 := ((s.modCore core fun c => { c with cpqdly := c.cpqdly + (if o.started then 0 else s.now - o.arrived) }).modOp o.id fun x =>
      { x with started := true, again := false, setup := false }).wakeEngine 5 fun q => q.core == core
    let calm : Prop := ∀ e ∈ s.ents, e.refused = false ∧ (e.isRed = true → s.eccDouble e.home e.post.len = none)
    (∀ bs h xs n, copyWord o.i = some w → o.i ≠ .tsub w → setupOp s1 o w = .ok (bs, h, xs, n) →
      Does (.copyOperationStart core) s fun t => SameMem t s ∧ SameRegs t s ∧ 
        { o with started := true, again := false, setup := false, blk := bs, idx := xs, rd := h.rd, wr := h.wr, tr := [], wfault := [], row := 0,
                 rows := n } ∈ t.ops) ∧
    (∀ ps, o.i = .tsub w → engObj s1 o 5 vaults (dieOf o.core) true o.a.toNat 256 256 = .ok ps →
      setupStream s1 o (w.mod.getLsbD 0) (readPieces (s1.view o.core) ps) = .ok () → calm →
      (w.mod.getLsbD 0 = false → s.streamsOn o.core < 4 →
        Does (.copyOperationStart core) s fun t => SameRegs t s ∧ (∃ x ∈ t.ops, x.id = o.id ∧ x.done = true) ∧ ∃ x, t.streams = s.streams ++ [x] ∧
          x.core = o.core ∧ x.block = o.a ∧ x.launch = o.launch) ∧
      (w.mod.getLsbD 0 = true → Does (.copyOperationStart core) s fun t => SameRegs t s ∧ (∃ x ∈ t.ops, x.id = o.id ∧ x.done = true) ∧
        ((StreamBlk.ofBytes (readPieces (s1.view o.core) ps)).active = true → ∀ x ∈ t.streams, ¬(x.block = o.a ∧ x.team = o.team))))) ∧
  (∀ (s : State) (o : EngOp), OneOp s o → o.cls = .cp → o.inProgress = true → o.row < o.rows →
    (∀ p ∈ o.rd, s.reaches o.core p.2 = true) →
    Does (.copyRowWritten o.id) s fun t => SameMem t s ∧ SameRegs t s ∧
      (∃ x ∈ t.ops, x.id = o.id ∧ x.row = o.row + 1 ∧ x.done = decide (o.row + 1 = o.rows)) ∧
      (o.syncWord = none → t.upds = s.upds) ∧
      ∀ va, o.syncWord = some va → ∃ u, t.upds = s.upds ++ [u] ∧ u.kind = .arrive 1 (rowAmount o) ∧ u.va = va ∧ u.op = some o.id) ∧
  (∀ (s : State) (x : Stream) (e : Team) (ps : List (Nat × Nat)) (h h2 : Held) (is : List Word), s.streams.find? (fun y => y.id == x.id) = some x →
    s.team? x.team = some e → s.preempting e = false → e.saved = none → e.retired = false → x.held = none → x.waiting = false → s.walksFor x.id = false →
    engObj s x.asOp 5 vaults (dieOf x.core) true x.block.toNat 256 256 = .ok ps →
    let block := (ps.headD (0, 0)).1
    let b := StreamBlk.ofBytes (readPieces (s.view x.core) ps)
    let ds := readAt (s.view x.core) h.rd b.sdesc 64
    let d := b.item (CopyDesc.ofBytes ds) b.done
    b.done < b.nitem → b.done + 1 < 2 ^ 32 → ringPhase (s.view x.core) block (b.done % ringSlots b.nslot) = b.pull →
    holdRange s x.asOp vaults (dieOf x.core) false b.sdesc 64 64 {} = .ok h → descFault b.form d ds = none →
    setupDesc s { x.asOp with a := BitVec.ofNat 64 b.sdesc } b.form d = .ok (h2, is) →
    (b.sword = 0 ∨ ∃ word, engSyncWord s x.asOp 5 b.sword = .ok word) →
    Does (.streamItem x.id) s fun t => ((∀ w ∈ s.watched, w + 16 ≤ block + 0x24 ∨ block + 0x28 ≤ w) → t.mem.readN (block + 0x24) 4 = b.done + 1) ∧
      ((∀ e ∈ s.ents, e.refused = false ∧ (e.isRed = true → s.eccDouble e.home e.post.len = none)) → SameRegs t s ∧
      (b.sword ≠ 0 → ∃ u ∈ t.upds, u.kind = .add 1 ∧ u.va = BitVec.ofNat 64 b.sword) ∧ (b.done + 1 < b.nitem → { x with tr := [], wfault := [] } ∈ t.streams) ∧
      (b.done + 1 = b.nitem → ∀ y ∈ t.streams, y.id ≠ x.id))) ∧
  (∀ (s : State) (core engine : Nat) (o : EngOp) (q : Squad) (w : FM), OneOp s o → s.mayStart o = true →
    s.ops.find? (fun o => o.core == core && o.cls == .mx && engineOf o.part == engine && !o.started && !o.done) = some o →
    (∀ x ∈ s.ops, x.squad = o.squad → x.cls = .rw → x.id < o.id → x.started = false → ∀ v, x.i ≠ .rstat v) → s.squad? o.squad = some q → q.accErrs = [] →
    let add (n : Nat) (l : List Nat) : List Nat := (List.range 3).map fun k => l.getD k 0 + if k = engine then n else 0
    let s1 := ((s.modCore core fun c => { c with mxqdly := add (s.now - o.arrived) c.mxqdly, mxbusy := add (mtxBusy s o) c.mxbusy }).modOp o.id
      fun x => { x with started := true, done := true }).wakeEngine 6 fun x => x.core == core && engineOf x.part == engine
    (o.i = .acz w → mtxAcc w < q.accs → (∀ f, descChecks o w ≠ some f) → Does (.matrixOperationStart core engine) s fun t => SameMem t s ∧
      ∃ q', t.squad? q.id = some q' ∧ q'.u = q.u ∧ q'.lanes = q.lanes ∧ ∀ m n, m < 64 → n < 64 →
        q'.accElem (mtxAcc w) m n = 0 ∧ ∀ a, a ≠ mtxAcc w → q'.accElem a m n = q.accElem a m n) ∧
    (o.i = .acrd w → q.lanes.length = 32 → w.c.dk = .vec → w.c.nw = false → Does (.matrixOperationStart core engine) s fun t => SameMem t s ∧
      ∃ q', t.squad? q.id = some q' ∧ q'.u = q.u ∧ q'.acc = q.acc ∧ ∀ l, l < 32 → o.lanes.getLsbD l = true →
        regPair (q'.lane l).v w.c.dn.toNat =
          (let sel := o.a.toNat % 64
           let at0 (k : Nat) : W32 := if w.mod.getLsbD 5 then q.accElem (mtxAcc w) sel (2 * l + k) else q.accElem (mtxAcc w) (2 * l + k) sel
           (at0 1 ++ at0 0 : Word))) ∧
    (∀ r, mtxWord o.i = some w → o.i ≠ .acrd w → mtxRun s1 o q w = .ok r → Does (.matrixOperationStart core engine) s fun t =>
      Performed t s o r.flags r.writes ∧ ∃ q', t.squad? q.id = some q' ∧ q'.acc = (r.put.foldl (fun x p => x.setAcc p.1 p.2) q).acc ∧ q'.lanes = q.lanes)) ∧
  (∀ (s : State) (core : Nat) (o : EngOp) (q : Squad), OneOp s o → s.mayStart o = true → s.squad? o.squad = some q →
    (s.ops.find? (fun o => o.core == core && o.cls == .rw && !o.started && !o.done) = some o →
      (∀ b r, (∀ w, o.i ≠ .rstat w) → rowRun s o = .ok (b, r) →
        Does (.rowOperationStart core) s fun t => Performed t s o r.flags r.writes ∧ SameRegs t s) ∧
      (∀ w, o.i = .rstat w → s.mtxBefore o = false → q.accErrs = [] → q.lanes.length = 32 → w.c.dk = .vec → w.c.nw = false →
        Does (.rowOperationStart core) s fun t => SameMem t s ∧ ∃ q', t.squad? q.id = some q' ∧ q'.acc = q.acc ∧
          ∀ l, l < 32 → q.liveLanes.getLsbD l = true → ∀ k, k < 2 → regGet (q'.lane l).v (w.c.dn.toNat + k) =
            (rowStat w.mod (if k = 0 then (o.idx.getD l 0).setWidth 32 else (o.idx.getD l 0).extractLsb' 32 32) ((List.range 64).map fun c => q.accElem (mtxAcc w) (2 * l + k) c)).1)) ∧
    (∀ r, s.ops.find? (fun o => o.core == core && o.cls == .sg && !o.started && !o.done) = some o → sigRun s o = .ok r →
      Does (.signatureOperationStart core) s fun t => Performed t s o r.flags r.writes ∧ SameRegs t s)) ∧
  (∀ (s : State) (die : Nat) (o : EngOp) (w : FM), OneOp s o → s.nextRoute die = some o → o.i = .route w → die < s.dies.length →
    let s1 := ((s.modDie die fun d => { d with rtqdly := d.rtqdly + if o.again then 0 else s.now - routeArrival o }).modOp o.id fun x =>
      { x with started := true, again := false }).wakeExp die true
    (∀ key e, w.mod.getLsbD 0 = true → Machine.shapeOf s1 o = .ok (key, e) → Does (.routeOperationStart die) s fun t => SameMem t s ∧ SameRegs t s ∧
      (t.die die).shape? key = some e ∧ (∀ k, k ≠ key → (t.die die).shape? k = (s.die die).shape? k) ∧ ∃ x ∈ t.ops, x.id = o.id ∧ x.done = true) ∧
    (∀ p, w.mod.getLsbD 0 = false → passPlan s1 o = .ok p → Does (.routeOperationStart die) s fun t => SameMem t s ∧ SameRegs t s ∧
      (∃ x ∈ t.ops, x.id = o.id ∧ x.done = true) ∧
      (∀ home va, p.sync = some (home, va) → ∃ u, t.upds = s.upds ++ [u] ∧ u.kind = .add 1 ∧ u.home = home ∧ u.op = some o.id))) ∧
  (∀ (s : State) (n : Nat) (cls : CounterClass) (o : EngOp) (q : Squad), s.ops.find? (fun o => o.squad == n && o.cls == cls) = some o →
    o.done = true → o.upds = 0 → ((cls = .cp ∨ o.isRoute = true) → ∀ e ∈ s.ents, e.op = some o.id → e.pending = false) → s.squad? n = some q →
    (cls ≠ .xp ∨ q.place = .resident) →
    Does (.operationRetire n cls) s fun t => SameMem t s ∧ SameRegs t s ∧ (∀ x ∈ t.ops, x.id ≠ o.id) ∧ ∃ q', t.squad? n = some q' ∧
      q'.cnt = q.cnt.put cls (q.cnt.get cls - 1) ∧
      q'.held = q.held ++ (match o.fault with | some f => [(cls, f)] | none => []) ∧
      q'.mxFlags = (if cls = .mx then q.mxFlags ||| o.flags else q.mxFlags) ∧
      q'.rwFlags = (if cls = .rw then q.rwFlags ||| o.flags else q.rwFlags) ∧
      q'.sgFlags = (if cls = .sg then q.sgFlags ||| o.flags else q.sgFlags))

/-- R388, R389, R391 to R395, R397, R402: the events of the combine buffer. A CBOPEN whose block is good opens its context; a row that has
come is placed in its token's slot, discarded to the late log, or held; the last element of a row completes its rank; a readmission
empties the ring's head; a complete token, or one at its timeout, is released; a CBCLOSE closes its context; a held CBPUT overflows. The
gang of a CBPUT that is answered goes on, and that of a CBSTAT that is served no longer blocks. What the buffer reads holds no error
(R435). The sum of a token runs in order of expert, then rank. It rests
on the model's reading in notes/assumptions 24, 25. -/
def Obligations.CombineEvents : Prop :=
  (∀ (s : State) (die : Nat) (o : EngOp) (w : FM) (c : CbCtx), die < s.dies.length → OneOp s o → s.headCb die = some o → o.i = .cbopen w →
    cbPlan (s.startCb die o) o = .ok c → Does (.contextOpen die) s fun t => SameMem t s ∧ SameRegs t s ∧
      (∃ x ∈ t.ops, x.id = o.id ∧ x.done = true) ∧ ∃ tag, (t.die die).ctx (s.opCtx o) = { c with tag := tag } ∧ c.isOpen = true) ∧
  (∀ (s : State) (die : Nat) (o : EngOp) (w : FM) (ps : List (Nat × Nat)), die < s.dies.length → OneOp s o → s.headCb die = some o → o.i = .cbput w →
    s.readmitting die = false → s.overdue die o = false →
    let key := s.opCtx o
    let c := (s.die die).ctx key
    let token := o.b.toNat % 65536
    let rank := o.b.toNat / 65536 % 8
    o.ctxNum < s.ctxShare die → c.isOpen = true → putPieces s o (w.mod.getLsbD 3) c = .ok ps → s.eccPieces ps = none →
    (∀ fresh, c.fate token rank false = .slot fresh → Does (.rowAdmission die) s fun t => SameMem t s ∧ SameRegs t s ∧
      (∃ z, (((t.die die).ctx key).tok token).slot = some z ∧ z.flight.getLsbD rank = true) ∧
      (∃ x ∈ (t.die die).rowsIn, x.ctx = key ∧ x.token = token ∧ x.rank = rank ∧ x.op = some o.id ∧ x.pieces = ps) ∧
      ∀ y ∈ t.gangs, y.id = o.gang → y.wait ≠ .cbput false) ∧
    (∀ r, c.fate token rank false = .discard r → Does (.rowAdmission die) s fun t => SameMem t s ∧ SameRegs t s ∧
      ((t.die die).ctx key).late = c.late + 1 ∧ (∃ x ∈ t.ops, x.id = o.id ∧ x.done = true) ∧ ∀ y ∈ t.gangs, y.id = o.gang → y.wait ≠ .cbput false) ∧
    (c.fate token rank false = .ring → Does (.rowAdmission die) s fun t => SameMem t s ∧ SameRegs t s ∧
      ((t.die die).ctx key).rtags = c.rtags ++ [(token, rank)] ∧ (∃ x ∈ t.ops, x.id = o.id ∧ x.done = true) ∧
      ∀ y ∈ t.gangs, y.id = o.gang → y.wait ≠ .cbput false) ∧
    (c.fate token rank false = .hold → Does (.rowAdmission die) s fun t => SameMem t s ∧ SameRegs t s ∧ ∃ since, (t.die die).heldPut = some (o.id, since))) ∧
  (∀ (s : State) (die : Nat) (x : RowFlight) (z : Slot), die < s.dies.length → (s.die die).rowsIn.find? (fun y => y.id == x.id) = some x →
    (∀ n, x.op = some n → ∃ y ∈ s.ops, y.id = n) → x.token < ((s.die die).ctx x.ctx).toks.length →
    let c := (s.die die).ctx x.ctx
    (c.tok x.token).released = false → (c.tok x.token).slot = some z → c.timedOut x.token s.now = false →
    Does (.rowComplete die x.id) s fun t => SameMem t s ∧ SameRegs t s ∧
      (((t.die die).ctx x.ctx).tok x.token).slot = some { z with flight := z.flight &&& ~~~(rankBit x.rank), bits := z.bits ||| rankBit x.rank, rows := z.rows ++ [(x.rank, if x.op = none then x.row else readPieces (s.view x.core) x.pieces)] }) ∧
  (∀ (s : State) (die key token rank : Nat) (rest : List (Nat × Nat)) (fresh : Bool), die < s.dies.length →
    let c := (s.die die).ctx key
    c.rtags = (token, rank) :: rest → c.isOpen = true → c.fate token rank true = .slot fresh →
    s.cbErr c (c.ring + c.rhead * c.ringEntry + 128) c.rowBytes = none →
    Does (.ringReadmission die key) s fun t => SameMem t s ∧ SameRegs t s ∧ ((t.die die).ctx key).rtags = rest ∧
      ∃ x ∈ (t.die die).rowsIn, x.ctx = key ∧ x.token = token ∧ x.rank = rank ∧ x.op = none) ∧
  (∀ (s : State) (die key token : Nat),
    let c := (s.die die).ctx key
    let released (t : State) : Prop := SameMem t s ∧ (((t.die die).ctx key).tok token).released = true ∧
      (((t.die die).ctx key).tok token).slot = none ∧ ((t.die die).ctx key).done = c.done + 1
    c.isOpen = true →
    (token < c.t → (c.tok token).released = false → (c.tok token).complete = true → Does (.tokenRelease die key token) s fun t => released t ∧ SameRegs t s) ∧
    (c.timedOut token s.now = true → Does (.tokenTimeout die key token) s fun t =>
      released t ∧ (c.policy ≠ 3 → (c.policy = 2 → s.cbErr c (c.fbk + token * c.fstride) c.rowBytes = none) → SameRegs t s))) ∧
  (∀ (s : State) (die : Nat) (o : EngOp) (w : FM), die < s.dies.length → OneOp s o → s.headCb die = some o → o.i = .cbclose w →
    o.ctxNum < s.ctxShare die → ((s.die die).ctx (s.opCtx o)).isOpen = true → s.ctxQuiet die (s.opCtx o) = true →
    (let c := (s.die die).ctx (s.opCtx o)
     c.policy = 2 → ∀ token, s.cbErr c (c.fbk + token * c.fstride) c.rowBytes = none) →
    Does (.contextClose die) s fun t => SameMem t s ∧ SameRegs t s ∧ ((t.die die).ctx (s.opCtx o)).isOpen = false ∧
      ∃ x ∈ t.ops, x.id = o.id ∧ x.done = true) ∧
  (∀ (s : State) (die since : Nat) (o : EngOp) (l : Launch), die < s.dies.length → (s.die die).heldPut = some (o.id, since) → s.headCb die = some o →
    let c := (s.die die).ctx (s.opCtx o)
    since + c.blockT ≤ s.now → c.fate (o.b.toNat % 65536) (o.b.toNat / 65536 % 8) false = .hold → s.readmitting die = false → s.launch? o.launch = some l →
    Does (.combineOverflow die) s fun t => SameMem t s ∧ ((t.die die).ctx (s.opCtx o)).late = c.late + 1 ∧
      ∃ v rest, t.events = s.events ++ v :: rest ∧ v.kind = 1 ∧ v.handle = o.launch ∧ v.frec.code = 0x38) ∧
  (∀ (s : State) (g : Gang) (q : Squad), s.here? = some (g, q) →
    (g.wait = .cbput true → Does .cbputAnswer s fun t => SameMem t s ∧ SameRegs t s ∧ Passed t { g with ready := s.now }) ∧
    (∀ x rest, g.stats = x :: rest → (∀ o ∈ s.ops, o.squad = q.id → o.isCb = true → o.id < x.id →
        o.started = true ∨ o.done = true ∨ ∃ since, (s.die (dieOf q.core)).heldPut = some (o.id, since)) → x.ctx < s.ctxShare (dieOf q.core) →
      let c := (s.die (dieOf q.core)).ctx (ctxKey (s.spaceIds q.launch).1 x.ctx)
      let v := match x.sel with
        | 0 => c.nslot - c.slotsUsed | 1 => c.rtags.length | 2 => c.done | 3 => c.miss | 4 => c.late | _ => if c.isOpen then 1 else 0
      Does .cbstatResult s fun t => SameMem t s ∧ Wrote t { g with lanes := x.lanes } q (Common.ofWord x.word) 1 (fun _ => v) ∧
        ∃ y, t.gang? g.id = some y ∧ (∀ z ∈ y.stats, z.id ≠ x.id) ∧ x.id ∉ y.block ∧ y.pc = g.pc ∧ y.pos = g.pos ∧ y.wait = g.wait)) ∧
  (∀ (c : CbCtx) (t : Nat) (ranks : List Nat), (c.sumOrder t ranks).Perm ranks ∧
    (c.sumOrder t ranks).Pairwise fun a b => c.expert t a < c.expert t b ∨ (c.expert t a = c.expert t b ∧ a ≤ b))

/-! ## The task engine's and the launches' events -/

/-- R20, R21, R216, R233, R249, R351 to R359, R361, R364: the events of launches. A record is read for its entry, and the tasks of a TSPAWN
enter as pending launches; the next entry is accepted into the table, or rejected with the offset and the reason; the first launch of a
group places its next team, each squad with its threads' work identifiers and the parameter block; a roaming launch that fits sends one
leaf for each thread (what the other chips of its address space hold is open); a squad whose lanes have all exited is freed; a launch with nothing left adds 1 to its completion word, and then
is complete; a spent job slice, and an intake that has waited for 1,000,000 cy, are reported. It rests on the model's reading in
notes/assumptions 9, 14, 15, 26, 27, 54, 55. -/
def Obligations.LaunchEvents : Prop :=
  (∀ (s : State) (p : PendLaunch) (ps : List (Nat × Nat)), s.pendLaunch.find? (fun x => x.id == p.id) = some p → p.bytes = none →
    p.held = none → taskRange s p.parent p.team p.die { lateral := false } false p.addr.toNat 128 = .ok ps →
    Does (.launchRecordRead p.id) s fun t => SameMem t s ∧ SameRegs t s ∧
      { p with bytes := some (readPieces (s.view p.core) ps), ready := s.now } ∈ t.pendLaunch) ∧
  (∀ (s : State) (o : EngOp) (w : FM) (p : TaskPlan), s.pendLaunch.find? (fun x => x.id == o.id) = none →
    s.ops.find? (fun x => x.id == o.id) = some o → o.i = .tspawn w → o.started = false → o.held = none →
    taskPlan s o (w.mod.getLsbD 0) = .ok p → (∀ e ∈ s.ents, e.refused = false ∧ (e.isRed = true → s.eccDouble e.home e.post.len = none)) →
    Does (.launchRecordRead o.id) s fun t => SameRegs t s ∧ ∃ new, t.pendLaunch = s.pendLaunch ++ new ∧ new.length = p.tasks.length ∧
      ∀ k x e tile tokens group, new[k]? = some x → p.tasks[k]? = some (e, tile, tokens, group) →
        x.op = some o.id ∧ x.parent = o.launch ∧ x.bytes = some (withGroup p.tmpl group) ∧
        x.task = some [BitVec.ofNat 32 e, BitVec.ofNat 32 tile, BitVec.ofNat 32 tokens, BitVec.ofNat 32 k]) ∧
  (∀ (s : State) (die : Nat) (p : PendLaunch), die < s.dies.length → s.nextAccept die = some p → s.tableOcc die < 4096 →
    s.launch? p.handle = none →
    let bs := p.bytes.getD []
    let l : Launch := { handle := p.handle, die := die, fn := p.fn, asc := p.asc, r := LaunchRec.ofBytes bs, parent := p.parent,
                        pteam := p.team, task := p.task, cmd := p.cmd, accepted := s.now, pc := p.pc, addr := p.addr }
    let s1 : State := { s.modDie die (fun d => { d with intakeSince := none, intakeReported := false }) with
                        pendLaunch := s.pendLaunch.filter fun x => x.id != p.id }
    let s2 := if p.queued then (s1.entryOp p).serveLaunches p.core 4 else s1.entryOp p
    let s3 : State := { s2 with launches := s2.launches ++ [l] }
    let goesOn (t : State) : Prop := SameRegs t s2 ∧ t.pendLaunch = s2.pendLaunch ∧ ((∀ e ∈ s.ents, e.refused = false ∧ (e.isRed = true → s.eccDouble e.home e.post.len = none)) → (∃ rest, s2.pendLaunch = s1.pendLaunch ++ rest) ∧
      ((p.queued = false ∨ (s1.entryOp p).launchWaiters p.core = []) → SameRegs t s ∧ t.pendLaunch = s1.pendLaunch))
    (p.ended = true → Does (.launchAccept die) s fun t => goesOn t ∧ t.events = s2.events ∧
      ∃ x ∈ t.launches, x.handle = p.handle ∧ x.st = .failed) ∧
    (p.ended = false → ∀ off reason, recordFault s3 l bs = some (off, reason) → Does (.launchAccept die) s fun t => goesOn t ∧
      (∃ x ∈ t.launches, x.handle = p.handle ∧ x.st = .failed) ∧
      ∃ v, t.events = s2.events ++ [v] ∧ v.kind = 4 ∧ v.handle = p.handle ∧ v.frec.code = 0x31 ∧ v.frec.pc = p.pc ∧ v.frec.addr = p.addr ∧
        v.frec.detail = BitVec.ofNat 64 (off + 256 * reason + 65536 * (p.handle.toNat % 2 ^ 48))) ∧
    (p.ended = false → recordFault s3 l bs = none →
      let sa := s3.modDie die fun d => { d with taccept := d.taccept + 1 }
      let s4 := (sa.modLaunch p.handle fun x => { x with donewHome := if l.r.donew = 0 then none else doneCheck sa l }).writeHandle l
      let rd := p.reads.getD (readsOf s4 l)
      rd.fault = none → (l.r.dsize = true → rd.size ≤ 2 ^ l.r.width (l.r.fcount - 1)) →
      let r := if l.r.dsize then { l.r with extents := l.r.extents.mapIdx fun k n => if k = l.r.fcount - 1 then rd.size else n } else l.r
      Does (.launchAccept die) s fun t => goesOn t ∧
        ∃ x ∈ t.launches, x.handle = p.handle ∧ x.r = r ∧ x.pc = p.pc ∧ x.addr = p.addr ∧ x.parent = p.parent ∧ x.accepted = s.now ∧
          x.st = (if r.product 0 r.fcount = 0 then .running else if r.roam then .admitting else .placing) ∧
          x.teams = (if r.product 0 r.fcount = 0 ∨ r.roam = true then 0 else r.product r.tlevel r.fcount) ∧
          x.params = (match p.task with
            | some ws => rd.params.mapIdx fun k v => if 28 ≤ k then ws.getD (k - 28) 0 else v
            | none => rd.params))) ∧
  (∀ (s t : State) (group : Nat) (l : Launch), s.firstIn group = some l → s.returning l.handle group = none →
    (∀ g, g < group → s.hasNew l g = true → s.firstIn g = some l → s.placeTeam l g = none) → s.placeTeam l group = some t →
    exec (.teamPlace group) s = .next t ∧ SameMem t s ∧
    (∃ x, t.teams = s.teams ++ [x] ∧ x.launch = l.handle ∧ x.index = BitVec.ofNat 64 l.next ∧ x.group = group ∧
      x.cores = s.teamCores group l.r.ncore ∧ x.scratch = l.r.scratch ∧
      (∃ new, t.squads = s.squads ++ new ∧ new.map (·.index) = squadOrder l.r ∧ ∀ q ∈ new,
        q.team = x.id ∧ q.launch = l.handle ∧ q.vcore = q.index % x.cores.length ∧ q.core = x.cores.getD q.vcore 0 ∧ q.shadow = l.r.urgent ∧
        (∀ k, k < 32 → ((q.lane k).st = .run ↔ 32 * q.index + k < l.r.tthreads) ∧ (q.lane k).v = [] ∧ (q.lane k).p = 0 ∧
          (32 * q.index + k < l.r.tthreads → (q.lane k).wid = BitVec.ofNat 64 (widOf l.r l.next (32 * q.index + k)))) ∧
        (∀ k, k < 32 → k < l.r.sregs → regGet q.u k = l.params.getD k 0) ∧
        ∃ g ∈ t.gangs, g.squad = q.id ∧ g.lanes = q.existing ∧ g.pc = l.r.entry ∧ g.phase = .head)) ∧
    ∃ y ∈ t.launches, y.handle = l.handle ∧ y.next = l.next + 1) ∧
  (∀ (s : State) (h : Nat) (l : Launch), s.launch? (BitVec.ofNat 64 h) = some l → l.st = .admitting →
    ((s.launches.filter fun x => x.fn == l.fn && x.admitted).map Launch.demand).foldl (· + ·) 0 + l.demand ≤
      s.poolCapacity (s.spaceOf l.handle).1 →
    let chips := (s.spaceOf l.handle).2.nchip
    let enters (t : State) : Prop :=
      (∃ new, t.flights = s.flights ++ new ∧ new.length = l.r.product 0 l.r.fcount ∧ ∀ k f, new[k]? = some f → f.leaf.kind = 3 ∧
        f.leaf.pc = l.r.entry ∧ f.leaf.launch = l.handle ∧ f.leaf.wid = BitVec.ofNat 64 (widDigits l.r 0 l.r.fcount 0 k) ∧
        f.leaf.v = List.replicate 16 0 ∧
        (let start := (l.r.place.extractLsb' 0 9).toNat
         let v := if start = 0x1FF then k % (24 * (s.spaceOf l.handle).1.groupList.length) else start
         f.leaf.dcore = ((s.spaceOf l.handle).1.physCore v).getD v)) ∧
      ∃ y ∈ t.launches, y.handle = l.handle ∧ y.st = .running ∧ y.adm = true ∧ y.live = l.r.product 0 l.r.fcount
    Does (.roamingAdmission h) s fun t => SameMem t s ∧ SameRegs t s ∧
      (enters t ∨ (1 < chips ∧ t.launches = s.launches ∧ t.flights = s.flights)) ∧ (chips ≤ 1 → enters t)) ∧
  (∀ (s : State) (n : Nat) (q : Squad), s.squad? n = some q → q.roam = false → q.place = .resident → q.liveLanes = 0 → q.cnt.drained = true →
    s.squadPosts q = false → s.lastBusy q = false →
    (q.held = [] → Does (.squadRetire n) s fun t => t.squads.map squadFile = (s.squads.filter fun x => x.id != n).map squadFile ∧
      (∀ g ∈ t.gangs, g.squad ≠ n) ∧ (∀ f ∈ t.frames, f.squad ≠ some n) ∧
      ((∀ x ∈ s.squads, x.id ≠ n → x.team = q.team → x.roam = true) → ∀ y ∈ t.teams, y.id = q.team → y.retired = true) ∧
      ((∀ c ∈ s.cmds, q.team ∉ c.waits) → SameMem t s)) ∧
    (∀ k f rest, q.held = (k, f) :: rest → Does (.squadRetire n) s fun t =>
      ∃ v, t.events = s.events ++ [v] ∧ v.kind = 1 ∧ v.handle = q.launch ∧ v.frec = f)) ∧
  (∀ (s : State) (h : Nat) (l : Launch), s.launch? (BitVec.ofNat 64 h) = some l → s.launchOver l = true → s.openCtxs l.handle = false →
    (∀ home, l.donewHome = some home → l.doneUpd = false → Does (.launchComplete h) s fun t => SameMem t s ∧ SameRegs t s ∧
      (∃ u, t.upds = s.upds ++ [u] ∧ u.kind = .add 1 ∧ u.home = home ∧ u.launch = l.handle) ∧
      ∃ y ∈ t.launches, y.handle = l.handle ∧ y.doneUpd = true) ∧
    ((l.donewHome = none ∨ l.doneUpd = true) → (∀ u ∈ s.upds, u.launch ≠ l.handle) → Does (.launchComplete h) s fun t => SameRegs t s ∧
      (∃ y ∈ t.launches, y.handle = l.handle ∧ y.st = .complete (l.st == .failed)) ∧
      (∀ x ∈ t.teams, x.launch ≠ l.handle) ∧ (∀ f ∈ t.frames, f.launch ≠ l.handle) ∧ (s.cmds = [] → SameMem t s) ∧
      ∀ c, l.cmd = some c.id → s.cmd? c.id = some c → c.parent = none → (∀ x ∈ s.cmds, x.op ≠ 0x08 ∧ x.op ≠ 0x11) →
        Answered t s c (if l.st = .failed then 1 else c.status) h)) ∧
  (∀ (s : State) (n : Nat) (q : Squad) (l : Launch) (g : Gang), s.squad? n = some q → s.launch? q.launch = some l → q.roam = false →
    l.r.budget ≠ 0 → q.budget = 0 → q.place = .resident → g ∈ s.gangs → g.squad = n →
    Does (.budgetExhausted n) s fun t => ∃ v, t.events = s.events ++ [v] ∧ v.kind = 1 ∧ v.handle = q.launch ∧ v.core = q.core ∧
      v.frec.code = 0x30 ∧ v.frec.addr = l.addr ∧ v.frec.detail = BitVec.ofNat 64 (l.r.budget % 2 ^ 32)) ∧
  (∀ (s : State) (die since : Nat), (s.die die).intakeSince = some since → (s.die die).intakeReported = false → since + 1000000 ≤ s.now →
    Does (.taskEngineNoProgress die) s fun t => SameMem t s ∧ SameRegs t s ∧ (die < s.dies.length → (t.die die).intakeReported = true) ∧
      ∃ v, t.events = s.events ++ [v] ∧ v.kind = 3 ∧ v.die = die)

/-! ## Context frames, team frames and shadow contexts -/

/-- R26, R29, R30, R36 to R39, R47, R201, R363: the events of saved contexts. A partition changes to its shadow context and back; a squad whose
save is due gets a frame and stops, and is then written and freed, a fault save with an event for each parked fault; the frame holds the
registers where R26 puts them; a refused save begins again, that of a team without a resident squad at its team frame; a squad saved alone returns with the registers of its frame, each lane at the
clause and offset that the frame names, once no event of its faults is held (R422); a pre-empted team is written and a saved one returns, whole; and a partition without progress is
reported. It rests on the model's reading in notes/assumptions 14, 37, 40, 41, 42, 51. -/
def Obligations.FrameEvents : Prop :=
  (∀ (s : State) (core part : Nat), (s.part core part).shadow = false → s.bankQuiet core part false = true →
    (s.part core part).swapAt ≤ s.now →
    (∃ q ∈ s.squads, q.core = core ∧ q.part = part ∧ q.shadow = true ∧ q.place = .resident ∧ q.liveLanes ≠ 0) →
    Does (.shadowSwap core part) s fun t => SameMem t s ∧ SameRegs t s ∧ (t.part core part).shadow = true ∧
      (t.part core part).swapAt = s.now + 40) ∧
  (∀ (s : State) (core part : Nat), (s.part core part).shadow = true →
    (∀ q ∈ s.squads, q.core = core → q.part = part → q.shadow = true → q.place = .resident → q.liveLanes = 0) →
    Does (.shadowSwapBack core part) s fun t => SameMem t s ∧ SameRegs t s ∧ (t.part core part).shadow = false ∧
      (t.part core part).swapAt = s.now + 40) ∧
  (∀ (s : State) (n va : Nat) (q : Squad) (z : State), s.squad? n = some q → q.roam = false → q.place = .resident → q.saving = none →
    s.allocFrame q.launch q.layout.size (some q.id) none = .ok (va, z) →
    let stops (i : Instr) (kind : Nat) : Prop := Does i s fun t => SameMem t s ∧ SameRegs t s ∧ t.frames = z.frames ∧
      ∃ q', t.squad? n = some q' ∧ q'.saving = some kind
    ((q.refused = false ∨ q.refKind ≠ 2) → s.faultSaveDue q = true → stops (.faultSave n) 2) ∧
    ((q.refused = false ∨ q.refKind ≠ 3) → s.swapOutDue q = true → stops (.swapOut n) 3) ∧
    (q.refused = true → q.retry = true → s.faultSaveDue q = true → stops (.saveRetry q.team n) 2) ∧
    (q.refused = true → q.retry = true → s.faultSaveDue q = false → s.swapOutDue q = true → stops (.saveRetry q.team n) 3)) ∧
  (∀ (s : State) (n m : Nat) (t : Team), s.squad? m = none → s.team? n = some t → t.refused = true → t.retry = true → t.saved = none →
    t.retired = false → s.residents n = [] → exec (.saveRetry n m) s = exec (.teamSave n) s) ∧
  (∀ (s : State) (n va : Nat) (q : Squad) (z : State), s.squad? n = some q → q.roam = false → q.place = .resident → s.quiesced q = true →
    s.frameOf q = some va → (∀ e ∈ q.accErrs, e.2 = false) → s.writeSquad q = .ok z →
    let saved (i : Instr) (kind : Nat) (P : State → Prop) : Prop := q.saving = some kind → Does i s fun t => t.mem = z.mem ∧
      (∀ g ∈ t.gangs, g.squad ≠ n) ∧ (∃ q', t.squad? n = some q' ∧ q'.place = .saved kind (BitVec.ofNat 64 va) ∧ q'.saving = none) ∧ P t
    saved (.faultSave n) 2 (fun t => ∀ l, l < 32 → q.parkedLanes.getLsbD l = true → ∃ v ∈ t.events, v.kind = 2 ∧ v.handle = q.launch ∧
      v.frame = BitVec.ofNat 64 va ∧ v.frec = (q.lane l).frec) ∧
    saved (.swapOut n) 3 (fun t => (t.core q.core).swapouts = (s.core q.core).swapouts + 1)) ∧
  (∀ (q : Squad) (t : Team) (kind : Nat) (waiting : Lanes) (wait : Nat × Nat × Nat) (ls : List Machine.LaneFrame),
    let bs := frameBytes q t kind waiting wait ls
    let at4 (off : Nat) (v : W32) : Prop := fieldAt bs off 4 = v.toNat
    bs.length = q.layout.size ∧ at4 0x04 q.existing ∧ at4 0x08 q.parkedLanes ∧ at4 0x0C waiting ∧ fieldAt bs 0x10 8 = q.launch.toNat ∧
    (∀ l, l < 32 → fieldAt bs (0x100 + 8 * l) 8 = (ls.getD l {}).pc.toNat ∧ at4 (q.layout.pred + 4 * l) ((q.lane l).p.setWidth 32) ∧
      ∀ k, k < q.vregs → at4 (0x200 + 128 * k + 4 * l) (regGet (q.lane l).v k)) ∧
    ∀ k, k < q.sregs → at4 (q.layout.uni + 4 * k) (regGet q.u k)) ∧
  (∀ (s : State) (n kind : Nat) (frame : Word) (q : Squad) (t : Team) (l : Launch) (p : Nat) (z : State) (bs : List Byte),
    s.squad? n = some q → s.team? q.team = some t → s.launch? q.launch = some l → q.place = .saved kind frame → q.restorable = true → s.eventHeld q = false →
    t.saved = none → s.preempting t = false →
    s.chooseFrom (s.partsFor q.core q.team l.r.urgent l.r.footprint l.r.accs) = some (p, z) → z.readSquad q = .ok bs →
    let returns (i : Instr) : Prop := Does i s fun u => SameMem u s ∧
      (∀ f ∈ u.frames, f.launch = q.launch → f.va.toNat ≠ frame.toNat) ∧
      ∃ q', u.squad? n = some q' ∧ q'.place = .resident ∧ q'.core = q.core ∧ q'.part = p ∧
        (∀ k, k < q.sregs → (regGet q'.u k).toNat = fieldAt bs (q.layout.uni + 4 * k) 4) ∧
        ∀ i, i < 32 → (fieldAt bs 4 4).testBit i = true →
          (q'.lane i).p.toNat = fieldAt bs (q.layout.pred + 4 * i) 4 % 2 ^ 24 ∧ (q'.lane i).ff.toNat = fieldAt bs (0x50 + i) 1 % 32 ∧
          (∀ k, k < q.vregs → (regGet (q'.lane i).v k).toNat = fieldAt bs (0x200 + 128 * k + 4 * i) 4) ∧
          ((fieldAt bs 0xB8 4).testBit i = false → ∃ g ∈ u.gangs, g.squad = n ∧ g.lanes.getLsbD i = true ∧
            g.pc.toNat = fieldAt bs (0x100 + 8 * i) 8 ∧ g.resume = fieldAt bs (0x70 + i) 1)
    (kind = 2 → returns (.faultRestore n)) ∧ (kind = 3 → returns (.swapIn n))) ∧
  (∀ (s : State) (n : Nat) (t : Team) (z z' : State), s.team? n = some t → t.saved = none → t.retired = false →
    t.preempt.isSome = true → s.teamBusy n = false → s.residents n ≠ [] →
    (∀ q ∈ s.residents n, q.saving = some 1 ∧ s.quiesced q = true ∧ ∀ e ∈ q.accErrs, e.2 = false) →
    (∀ e ∈ s.ents, e.isRed = true → s.eccDouble e.home e.post.len = none) →
    (s.residents n).foldlM (fun (s : State) q => s.writeSquad ((s.squad? q.id).getD q)) s = .ok z →
    z.writeTeam ((z.team? n).getD t) = .ok z' →
    Does (.teamSave n) s fun u => (∃ x, u.team? n = some x ∧ x.saved.isSome = true ∧ x.preempt = none) ∧
      (∀ q ∈ s.residents n, (∃ q' ∈ u.squads, q'.id = q.id ∧ ∃ va, q'.place = .saved 1 va) ∧ ∀ g ∈ u.gangs, g.squad ≠ q.id) ∧
      (s.cmds = [] → u.mem = z'.mem)) ∧
  (∀ (s : State) (n : Nat) (t : Team) (l : Launch) (frame : Word) (bases : List Nat) (z z' : State) (seats : List (Squad × Nat × Nat × Nat))
    (head bars : List Byte) (frames : List (List Byte)),
    let qs := sortBy (fun (a b : Squad) => decide ((squadOrder l.r).idxOf a.index ≤ (squadOrder l.r).idxOf b.index))
      (s.squads.filter fun q => q.team == n && !q.roam)
    let cores := s.teamCores t.group l.r.ncore
    let marks := stackMarks s t.launch (frame.toNat + 0x780 + t.scratch) t.threads
    s.team? n = some t → s.launch? t.launch = some l → t.saved = some frame → s.mayReturn t = true → s.firstIn t.group = some l →
    s.returning l.handle t.group = some t → s.heldInTeam n = false → (s.squads.map (·.id)).Nodup →
    s.teamBases cores l.r.scratch = some (bases, z) → z.seats l cores qs = some (seats, z') →
    s.frameRead t.launch frame.toNat 0x700 = some head → s.frameRead t.launch (frame.toNat + 0x700 + t.scratch) 128 = some bars →
    s.frameErr t.launch frame.toNat (marks.2 - frame.toNat) = none → teamFault t head bars (marks.2 - frame.toNat) = none →
    seats.foldlM (fun (acc : List (List Byte)) x => (s.readSquad x.1).map fun bs => acc ++ [bs]) [] = .ok frames →
    Does (.teamRestore n) s fun u => (∃ x ∈ u.teams, x.id = n ∧ x.saved = none ∧ x.cores = cores ∧ x.base = bases) ∧
      ∀ q ∈ qs, ∃ q', u.squad? q.id = some q' ∧ q'.place = .resident ∧ q'.core = cores.getD q.vcore 0) ∧
  (∀ (s : State) (core part : Nat) (f : Fn), s.residentGangs core part ≠ [] → (s.part core part).reported = false →
    (s.part core part).issued + 1000000 ≤ s.now →
    (∀ x ∈ s.residentGangs core part, x.1.waits = true ∧ (x.1.wait ≠ .none → x.1.since + 1000000 ≤ s.now)) → s.fns.find? (fun f => f.owns core) = some f →
    Does (.noProgress core part) s fun t => SameMem t s ∧ SameRegs t s ∧ (t.part core part).reported = true ∧
      (f.policy = false → t.squads = s.squads ∧ t.teams = s.teams) ∧
      ∃ v rest, t.events = s.events ++ v :: rest ∧ v.kind = 3 ∧ v.fn = f.id ∧ v.die = dieOf core ∧ v.core = core ∧ v.part = part)

/-! ## The host's registers, its commands, and what it is told -/

/-- R410, R413, R415, R422: the host's writes. ENABLE from 0 to 1 restarts the admin queue and the event ring, and READY follows AQLOG; a 0
disables; QERR clears by writing 1; EVHEAD and the other RW registers take the value written; a doorbell moves its tail forward, and one
that moves backwards or past the ring stops the queue; and the oldest event of a function enters its ring when it has room. It rests on the
model's reading in notes/assumptions 43. -/
def Obligations.HostRegisters : Prop :=
  (∀ (s : State) (n : Nat) (f : Fn), s.fn? n = some f → s.hostSees n = true →
    let leaves (i : Instr) (P : Fn → Prop) : Prop := Does i s fun t => SameMem t s ∧ SameRegs t s ∧ ∃ f', t.fn? n = some f' ∧ P f'
    let ok : Prop := 4 ≤ f.aqlog.toNat ∧ f.aqlog.toNat ≤ 16
    (f.enable = false → leaves (.enableWrite n true) fun f' => f'.enable = true ∧ f'.evhead = 0 ∧ f'.evtail = 0 ∧
      (f'.ready = true ↔ ok ∧ 5 ≤ s.boot.step) ∧
      (ok → f'.queues.find? (fun q => q.q == 0) =
        some { q := 0, ring := f.aqbase.toNat, cring := f.acbase.toNat, log := f.aqlog.toNat })) ∧
    (f.enable = true → leaves (.enableWrite n true) fun f' => f' = f) ∧
    leaves (.enableWrite n false) (fun f' => f' = { f with enable := false, ready := false }) ∧
    leaves (.qerrClear n) (fun f' => f'.qerr = false ∧ f'.enable = f.enable) ∧
    (f.enable = true → leaves (.qerrClear n) fun f' => f' = { f with qerr := false }) ∧
    (∀ v, leaves (.evheadWrite n v) fun f' => f' = { f with evhead := v }) ∧
    (∀ v, leaves (.registerWrite n 0x010 v) (fun f' => f' = { f with aqbase := v }) ∧
      leaves (.registerWrite n 0x018 v) (fun f' => f' = { f with acbase := v }) ∧
      leaves (.registerWrite n 0x020 v) (fun f' => f' = { f with aqlog := v.setWidth 5 }) ∧
      leaves (.registerWrite n 0x028 v) (fun f' => f' = { f with evbase := v }) ∧
      leaves (.registerWrite n 0x030 v) fun f' => f' = { f with evlog := v.setWidth 5 }) ∧
    (∀ v, n = 0 → Does (.registerWrite n 0x108 v) s (fun t => t = { s with boot := { s.boot with imgaddr := v } }) ∧
      Does (.registerWrite n 0x110 v) s fun t => t = { s with boot := { s.boot with imglen := v.setWidth 32 } })) ∧
  (∀ (s : State) (n k : Nat) (x : Queue) (tail : W32), s.queue? n k = some x → x.stopped = false → s.hostSees n = true →
    let back := (tail - BitVec.ofNat 32 x.tail).msb = true
    let past := 2 ^ x.log < (tail - BitVec.ofNat 32 x.head).toNat
    (¬(back ∨ past) → Does (.doorbellWrite n k tail) s fun t => SameMem t s ∧ SameRegs t s ∧ t.events = s.events ∧
      t.queue? n k = some { x with tail := tail.toNat }) ∧
    ((back ∨ past) → Does (.doorbellWrite n k tail) s fun t => SameMem t s ∧ SameRegs t s ∧
      t.queue? n k = some { x with stopped := true } ∧ (∃ f, t.fn? n = some f ∧ f.qerr = true ∧ (k = 0 → f.ready = false)) ∧
      ∃ v, t.events = s.events ++ [v] ∧ v.fn = n ∧ v.kind = 5 ∧ v.frame = BitVec.ofNat 64 k)) ∧
  (∀ (s : State) (n : Nat) (f : Fn) (e : Event), s.fn? n = some f → s.events.find? (fun e => e.fn == n) = some e → 1 + e.more ≤ f.evFree →
    Does (.eventWrite n) s fun t => SameRegs t s ∧ t.events = s.events.erase e ∧ t.irqs = s.irqs ++ [(n, none)] ∧
      (∃ f', t.fn? n = some f' ∧ f'.evtail = f.evtail + BitVec.ofNat 32 (1 + e.more)) ∧
      (e.kind ≠ 3 → t.mem.readBytes (hostHome (f.evbase.toNat + 64 * (f.evtail.toNat % 2 ^ f.evlog.toNat))) 64 =
        e.bytes (if e.core = 0xFFFF then 0xFFFF else f.virtCore e.core)))

/-- R411, R413, R414, R416 to R418, R422: the commands that do not concern running launches. LAUNCH reads its record and sends it to the task
engine; GRAPH reads its nodes, and completes when all have resolved; a ready node runs as its kind says; COPY copies, SIGNAL stores or adds,
and WAIT answers the value when its condition holds, at once or later, each at a word of the global aperture or of a vault; CREATE, DELETE, SETASC, CONFIG and POLICY change what they name.
Each completes with a record; an entry that names no command, or has a reserved bit set, completes with status 2 and no effect. It rests on
the model's reading in notes/assumptions 9, 45, 49, 75. -/
def Obligations.HostCommands : Prop :=
  (∀ (s : State) (f : Fn) (q : Queue) (bs : List Byte), s.headEntry? = some (f, q, bs) → (∀ x ∈ s.cmds, x.id < s.nextId ∧ x.op ≠ 0x11) →
    (∀ x ∈ s.cmds, x.fn = f.id → x.q = q.q → x.parent ≠ none) → opListed (fieldAt bs 0 1) = false ∨
      (fieldAt bs 0 1 = 0x14 ∧ (4 ≤ fieldAt bs 1 1 ∨ 64 ≤ fieldAt bs 4 4 ∨ q.q ≠ 0)) →
    let c := entryCmd s f q bs
    let z := begun s f q bs
    Does .policy s fun t => MemBut t z c s.mem ∧ SameRegs t s ∧ ∃ detail, Answered t z c 2 detail) ∧
  ∀ (s : State) (op : Nat) (f : Fn) (q : Queue) (bs : List Byte), Starts s op f q bs →
    let c := entryCmd s f q bs
    let z := begun s f q bs
    let quiet (t : State) : Prop := SameMem t s ∧ SameRegs t s
    let done (i : Instr) (status detail : Nat) (m : Memory) (P : State → Prop) : Prop := Does i s fun t =>
      Answered t z c status detail ∧ MemBut t z c m ∧ SameRegs t s ∧ P t
    let going (i : Instr) (c' : Cmd) : Prop := Does i s fun t => quiet t ∧ t.cmds = s.cmds ++ [c']
    (op = 0x01 → ((c.arg 1).toNat = 0 ∨ ∃ ps, cmdRange z c true (c.arg 1).toNat 8 8 = .ok ps) →
      ∀ ps, cmdRange z c false (c.arg 0).toNat 128 128 = .ok ps → Does .cmdLaunch s fun t => quiet t ∧
        (∃ c' ∈ t.cmds, c' = { c with handle := BitVec.ofNat 64 s.nextHandle }) ∧ ∃ x, t.pendLaunch = s.pendLaunch ++ [x] ∧ x.die = 0 ∧
          x.op = none ∧ x.handle = BitVec.ofNat 64 s.nextHandle ∧ x.addr = c.arg 0 ∧ x.bytes = some (readPieces s.mem ps) ∧
          x.cmd = some c.id ∧ x.fn = f.id ∧ x.asc = c.asc) ∧
    (op = 0x02 → ∀ ps, cmdRange z c false (c.arg 0).toNat (64 * ((c.arg 1).toNat % 8192)) 64 = .ok ps →
      let n := (c.arg 1).toNat % 8192
      let g := readPieces s.mem ps
      (graphOk g n = false → done .graph 2 0xFFFF s.mem fun _ => True) ∧
      (graphOk g n = true → n = 0 → done .graph 0 0xFFFF s.mem fun _ => True) ∧
      (graphOk g n = true → n ≠ 0 → going .graph { c with graph := g, nodes := List.replicate n (.waiting, 0, 0) })) ∧
    (op = 0x03 → (c.arg 2).toNat % 16 = 0 → ∀ src dst, cmdRange z c false (c.arg 0).toNat (c.arg 2).toNat 1 = .ok src →
      cmdRange z c true (c.arg 1).toNat (c.arg 2).toNat 1 = .ok dst →
      done .cmdCopy 0 0 (z.cmdWrite dst (readPieces s.mem src)).mem fun _ => True) ∧
    (op = 0x04 →
      ((c.arg 2).getLsbD 0 = false → ∀ home n rest, cmdWord z c true (c.arg 0).toNat 8 = .ok ((home, n) :: rest) →
        done .signal 0 0 (z.writeHome home (toBytes 8 (c.arg 1).toNat) (homeIsVault home)).mem fun _ => True) ∧
      ((c.arg 2).getLsbD 0 = true → ∀ home n rest, cmdWord z c true (c.arg 0).toNat 16 = .ok ((home, n) :: rest) →
        s.eccPieces ((home, n) :: rest) = none →
        done .signal 0 0 (s.mem.writeBytes home (toBytes 16 (swAdd (s.mem.readN home 16) ((c.arg 1).toNat % 2 ^ 40)))) fun _ => True)) ∧
    (op = 0x05 → ∀ home n rest,
      cmdWord z c false (c.arg 0).toNat (if (c.arg 2).getLsbD 0 then 8 else 16) = .ok ((home, n) :: rest) →
      (∀ v, waitValue s.mem c home = some v → done .cmdWait 0 v s.mem fun _ => True) ∧
      (waitValue s.mem c home = none → going .cmdWait { c with waits := [home] })) ∧
    (op = 0x10 →
      let k := (c.arg 0).toNat % 32
      let n := (c.arg 3).toNat % 32
      (k ≠ 0 → 4 ≤ n → n ≤ 16 → s.queue? f.id k = none → done .create 0 0 s.mem fun t =>
        t.queue? f.id k = some { q := k, ring := (c.arg 1).toNat, cring := (c.arg 2).toNat, log := n }) ∧
      ((k = 0 ∨ n < 4 ∨ 16 < n) → done .create 2 0 s.mem fun _ => True)) ∧
    (op = 0x11 →
      let k := (c.arg 0).toNat % 32
      k ≠ 0 → (s.queue? f.id k).isSome = true →
      ((∀ x ∈ s.cmds, x.fn = f.id → x.q ≠ k) → done .delete 0 0 s.mem fun t => t.queue? f.id k = none) ∧
      ((∃ x ∈ s.cmds, x.fn = f.id ∧ x.q = k) → Does .delete s fun t => quiet t ∧ t.cmds = s.cmds ++ [c] ∧
        ∃ y, t.queue? f.id k = some y ∧ y.stopped = true)) ∧
    (op = 0x12 →
      let n := (c.arg 0).toNat % 64
      let chip := (c.arg 3).toNat % 1024
      let nchip := (c.arg 3).toNat / 2 ^ 16 % 1024
      s.inFlight (fun x a => x == f.id && a == n) = false → (c.arg 1).toNat % 2 ^ 20 = 0 → (c.arg 2).toNat % 256 = 0 →
      (c.arg 2).toNat ≤ 2 ^ 20 → (c.arg 5).toNat % 4096 = 0 → (c.arg 6).toNat % 4096 = 0 → (nchip = 0 ∨ chip < nchip) →
      done .setasc 0 0 s.mem fun t => t.asc? f.id n = some {
        id := n, root := (c.arg 1).toNat, stack := (c.arg 2).toNat, chip := chip, nchip := nchip
        chips := (List.range nchip).map fun k => s.mem.readBytes (hostHome ((c.arg 4).toNat + 16 * k)) 16
        frameBase := (c.arg 5).toNat, frameLen := (c.arg 6).toNat }) ∧
    (op = 0x13 →
      let n := (c.arg 0).toNat % 32
      let groups : BitVec 16 := (c.arg 1).setWidth 16
      let ring := (c.arg 2).toNat
      let binwait := (c.arg 3).toNat % 1024
      let share := (c.arg 4).toNat % 512
      let stack := (c.arg 6).toNat % 2048
      let z' : State := { z with fns := configFns z n groups share ((c.arg 5).getLsbD 0) }
      n ≤ 16 → s.inFlight (fun x _ => x == n) = false → (∀ y, s.fn? n = some y → y.enable = true → ∀ x ∈ y.queues, n = 0 ∧ x.q = 0) →
      binwait ≠ 0 → share ≤ 256 → stack ≤ 1024 → ring % 256 = 0 → ring ≤ 2 ^ 20 → stack * 2 ^ 20 + 128 * ring ≤ 2 ^ 31 →
      (n ≠ 0 → ∀ y ∈ s.fns, y.id ≠ 0 → y.id ≠ n → y.groups &&& groups = 0) →
      (n ≠ 0 → ∀ y, s.fn? 0 = some y → y.groups &&& groups ≠ 0 → ∀ l ∈ s.launches, l.r.roam = true → l.fn = 0 → l.admitted = false) →
      (∀ d, d < 4 → z'.slotRegion d ≤ 256 * 2 ^ 20 ∧ (z'.slotRegion d = z.slotRegion d ∨
        ∀ x ∈ s.teams, x.retired = true ∨ x.saved.isSome = true ∨ ∀ k ∈ x.cores, dieOf k ≠ d)) →
      done .config 0 0 s.mem fun t => ∃ y, t.fn? n = some y ∧ y.share = share ∧ y.urgentOk = (c.arg 5).getLsbD 0 ∧
        (n ≠ 0 → y.groups = groups ∧ (y.enabled = true ↔ groups ≠ 0)) ∧
        ∀ k, k < 384 → y.owns k = true → (t.core k).ringCap = ring ∧ (t.core k).binwait = binwait ∧ (t.core k).stackRegion = stack * 2 ^ 20) ∧
    (op = 0x14 → done .policy 0 0 s.mem fun t => ∃ y, t.fn? f.id = some y ∧ y.policy = (c.arg 0).getLsbD 0)

/-- R418: what a command that has started does later. A WAIT whose condition comes to hold completes; a node of a graph whose predecessors
have all resolved, one of them taken, runs: an empty node completes, a conditional node completes with the truth of its word, and the
others start their commands. It rests on the model's reading in notes/assumptions 45. -/
def Obligations.CommandsGoOn : Prop :=
  (∀ (s : State) (c : Cmd) (home v : Nat) (rest : List Nat), s.cmd? c.id = some c → c.op = 0x05 → c.waits = home :: rest → c.parent = none →
    (∀ x ∈ s.cmds, x.op ≠ 0x11) → waitValue s.mem c home = some v →
    Does (.waitReevaluate c.id) s fun t => Answered t s c 0 v ∧ MemBut t s c s.mem ∧ SameRegs t s) ∧
  ∀ (s : State) (c : Cmd) (node resolved taken : Nat), s.cmd? c.id = some c → c.nodes[node]? = some (.waiting, resolved, taken) →
    resolved = nodePreds c.graph node → (nodePreds c.graph node = 0 ∨ taken ≠ 0) →
    let kind := nodeKind c.graph node
    let p := (List.range 3).map fun k => BitVec.ofNat 64 (nodeField c.graph node (8 + 8 * k) 8)
    let s1 := s.modCmd c.id fun x => x.setNode node .running
    let resolves (value : Bool) : Prop :=
      let c' := (c.setNode node .running).nodeDone node true value
      (∃ st r k, c'.nodes[node]? = some (st, r, k) ∧ st = .completed) ∧
      (c'.graphDone = false → Does (.graphNodeReady c.id node) s fun t => SameMem t s ∧ SameRegs t s ∧ c' ∈ t.cmds) ∧
      (c'.graphDone = true → c.failed = none → (∀ x ∈ s.cmds, x.op ≠ 0x11) →
        Does (.graphNodeReady c.id node) s fun t => Answered t s c 0 0xFFFF ∧ MemBut t s c s.mem ∧ SameRegs t s)
    (kind = 0 → resolves false) ∧
    (kind = 2 → ∀ ps, cmdRange s1 c false (p.getD 0 0).toNat 8 8 = .ok ps → resolves (ofBytes (readPieces s.mem ps) != 0)) ∧
    (kind ≠ 0 → kind ≠ 2 →
      let d : Cmd := { id := s.nextId, fn := c.fn, q := c.q, op := if kind = 1 then 0x01 else kind, tag := c.tag, irq := false, asc := c.asc
                       p := p, head := c.head, parent := some (c.id, node), since := s.now }
      let z : State := { s1 with nextId := s.nextId + 1, cmds := s1.cmds ++ [d] }
      (kind = 1 → exec (.graphNodeReady c.id node) s = .next (startLaunch d z)) ∧
      (kind = 3 → exec (.graphNodeReady c.id node) s = .next (startCopy d z)) ∧
      (kind = 4 → exec (.graphNodeReady c.id node) s = .next (startSignal d z)) ∧
      (kind = 5 → exec (.graphNodeReady c.id node) s = .next (startWait d z)))

/-- R37, R63, R419 to R421, R425: the commands on running launches. INVALIDATE removes the translations and lines of its range, and completes
when nothing awaits them; RESUME covers the parked lanes and lets go what is held, and completes once each item that it
covers has restarted or become eligible; PREEMPT stops the launch and begins to save its teams,
with HOLD as given; RELEASE lets the teams return; SUMMARY writes no more than its size, which DETAIL tells. It rests on the model's
reading in notes/assumptions 38, 39, 44, 76. -/
def Obligations.SchedulingCommands : Prop :=
  (∀ (s : State) (c : Cmd), s.cmds.find? (fun x => x.op == 0x06 && x.fn == s.cmdSel.1 && x.q == s.cmdSel.2 && !x.waits.any s.lives) = some c →
    s.cmd? c.id = some c → c.parent = none → (∀ x ∈ s.cmds, x.op ≠ 0x11) →
    Does .invalidate s fun t => Answered t s c 0 0 ∧ MemBut t s c s.mem ∧ SameRegs t s) ∧
  (∀ (s : State) (c : Cmd), s.cmds.find? (fun x => x.op == 0x07 && x.fn == s.cmdSel.1 && x.q == s.cmdSel.2 && !x.waits.any s.resuming) = some c →
    s.cmd? c.id = some c → c.parent = none → (∀ x ∈ s.cmds, x.op ≠ 0x11) →
    Does .resume s fun t => Answered t s c 0 c.count ∧ MemBut t s c s.mem ∧ SameRegs t s) ∧
  ∀ (s : State) (op : Nat) (f : Fn) (q : Queue) (bs : List Byte), Starts s op f q bs →
    let c := entryCmd s f q bs
    let z := begun s f q bs
    let lo := (c.arg 0).toNat
    let n := (c.arg 1).toNat
    (op = 0x06 → (∀ x ∈ s.cmds, x.op ≠ 0x06) → Does .invalidate s fun t => SameRegs t s ∧
      (∀ e ∈ t.tlb, e ∈ s.tlb ∧ ¬(e.asc = ascKey f.id c.asc ∧ meet e.va e.size lo n = true)) ∧
      (∀ e ∈ s.tlb, ¬(e.asc = ascKey f.id c.asc ∧ meet e.va e.size lo n = true) → e ∈ t.tlb) ∧
      (let dead (asc va : Nat) : Prop := asc = ascKey f.id c.asc ∧ meet (va / 2 ^ 30 * 2 ^ 30) (2 ^ 30) lo n = true
       (∀ x ∈ t.lines, x ∈ s.lines ∧ ¬dead x.asc x.va) ∧ (∀ x ∈ s.lines, ¬dead x.asc x.va → x ∈ t.lines) ∧
       ∀ r ∈ t.reqs, ∀ x, r.fill = some x → ¬dead x.1 x.2.1) ∧
      (let gone (e : TlbEntry) : Prop := e.asc = ascKey f.id c.asc ∧ meet e.va e.size lo n = true
       (∀ o ∈ t.ops, ∀ e ∈ o.tr, ¬gone e) ∧ ∀ x ∈ t.streams, ∀ e ∈ x.tr, ¬gone e) ∧
      (∀ g ∈ t.gangs, ∀ y, s.squad? g.squad = some y → s.inSpace f.id c.asc y.launch = true → g.wfault = []) ∧
      (s.walks = [] → s.reqs = [] → s.ents = [] → s.ops = [] → (∀ d ∈ s.dies, ∀ x ∈ d.ctxs, x.2.isOpen = false) →
        Answered t z c 0 0 ∧ MemBut t z c s.mem)) ∧
    (op = 0x07 → (∀ x ∈ s.cmds, x.op ≠ 0x07) → (∀ x ∈ s.squads, x.refused = false) → (s.squads.map (·.id)).Nodup →
      let covers (r : FaultRec) : Bool := decide (lo ≤ r.addr.toNat) && decide (r.addr.toNat < lo + n)
      let mine (h : Word) : Bool := s.inSpace f.id c.asc h
      let parked (x : Squad) : List Nat := (lanesOf x.parkedLanes).filter fun l => !(x.lane l).covered && covers (x.lane l).frec
      let held (r : Option FaultRec) : Bool := match r with | some r => covers r | none => false
      let count := (s.squads.filter fun x => !x.roam && mine x.launch && !(parked x).isEmpty).length +
        (s.ops.filter fun o => held o.held && mine o.launch).length + (s.streams.filter fun x => held x.held && mine x.launch).length +
        (s.pendLaunch.filter fun p => held p.held && p.fn == f.id && p.asc == c.asc).length +
        (s.launches.filter fun l => l.fn == f.id && l.asc == c.asc && match l.st with | .held r => covers r | _ => false).length +
        (s.upds.filter fun u => held u.held && (mine u.launch || (u.fn == f.id && u.asc == c.asc && (s.launch? u.launch).isNone))).length +
        (s.rings.filter fun r => held r.frec && mine r.leaf.launch).length
      Does .resume s fun t =>
        (Answered t z c 0 count ∨ ∃ c' ∈ t.cmds, c'.id = c.id ∧ c'.op = 0x07 ∧ c'.count = count ∧ c'.waits.any t.resuming = true) ∧
        (s.ops = [] → s.upds = [] → (∀ x ∈ s.squads, x.roam = false → mine x.launch = true → parked x ≠ [] →
            x.place ≠ .resident ∨ ∃ l ∈ lanesOf x.parkedLanes, l ∉ parked x ∧ (x.lane l).covered = false) →
          Answered t z c 0 count) ∧
        (∀ x ∈ s.squads, x.roam = false → mine x.launch = true → ∀ l ∈ parked x,
          ∃ x', t.squad? x.id = some x' ∧ (l < x.lanes.length → (x'.lane l).covered = true)) ∧
        ∀ p ∈ t.pendLaunch, p.fn = f.id → p.asc = c.asc → (∃ y ∈ s.pendLaunch, y.id = p.id ∧ held y.held = true ∧ y.fn = f.id ∧ y.asc = c.asc) →
          p.held = none) ∧
    (op = 0x08 → ∀ l, s.launch? (c.arg 0) = some l → l.fn = f.id → l.r.roam = false → (∀ e, l.st ≠ .complete e) →
      let hold := (c.arg 1).getLsbD 0
      ((∀ x ∈ s.teams, x.launch = l.handle → x.retired = true ∨ x.saved.isSome = true) → Does .preempt s fun t =>
        Answered t z c 0 (s.teams.filter fun x => x.launch == l.handle && !x.retired && x.saved.isSome).length ∧ MemBut t z c s.mem ∧
        SameRegs t s ∧ (∃ y ∈ t.launches, y.handle = l.handle ∧ y.stopped = hold)) ∧
      (∀ x ∈ s.teams, x.launch = l.handle → x.retired = false → x.saved = none → x.preempt = none → Does .preempt s fun t =>
        SameMem t s ∧ SameRegs t s ∧ (∃ y ∈ t.launches, y.handle = l.handle ∧ y.stopped = true) ∧
        (∃ y ∈ t.teams, y.id = x.id ∧ y.preempt = some (c.id, hold)) ∧ ∃ c' ∈ t.cmds, c'.id = c.id ∧ x.id ∈ c'.waits)) ∧
    (op = 0x09 → ∀ l, s.launch? (c.arg 0) = some l → l.fn = f.id → Does .release s fun t =>
      Answered t z c 0 0 ∧ MemBut t z c s.mem ∧ SameRegs t s ∧ (∃ y ∈ t.launches, y.handle = l.handle ∧ y.stopped = false) ∧
      ∀ x ∈ t.teams, x.launch = l.handle → x.holdRel = false) ∧
    (op = 0x0A →
      (lo % 4096 ≠ 0 → ∃ t, exec .summary s = .next t ∧ SameRegs t s ∧ Answered t z c 2 0 ∧ MemBut t z c s.mem) ∧
      (lo % 4096 = 0 → ∃ t size m, exec .summary s = .next t ∧ SameRegs t s ∧ MemBut t z c m ∧ 46 ≤ size ∧
        (size ≤ n → Answered t z c 0 size) ∧ (n < size → Answered t z c 1 46) ∧
        (lo % 2 ^ 51 + size ≤ 2 ^ 51 →
          ∀ a, (a < hostHome lo ∨ hostHome lo + (if size ≤ n then size else 46) ≤ a) → m.read a = s.mem.read a)))

/-! ## Bring-up, links, temperature and power -/

/-- R427, R429, R432 to R434: the events of bring-up and of the module. A part reset leaves slices and vaults zero and host memory as it is;
each bring-up step follows the one before; a port that fails or goes down is reported; a link that goes down ends the launches with traffic
on it; heat withholds issue cycles, and too much of it ends every launch and the power; either power connector lost is power lost; and a
recovery load writes a good image to the flash and resets the part. It rests on the model's reading in notes/assumptions 46, 47, 50. -/
def Obligations.BringupEvents : Prop :=
  ∀ s : State,
    let boot (i : Instr) (b : Boot) : Prop := Does i s fun t => t = { s with boot := b }
    (Does .partReset s fun t => t.boot = { State.reset.boot with flash := s.boot.flash } ∧ t.squads = [] ∧ t.gangs = [] ∧ t.teams = [] ∧
      t.launches = [] ∧ t.cores = [] ∧ t.tlb = [] ∧ t.fns = State.reset.fns ∧
      (∀ a, homeIsHost a = true → t.mem.read a = s.mem.read a) ∧
      ∀ a, (homeIsVault a = true ∨ (homeIsHost a = false ∧ homeChip a = 0)) → t.mem.read a = 0) ∧
    (s.boot.step = 0 → boot .powerGood { s.boot with step := 1 }) ∧
    (∀ die, die < 4 → s.dies.length = 4 → s.boot.step ≠ 0 → (s.die die).clock0 = none →
      Does (.pllLock die) s fun t => SameMem t s ∧ SameRegs t s ∧ (t.die die).clock0 = some s.now ∧
        (s.boot.step = 1 → (∀ d, d < 4 → d ≠ die → (s.die d).clock0.isSome = true) → t.boot.step = 2) ∧
        ((s.boot.step ≠ 1 ∨ ∃ d, d < 4 ∧ d ≠ die ∧ (s.die d).clock0 = none) → t.boot.step = s.boot.step)) ∧
    (s.boot.step = 2 → s.boot.recovery = false →
      (s.boot.flash = 2 → boot .firmwareCheck { s.boot with step := 3 }) ∧
      (s.boot.flash = 0 → boot .firmwareCheck { s.boot with recovery := true, cause := 1 }) ∧
      (s.boot.flash = 1 → boot .firmwareCheck { s.boot with recovery := true, cause := 2 })) ∧
    (∀ up, s.boot.step = 3 → boot (.ucieTraining up) { s.boot with step := 4, ucie := up }) ∧
    (s.boot.step = 4 → Does .hbmTraining s fun t => t.boot = { s.boot with step := 5 } ∧ SameRegs t s ∧
      (∀ a, homeIsHost a = true → t.mem.read a = s.mem.read a) ∧
      (∀ a, (homeIsVault a = true ∨ (homeIsHost a = false ∧ homeChip a = 0)) → t.mem.read a = 0) ∧
      ∀ f ∈ t.fns, f.ready = true ↔ f.enable = true ∧ ∃ q ∈ f.queues, q.q = 0) ∧
    (2 ≤ s.boot.step → s.boot.pcie = false → boot .pcieLinkUp { s.boot with pcie := true }) ∧
    (∀ up, 4 ≤ s.boot.step → s.boot.portsTrained = false → Does (.portTraining up) s fun t => SameMem t s ∧ SameRegs t s ∧
      t.boot = { s.boot with ports := up, portsTrained := true } ∧
      ∀ p, p < 8 → up.getLsbD p = false → ∃ v ∈ t.events, v.fn = 0 ∧ v.kind = 6 ∧ v.die = p / 2 ∧ v.frame = BitVec.ofNat 64 p) ∧
    (∀ p, p < 8 → s.boot.ports.getLsbD p = true → Does (.networkPortDown p) s fun t => SameMem t s ∧ SameRegs t s ∧
      t.boot.ports.getLsbD p = false ∧ (∀ k, k < 8 → k ≠ p → t.boot.ports.getLsbD k = s.boot.ports.getLsbD k) ∧
      ∃ v, t.events = s.events ++ [v] ∧ v.fn = 0 ∧ v.kind = 6 ∧ v.die = p / 2 ∧ v.frame = BitVec.ofNat 64 p) ∧
    (∀ link, link < 4 → 4 ≤ s.boot.step →
      let down : Boot := { s.boot with ucie := s.boot.ucie &&& ~~~(BitVec.ofNat 4 (2 ^ link)) }
      let sd : State := { s with boot := down }
      ((s.squads.map (·.id)).Nodup → Does (.ucieLinkDown link) s fun t => t.boot = down ∧ SameMem t s ∧
        ∀ l ∈ s.launches, sd.onLink link l.handle = true → t.launchEnded l.handle = true) ∧
      ((∀ l ∈ s.launches, ∀ p ∈ sd.traffic l.handle, sd.takesLink link p.1 p.2 = some false) → boot (.ucieLinkDown link) down)) ∧
    (∀ die dieTemp hbmTemp, die < s.dies.length → Does (.thermalThrottle die dieTemp hbmTemp) s fun t => SameMem t s ∧ SameRegs t s ∧
      (t.die die).throttle = min 750 (max (75 * (dieTemp - 100)) (150 * (hbmTemp - 90)))) ∧
    (∀ die dieTemp hbmTemp, (115 ≤ dieTemp ∨ 100 ≤ hbmTemp) → Does (.thermalShutdown die dieTemp hbmTemp) s fun t =>
      t.boot.powered = false ∧ ∀ l ∈ s.launches, t.launchEnded l.handle = true) ∧
    (∀ k, k < 2 → boot (.powerLoss k) { s.boot with powered := false }) ∧
    (s.hostSees 0 = true →
      let n := s.boot.imglen.toNat
      let a := s.boot.imgaddr.toNat
      let good := a % 4096 = 0 ∧ n ≤ 2 ^ 26 ∧ Config.imageGood (s.mem.readBytes (hostHome a) n) = true
      (good → Does .recoveryLoad s fun t => t = { s with boot := { s.boot with flash := 2, loadDone := true, loadFail := false }, agenda := .event 0 .partReset :: s.agenda }) ∧
      (¬good → boot .recoveryLoad { s.boot with loadDone := false, loadFail := true }))

/-! ## The whole machine -/

/-- R5, R55, R162, R258, R372, R384, R385, R411, R412, R433, R434: what reset leaves. No register of a program exists, for no launch does; the
clocks stand; the timers and tables hold what the rules give; every byte of memory reads 0, which is the rule for slices and vaults once
bring-up has ended and the model's choice for host memory (notes/assumptions/5.md). No rule gives these values, which are the model's: recovery
= false, tlb = [] and ringCap = 0 (notes/assumptions/3.md), and powered = true (notes/assumptions/46.md). -/
def Obligations.ResetState : Prop :=
  let s := State.reset
  s.now = 0 ∧ s.ptime = 0 ∧ s.boot.step = 0 ∧ s.boot.powered = true ∧ s.boot.pcie = false ∧ s.boot.recovery = false ∧
  s.launches = [] ∧ s.teams = [] ∧ s.squads = [] ∧ s.gangs = [] ∧ s.events = [] ∧ s.tlb = [] ∧
  (∀ a, s.mem.read a = 0) ∧
  (∀ c, (s.core c).binwait = 32 ∧ (s.core c).stackRegion = 256 * 2 ^ 20 ∧ (s.core c).ringCap = 0 ∧
    (∀ k, (s.cmp c k).en = false) ∧ ∀ p, (s.part c p).shadow = false) ∧
  (∀ d, s.clock d = 0 ∧ (s.die d).ctxs = [] ∧ (s.die d).taccept = 0) ∧
  ∃ f, s.fn? 0 = some f ∧ f.enable = false ∧ f.ready = false ∧ f.groups = 0xFFFF ∧ f.share = 64 ∧ ∀ n, n ≠ 0 → s.fn? n = none

/-- The state after reset is safe: its memory has the canonical form. -/
def Obligations.ResetSafe : Prop := Safe State.reset

/-- Every step keeps the memory's canonical form, from every state that has it, so that equal memories are equal data. -/
def Obligations.StepKeepsMemoryForm : Prop := ∀ s t : State, Safe s → step s = .next t → Safe t

/-- R31, R32, R95, R96, R107, R109, R179, R210, R229, R427: a step performs the first item of the agenda. When that is the issue of a gang that a
port of its partition chooses, and whose word decodes, it is that instruction in the state that the issue leaves: the item gone, the cycles
passed, the partition and the gang marked as having issued, and what the gang reads of uniform registers that another has just written
settled (R170); a word that does not decode takes ILLEGAL_ENCODING, and a terminal one that is not its clause's last ILLEGAL_CLAUSE. An item
that is an event is that event. Without power nothing steps. It rests on the model's reading in notes/assumptions 6, 7, 34, 59. -/
def Obligations.StepRunsDecoded : Prop :=
  (∀ (s : State) (dt n : Nat) (rest : List Agendum) (g : Gang) (q : Squad) (e : Eng), s.boot.powered = true → s.agenda = .issue dt n :: rest →
    let s1 : State := { ({ s with agenda := rest } : State).tick dt with cur := n }
    s1.here? = some (g, q) → s1.chosen g q = true → g.header.classAt g.pos = some e →
    let port := s1.portOf g q
    (e = .sfu → (s1.part q.core q.part).sfuFree ≤ s1.now ∧ s1.sfuBefore g q port = false) → s1.matching g q (g.pc + 8#64 * BitVec.ofNat 64 g.pos) = [] →
    let s2 := (s1.modPart q.core q.part fun p => { p with issued := s1.now, ports := s1.issuedNow q.core q.part ++ [(n, port)], reported := false }).modGang n
      fun x => { x with skipCmp := true, boost := 0, ready := s1.now, port := some port }
    (g.misplaced = true → step s = .next (s2.decodeTrap g 0x03)) ∧
    (g.misplaced = false → ∀ i, decodeWord e (g.header.isTailAt g.pos) g.word = .ok i →
      let s3 := s2.uniformView g q (regLatency e i g.word)
      step s = exec i (if e = .sfu then s3.modPart q.core q.part fun p => { p with sfuFree := s1.now + sfuInterval g.word } else s3) ∧
      ((∀ x ∈ s2.gangs, x.squad = q.id → x.id = n) → q.us = {} → s3 = s2)) ∧
    (g.misplaced = false → ∀ r, decodeWord e (g.header.isTailAt g.pos) g.word = .error r → step s = .next (s2.decodeTrap g 0x01))) ∧
  (∀ (s : State) (dt : Nat) (rest : List Agendum) (i : Instr), s.boot.powered = true → i.isEvent = true →
    (s.agenda = .event dt i :: rest → step s = exec i (({ s with agenda := rest } : State).tick dt)) ∧
    (∀ n, s.agenda = .gang dt n i :: rest → step s = exec i { ({ s with agenda := rest } : State).tick dt with cur := n }) ∧
    ∀ f k, s.agenda = .cmd dt f k i :: rest → step s = exec i { ({ s with agenda := rest } : State).tick dt with cmdSel := (f, k) }) ∧
  ∀ s : State, s.boot.powered = false → (∀ dt rest, s.agenda ≠ .event dt .partReset :: rest) → step s = .fault .unpowered

/-- R99, R104, R105, R109: words written out from the encoding tables, one or more of each class, decode to the instructions that they stand
for; an opcode without a row is UNASSIGNED_OPCODE, and a word with a reserved bit set is rejected. -/
def Obligations.DecodeWords : Prop :=
  let c (dk : DK) (dn : BitVec 9) : Common := { gp := 31, gn := false, dk := dk, dn := dn, nw := false, le := false, ln := 0 }
  decodeWord .lane false 0x21F806800580C001 = .ok (.fmul { c := c .vec 13, sa := .vec 11, sb := .vec 12, mod := 1 }) ∧
  decodeWord .lane false 0x19FA00000200200D = .ok (.icmp { c := c .pred 0, sa := .vec 4, sb := .vec 2, mod := 13 }) ∧
  decodeWord .sfu false 0x84F8060005000000 = .ok (.rcpAcc { c := c .vec 12, sa := .vec 10, sb := .vec 0, mod := 0 }) ∧
  decodeWord .sfu false 0x8EF8018000802000 = .ok (.fdivAcc { c := c .vec 3, sa := .vec 1, sb := .vec 2, mod := 0 }) ∧
  decodeWord .mem false 0x00F8050002006FF0 = .ok (.ld { c := c .vec 10, base := .vec 4, mod := 6, off := -16 }) ∧
  decodeWord .sync false 0x09F8010000000005 = .ok (.cntrd { c := c .vec 2, sa := .vec 0, sb := .vec 0, mod := 5 }) ∧
  decodeWord .copy false 0x07FB0001FF202000 = .ok (.tmove { c := c .none 0, sa := .uni 510, sb := .uni 2, mod := 0 }) ∧
  decodeWord .mtx false 0x07F802031F800000 = .ok (.acrd { c := c .vec 4, sa := .imm 63, sb := .vec 0, mod := 0 }) ∧
  decodeWord .row false 0x03FB000103000000 = .ok (.pbound { c := c .none 0, sa := .uni 6, sb := .vec 0, mod := 0 }) ∧
  decodeWord .sig false 0x00FB000101000000 = .ok (.sign { c := c .none 0, sa := .uni 2, sb := .vec 0, mod := 0 }) ∧
  decodeWord .task false 0x05FB000102002000 = .ok (.swapout { c := c .none 0, sa := .uni 4, sb := .vec 2, mod := 0 }) ∧
  decodeWord .exp false 0x00FB000102605001 = .ok (.route { c := c .none 0, sa := .uni 4, sb := .imm 5, mod := 1 }) ∧
  decodeWord .mig false 0x00F8008001004000 = .ok (.spawn { c := c .vec 1, sa := .vec 2, sb := .vec 4, mod := 0 }) ∧
  decodeWord .mig false 0x01FB000001000000 = .ok (.migr { c := c .none 0, base := .vec 2, off := 0, mod := 0 }) ∧
  decodeWord .mig false 0x04FB000000000001 = .ok (.pin { c := c .none 0, sa := .vec 0, sb := .vec 0, mod := 1 }) ∧
  decodeWord .ctl true 0x00FB000000000000 = .ok (.nop { c := c .none 0, sa := .vec 0, sb := .vec 0, mod := 0 }) ∧
  decodeWord .ctl true 0x0FFB000000000000 = .ok (.unassignedOpcode 11 true 0x0FFB000000000000) ∧
  (decodeWord .ctl true 0x00FB000000000001).toOption = none

/-- R93, R99, R104, R105, R109: decoding and encoding agree, with every operand at every value that the encoding admits. The word of a
well-formed instruction decodes to it in the space of its class; and a word that decodes to an instruction with an opcode is that
instruction's word, well-formed. -/
def Obligations.DecodeEncode : Prop :=
  (∀ (i : Instr) (e : Eng) (op : BitVec 8) (tail : Bool), i.opcode = some (e, op) → i.wf = true →
    decodeWord e tail (encode i) = .ok i ∧ opBits (encode i) = op) ∧
  (∀ (e : Eng) (tail : Bool) (w : Word) (i : Instr), decodeWord e tail w = .ok i →
    (∃ op, i.opcode = some (e, op) ∧ i.wf = true ∧ encode i = w) ∨ i = .unassignedOpcode (BitVec.ofNat 4 e.code) tail w)
end

