-- ==== Sys2Proof/Laws/Memory.lean ====
section
/-!
SUPPORT. The laws of lists kept by key, and of memory: a read gives what was last written, a write leaves every other byte alone, and every
operation that changes memory keeps its canonical form.
-/
namespace Sys2Proof.Machine

/-! ### Lists by key -/

theorem Assoc.get_erase_same {α : Type} (d : α) (l : List (Nat × α)) (n : Nat) : Assoc.get d (Assoc.erase l n) n = d := by
  induction l with
  | nil => rfl
  | cons x rest ih => by_cases h : x.1 = n <;> simp [Assoc.erase, Assoc.get, h, ih]

theorem Assoc.get_erase_other {α : Type} (d : α) (l : List (Nat × α)) {n m : Nat} (h : m ≠ n) :
    Assoc.get d (Assoc.erase l n) m = Assoc.get d l m := by
  induction l with
  | nil => rfl
  | cons x rest ih =>
    by_cases hx : x.1 = n
    · have : x.1 ≠ m := fun e => h (e ▸ hx)
      simp [Assoc.erase, Assoc.get, hx, ih]; intro e; exact absurd e.symm h
    · simp only [Assoc.erase, hx, if_false, Assoc.get, ih]

theorem Assoc.get_place_same {α : Type} (d : α) (l : List (Nat × α)) (n : Nat) (v : α) (h : ∀ x ∈ l, x.1 ≠ n) :
    Assoc.get d (Assoc.place l n v) n = v := by
  induction l with
  | nil => simp [Assoc.place, Assoc.get]
  | cons x rest ih =>
    by_cases hx : n ≤ x.1
    · simp [Assoc.place, Assoc.get, hx]
    · simp [Assoc.place, Assoc.get, hx, h x (by simp), ih fun y hy => h y (by simp [hy])]

theorem Assoc.get_place_other {α : Type} (d : α) (l : List (Nat × α)) {n m : Nat} (v : α) (h : m ≠ n) :
    Assoc.get d (Assoc.place l n v) m = Assoc.get d l m := by
  induction l with
  | nil => simp [Assoc.place, Assoc.get, Ne.symm h]
  | cons x rest ih =>
    by_cases hx : n ≤ x.1
    · simp [Assoc.place, Assoc.get, hx, Ne.symm h]
    · simp only [Assoc.place, hx, if_false, Assoc.get, ih]

theorem Assoc.key_erase {α : Type} (l : List (Nat × α)) (n : Nat) : ∀ x ∈ Assoc.erase l n, x.1 ≠ n := by
  induction l with
  | nil => simp [Assoc.erase]
  | cons x rest ih =>
    by_cases hx : x.1 = n
    · simpa [Assoc.erase, hx] using ih
    · intro y hy
      simp only [Assoc.erase, hx, if_false, List.mem_cons] at hy
      rcases hy with rfl | hy
      · exact hx
      · exact ih y hy

/-- The value of the key that was set. -/
@[simp] theorem Assoc.get_set_same {α : Type} [DecidableEq α] (d : α) (l : List (Nat × α)) (n : Nat) (v : α) :
    Assoc.get d (Assoc.set d l n v) n = v := by
  by_cases h : v = d
  · simp [Assoc.set, h, Assoc.get_erase_same]
  · simp [Assoc.set, h, Assoc.get_place_same _ _ _ _ (Assoc.key_erase l n)]

/-- The value of another key. -/
theorem Assoc.get_set_other {α : Type} [DecidableEq α] (d : α) (l : List (Nat × α)) {n m : Nat} (v : α) (h : m ≠ n) :
    Assoc.get d (Assoc.set d l n v) m = Assoc.get d l m := by
  by_cases hv : v = d
  · simp [Assoc.set, hv, Assoc.get_erase_other d l h]
  · simp [Assoc.set, hv, Assoc.get_place_other d _ v h, Assoc.get_erase_other d l h]

/-! ### The canonical form -/

theorem Memory.wfFrom_mono {lo lo' : Nat} (h : lo' ≤ lo) {cs : List Host.Cell} (hw : Memory.wfFrom lo cs = true) :
    Memory.wfFrom lo' cs = true := by
  cases cs with
  | nil => rfl
  | cons x rest =>
    simp only [Memory.wfFrom, Bool.and_eq_true, decide_eq_true_eq] at hw ⊢
    exact ⟨⟨by omega, hw.1.2⟩, hw.2⟩

theorem Memory.wfFrom_erase {lo : Nat} {cs : List Host.Cell} (n : Nat) (h : Memory.wfFrom lo cs = true) :
    Memory.wfFrom lo (Assoc.erase cs n) = true := by
  induction cs generalizing lo with
  | nil => rfl
  | cons x rest ih =>
    simp only [Memory.wfFrom, Bool.and_eq_true, decide_eq_true_eq] at h
    by_cases hx : x.1 = n
    · simp only [Assoc.erase, hx, if_true]
      exact Memory.wfFrom_mono (by omega) (ih h.2)
    · simp only [Assoc.erase, hx, if_false, Memory.wfFrom, Bool.and_eq_true, decide_eq_true_eq]
      exact ⟨h.1, ih h.2⟩

theorem Memory.wfFrom_place {lo n : Nat} {cs : List Host.Cell} {v : Byte} (hv : v ≠ Memory.dflt) (hn : lo ≤ n)
    (hk : ∀ x ∈ cs, x.1 ≠ n) (h : Memory.wfFrom lo cs = true) : Memory.wfFrom lo (Assoc.place cs n v) = true := by
  induction cs generalizing lo with
  | nil => simp [Assoc.place, Memory.wfFrom, hn, hv]
  | cons x rest ih =>
    simp only [Memory.wfFrom, Bool.and_eq_true, decide_eq_true_eq] at h
    have hx : x.1 ≠ n := hk x (by simp)
    by_cases hle : n ≤ x.1
    · simp only [Assoc.place, hle, if_true, Memory.wfFrom, Bool.and_eq_true, decide_eq_true_eq, bne_iff_ne]
      exact ⟨⟨hn, hv⟩, ⟨by omega, by simpa using h.1.2⟩, h.2⟩
    · simp only [Assoc.place, hle, if_false, Memory.wfFrom, Bool.and_eq_true, decide_eq_true_eq]
      exact ⟨h.1, ih (by omega) (fun y hy => hk y (by simp [hy])) h.2⟩

theorem Memory.wfFrom_filter {lo : Nat} {cs : List Host.Cell} (p : Host.Cell → Bool) (h : Memory.wfFrom lo cs = true) :
    Memory.wfFrom lo (cs.filter p) = true := by
  induction cs generalizing lo with
  | nil => rfl
  | cons x rest ih =>
    simp only [Memory.wfFrom, Bool.and_eq_true, decide_eq_true_eq] at h
    by_cases hx : p x = true
    · simp only [List.filter_cons, hx, if_true, Memory.wfFrom, Bool.and_eq_true, decide_eq_true_eq]
      exact ⟨h.1, ih h.2⟩
    · simp only [List.filter_cons, hx]
      exact Memory.wfFrom_mono (by omega) (ih h.2)

/-- A write keeps the canonical form. -/
theorem Memory.wf_write {m : Memory} (a : Nat) (b : Byte) (h : m.wf = true) : (m.write a b).wf = true := by
  unfold Memory.wf Memory.write Assoc.set at *
  split
  · exact Memory.wfFrom_erase a h
  · rename_i hb
    exact Memory.wfFrom_place hb (by omega) (Assoc.key_erase _ a) (Memory.wfFrom_erase a h)

theorem Memory.wf_writeBytes {m : Memory} (a : Nat) (bs : List Byte) (h : m.wf = true) : (m.writeBytes a bs).wf = true := by
  induction bs generalizing m a with
  | nil => exact h
  | cons b rest ih => exact ih (a + 1) (Memory.wf_write a b h)

theorem Memory.wf_writeN {m : Memory} (a n v : Nat) (h : m.wf = true) : (m.writeN a n v).wf = true := Memory.wf_writeBytes a _ h

theorem Memory.wf_applyPost {m : Memory} (a : Nat) (p : Post) (h : m.wf = true) : (applyPost m a p).wf = true := by
  unfold applyPost
  repeat' split
  all_goals first | exact Memory.wf_writeBytes _ _ h | exact Memory.wf_writeN _ _ _ h | exact h

theorem Memory.wf_keptCells {m : Memory} (h : m.wf = true) : (keptCells m).wf = true := Memory.wfFrom_filter _ h

/-! ### Reading what was written -/

@[simp] theorem Memory.read_write_same (m : Memory) (a : Nat) (b : Byte) : (m.write a b).read a = b := Assoc.get_set_same _ _ _ _

theorem Memory.read_write_other (m : Memory) {a c : Nat} (b : Byte) (h : c ≠ a) : (m.write a b).read c = m.read c :=
  Assoc.get_set_other _ _ _ h

theorem Memory.read_writeBytes_other (m : Memory) (a : Nat) (bs : List Byte) {c : Nat} (h : c < a ∨ a + bs.length ≤ c) :
    (m.writeBytes a bs).read c = m.read c := by
  induction bs generalizing m a with
  | nil => rfl
  | cons b rest ih =>
    simp only [List.length_cons] at h
    rw [Memory.writeBytes, ih _ (a + 1) (by omega), Memory.read_write_other _ _ (by omega)]

theorem Memory.read_writeBytes_same (m : Memory) (a : Nat) (bs : List Byte) (k : Nat) (h : k < bs.length) :
    (m.writeBytes a bs).read (a + k) = bs[k] := by
  induction bs generalizing m a k with
  | nil => simp at h
  | cons b rest ih =>
    cases k with
    | zero => simp [Memory.writeBytes, Memory.read_writeBytes_other]
    | succ n =>
      have := ih (m.write a b) (a + 1) n (by simpa using h)
      simpa [Memory.writeBytes, Nat.add_assoc, Nat.add_comm 1] using this

/-- The bytes that were written. -/
@[simp] theorem Memory.readBytes_writeBytes (m : Memory) (a : Nat) (bs : List Byte) : (m.writeBytes a bs).readBytes a bs.length = bs := by
  apply List.ext_getElem (by simp [Memory.readBytes])
  intro k h1 h2
  simp [Memory.readBytes, Memory.read_writeBytes_same m a bs k h2]

theorem toBytes_length (n v : Nat) : (toBytes n v).length = n := by simp [toBytes]

theorem Memory.read_writeN_other (m : Memory) (a n v : Nat) {c : Nat} (h : c < a ∨ a + n ≤ c) : (m.writeN a n v).read c = m.read c :=
  Memory.read_writeBytes_other m a _ (by simpa [toBytes_length] using h)

/-! ### The operations of the state that change memory -/

theorem State.commit_safe {s : State} {m : Memory} (home n : Nat) (program moved : Bool) (h : m.wf = true) :
    Safe (s.commit m home n program moved) := by
  have step : ∀ (p : Nat → Bool) (ws : List Nat) (m : Memory), m.wf = true →
      (ws.foldl (fun (m : Memory) w => if p w then m.writeN w 16 (swEvaluate (m.readN w 16)) else m) m).wf = true := by
    intro p ws
    induction ws with
    | nil => intro m hm; exact hm
    | cons w rest ih =>
      intro m hm
      refine ih _ ?_
      show (if p w then m.writeN w 16 (swEvaluate (m.readN w 16)) else m).wf = true
      split
      · exact Memory.wf_writeN _ _ _ hm
      · exact hm
  exact step _ _ _ h

theorem State.writeHome_safe {s : State} (home : Nat) (bs : List Byte) (program moved : Bool) (h : Safe s) :
    Safe (s.writeHome home bs program moved) :=
  State.commit_safe _ _ _ _ (Memory.wf_writeBytes _ _ h)

/-- A fold of steps that each keep memory canonical keeps it. -/
theorem foldl_safe {α : Type} (f : State → α → State) (hf : ∀ s x, Safe s → Safe (f s x)) (l : List α) {s : State} (h : Safe s) :
    Safe (l.foldl f s) := by
  induction l generalizing s with
  | nil => exact h
  | cons x rest ih => exact ih (hf _ _ h)

theorem State.ringPut_safe {s : State} (core : Nat) (x : Leaf) (held : Option FaultRec) (h : Safe s) : Safe (s.ringPut core x held) :=
  Memory.wf_writeBytes _ _ h

end Sys2Proof.Machine
end

