-- ==== Sys2Proof/Laws/State.lean ====
section
/-!
SUPPORT. What each update of a table leaves alone, one lemma for each field, and what the tables answer after an update.
-/
namespace Sys2Proof.Machine

/-! ### modGang -/

@[simp] theorem State.modGang_mem (s : State) (g : Nat) (f : Gang → Gang) : (s.modGang g f).mem = s.mem := rfl
@[simp] theorem State.modGang_boot (s : State) (g : Nat) (f : Gang → Gang) : (s.modGang g f).boot = s.boot := rfl
@[simp] theorem State.modGang_now (s : State) (g : Nat) (f : Gang → Gang) : (s.modGang g f).now = s.now := rfl
@[simp] theorem State.modGang_agenda (s : State) (g : Nat) (f : Gang → Gang) : (s.modGang g f).agenda = s.agenda := rfl
@[simp] theorem State.modGang_cur (s : State) (g : Nat) (f : Gang → Gang) : (s.modGang g f).cur = s.cur := rfl
@[simp] theorem State.modGang_cmdSel (s : State) (g : Nat) (f : Gang → Gang) : (s.modGang g f).cmdSel = s.cmdSel := rfl
@[simp] theorem State.modGang_free (s : State) (g : Nat) (f : Gang → Gang) : (s.modGang g f).free = s.free := rfl
@[simp] theorem State.modGang_nextId (s : State) (g : Nat) (f : Gang → Gang) : (s.modGang g f).nextId = s.nextId := rfl
@[simp] theorem State.modGang_nextHandle (s : State) (g : Nat) (f : Gang → Gang) : (s.modGang g f).nextHandle = s.nextHandle := rfl
@[simp] theorem State.modGang_squads (s : State) (g : Nat) (f : Gang → Gang) : (s.modGang g f).squads = s.squads := rfl
@[simp] theorem State.modGang_teams (s : State) (g : Nat) (f : Gang → Gang) : (s.modGang g f).teams = s.teams := rfl
@[simp] theorem State.modGang_launches (s : State) (g : Nat) (f : Gang → Gang) : (s.modGang g f).launches = s.launches := rfl
@[simp] theorem State.modGang_pendLaunch (s : State) (g : Nat) (f : Gang → Gang) : (s.modGang g f).pendLaunch = s.pendLaunch := rfl
@[simp] theorem State.modGang_reqs (s : State) (g : Nat) (f : Gang → Gang) : (s.modGang g f).reqs = s.reqs := rfl
@[simp] theorem State.modGang_ents (s : State) (g : Nat) (f : Gang → Gang) : (s.modGang g f).ents = s.ents := rfl
@[simp] theorem State.modGang_tags (s : State) (g : Nat) (f : Gang → Gang) : (s.modGang g f).tags = s.tags := rfl
@[simp] theorem State.modGang_tlb (s : State) (g : Nat) (f : Gang → Gang) : (s.modGang g f).tlb = s.tlb := rfl
@[simp] theorem State.modGang_walks (s : State) (g : Nat) (f : Gang → Gang) : (s.modGang g f).walks = s.walks := rfl
@[simp] theorem State.modGang_lines (s : State) (g : Nat) (f : Gang → Gang) : (s.modGang g f).lines = s.lines := rfl
@[simp] theorem State.modGang_ops (s : State) (g : Nat) (f : Gang → Gang) : (s.modGang g f).ops = s.ops := rfl
@[simp] theorem State.modGang_streams (s : State) (g : Nat) (f : Gang → Gang) : (s.modGang g f).streams = s.streams := rfl
@[simp] theorem State.modGang_upds (s : State) (g : Nat) (f : Gang → Gang) : (s.modGang g f).upds = s.upds := rfl
@[simp] theorem State.modGang_arrs (s : State) (g : Nat) (f : Gang → Gang) : (s.modGang g f).arrs = s.arrs := rfl
@[simp] theorem State.modGang_flights (s : State) (g : Nat) (f : Gang → Gang) : (s.modGang g f).flights = s.flights := rfl
@[simp] theorem State.modGang_rings (s : State) (g : Nat) (f : Gang → Gang) : (s.modGang g f).rings = s.rings := rfl
@[simp] theorem State.modGang_bins (s : State) (g : Nat) (f : Gang → Gang) : (s.modGang g f).bins = s.bins := rfl
@[simp] theorem State.modGang_bundles (s : State) (g : Nat) (f : Gang → Gang) : (s.modGang g f).bundles = s.bundles := rfl
@[simp] theorem State.modGang_cores (s : State) (g : Nat) (f : Gang → Gang) : (s.modGang g f).cores = s.cores := rfl
@[simp] theorem State.modGang_parts (s : State) (g : Nat) (f : Gang → Gang) : (s.modGang g f).parts = s.parts := rfl
@[simp] theorem State.modGang_dies (s : State) (g : Nat) (f : Gang → Gang) : (s.modGang g f).dies = s.dies := rfl
@[simp] theorem State.modGang_fns (s : State) (g : Nat) (f : Gang → Gang) : (s.modGang g f).fns = s.fns := rfl
@[simp] theorem State.modGang_cmds (s : State) (g : Nat) (f : Gang → Gang) : (s.modGang g f).cmds = s.cmds := rfl
@[simp] theorem State.modGang_events (s : State) (g : Nat) (f : Gang → Gang) : (s.modGang g f).events = s.events := rfl
@[simp] theorem State.modGang_irqs (s : State) (g : Nat) (f : Gang → Gang) : (s.modGang g f).irqs = s.irqs := rfl
@[simp] theorem State.modGang_frames (s : State) (g : Nat) (f : Gang → Gang) : (s.modGang g f).frames = s.frames := rfl
@[simp] theorem State.modGang_errs (s : State) (g : Nat) (f : Gang → Gang) : (s.modGang g f).errs = s.errs := rfl

/-! ### modSquad -/

@[simp] theorem State.modSquad_mem (s : State) (q : Nat) (f : Squad → Squad) : (s.modSquad q f).mem = s.mem := rfl
@[simp] theorem State.modSquad_boot (s : State) (q : Nat) (f : Squad → Squad) : (s.modSquad q f).boot = s.boot := rfl
@[simp] theorem State.modSquad_now (s : State) (q : Nat) (f : Squad → Squad) : (s.modSquad q f).now = s.now := rfl
@[simp] theorem State.modSquad_agenda (s : State) (q : Nat) (f : Squad → Squad) : (s.modSquad q f).agenda = s.agenda := rfl
@[simp] theorem State.modSquad_cur (s : State) (q : Nat) (f : Squad → Squad) : (s.modSquad q f).cur = s.cur := rfl
@[simp] theorem State.modSquad_cmdSel (s : State) (q : Nat) (f : Squad → Squad) : (s.modSquad q f).cmdSel = s.cmdSel := rfl
@[simp] theorem State.modSquad_free (s : State) (q : Nat) (f : Squad → Squad) : (s.modSquad q f).free = s.free := rfl
@[simp] theorem State.modSquad_nextId (s : State) (q : Nat) (f : Squad → Squad) : (s.modSquad q f).nextId = s.nextId := rfl
@[simp] theorem State.modSquad_nextHandle (s : State) (q : Nat) (f : Squad → Squad) : (s.modSquad q f).nextHandle = s.nextHandle := rfl
@[simp] theorem State.modSquad_gangs (s : State) (q : Nat) (f : Squad → Squad) : (s.modSquad q f).gangs = s.gangs := rfl
@[simp] theorem State.modSquad_teams (s : State) (q : Nat) (f : Squad → Squad) : (s.modSquad q f).teams = s.teams := rfl
@[simp] theorem State.modSquad_launches (s : State) (q : Nat) (f : Squad → Squad) : (s.modSquad q f).launches = s.launches := rfl
@[simp] theorem State.modSquad_pendLaunch (s : State) (q : Nat) (f : Squad → Squad) : (s.modSquad q f).pendLaunch = s.pendLaunch := rfl
@[simp] theorem State.modSquad_reqs (s : State) (q : Nat) (f : Squad → Squad) : (s.modSquad q f).reqs = s.reqs := rfl
@[simp] theorem State.modSquad_ents (s : State) (q : Nat) (f : Squad → Squad) : (s.modSquad q f).ents = s.ents := rfl
@[simp] theorem State.modSquad_tags (s : State) (q : Nat) (f : Squad → Squad) : (s.modSquad q f).tags = s.tags := rfl
@[simp] theorem State.modSquad_tlb (s : State) (q : Nat) (f : Squad → Squad) : (s.modSquad q f).tlb = s.tlb := rfl
@[simp] theorem State.modSquad_walks (s : State) (q : Nat) (f : Squad → Squad) : (s.modSquad q f).walks = s.walks := rfl
@[simp] theorem State.modSquad_lines (s : State) (q : Nat) (f : Squad → Squad) : (s.modSquad q f).lines = s.lines := rfl
@[simp] theorem State.modSquad_ops (s : State) (q : Nat) (f : Squad → Squad) : (s.modSquad q f).ops = s.ops := rfl
@[simp] theorem State.modSquad_streams (s : State) (q : Nat) (f : Squad → Squad) : (s.modSquad q f).streams = s.streams := rfl
@[simp] theorem State.modSquad_upds (s : State) (q : Nat) (f : Squad → Squad) : (s.modSquad q f).upds = s.upds := rfl
@[simp] theorem State.modSquad_arrs (s : State) (q : Nat) (f : Squad → Squad) : (s.modSquad q f).arrs = s.arrs := rfl
@[simp] theorem State.modSquad_flights (s : State) (q : Nat) (f : Squad → Squad) : (s.modSquad q f).flights = s.flights := rfl
@[simp] theorem State.modSquad_rings (s : State) (q : Nat) (f : Squad → Squad) : (s.modSquad q f).rings = s.rings := rfl
@[simp] theorem State.modSquad_bins (s : State) (q : Nat) (f : Squad → Squad) : (s.modSquad q f).bins = s.bins := rfl
@[simp] theorem State.modSquad_bundles (s : State) (q : Nat) (f : Squad → Squad) : (s.modSquad q f).bundles = s.bundles := rfl
@[simp] theorem State.modSquad_cores (s : State) (q : Nat) (f : Squad → Squad) : (s.modSquad q f).cores = s.cores := rfl
@[simp] theorem State.modSquad_parts (s : State) (q : Nat) (f : Squad → Squad) : (s.modSquad q f).parts = s.parts := rfl
@[simp] theorem State.modSquad_dies (s : State) (q : Nat) (f : Squad → Squad) : (s.modSquad q f).dies = s.dies := rfl
@[simp] theorem State.modSquad_fns (s : State) (q : Nat) (f : Squad → Squad) : (s.modSquad q f).fns = s.fns := rfl
@[simp] theorem State.modSquad_cmds (s : State) (q : Nat) (f : Squad → Squad) : (s.modSquad q f).cmds = s.cmds := rfl
@[simp] theorem State.modSquad_events (s : State) (q : Nat) (f : Squad → Squad) : (s.modSquad q f).events = s.events := rfl
@[simp] theorem State.modSquad_irqs (s : State) (q : Nat) (f : Squad → Squad) : (s.modSquad q f).irqs = s.irqs := rfl
@[simp] theorem State.modSquad_frames (s : State) (q : Nat) (f : Squad → Squad) : (s.modSquad q f).frames = s.frames := rfl
@[simp] theorem State.modSquad_errs (s : State) (q : Nat) (f : Squad → Squad) : (s.modSquad q f).errs = s.errs := rfl

/-! ### modTeam -/

@[simp] theorem State.modTeam_mem (s : State) (t : Nat) (f : Team → Team) : (s.modTeam t f).mem = s.mem := rfl
@[simp] theorem State.modTeam_boot (s : State) (t : Nat) (f : Team → Team) : (s.modTeam t f).boot = s.boot := rfl
@[simp] theorem State.modTeam_now (s : State) (t : Nat) (f : Team → Team) : (s.modTeam t f).now = s.now := rfl
@[simp] theorem State.modTeam_agenda (s : State) (t : Nat) (f : Team → Team) : (s.modTeam t f).agenda = s.agenda := rfl
@[simp] theorem State.modTeam_cur (s : State) (t : Nat) (f : Team → Team) : (s.modTeam t f).cur = s.cur := rfl
@[simp] theorem State.modTeam_cmdSel (s : State) (t : Nat) (f : Team → Team) : (s.modTeam t f).cmdSel = s.cmdSel := rfl
@[simp] theorem State.modTeam_free (s : State) (t : Nat) (f : Team → Team) : (s.modTeam t f).free = s.free := rfl
@[simp] theorem State.modTeam_nextId (s : State) (t : Nat) (f : Team → Team) : (s.modTeam t f).nextId = s.nextId := rfl
@[simp] theorem State.modTeam_nextHandle (s : State) (t : Nat) (f : Team → Team) : (s.modTeam t f).nextHandle = s.nextHandle := rfl
@[simp] theorem State.modTeam_squads (s : State) (t : Nat) (f : Team → Team) : (s.modTeam t f).squads = s.squads := rfl
@[simp] theorem State.modTeam_gangs (s : State) (t : Nat) (f : Team → Team) : (s.modTeam t f).gangs = s.gangs := rfl
@[simp] theorem State.modTeam_launches (s : State) (t : Nat) (f : Team → Team) : (s.modTeam t f).launches = s.launches := rfl
@[simp] theorem State.modTeam_pendLaunch (s : State) (t : Nat) (f : Team → Team) : (s.modTeam t f).pendLaunch = s.pendLaunch := rfl
@[simp] theorem State.modTeam_reqs (s : State) (t : Nat) (f : Team → Team) : (s.modTeam t f).reqs = s.reqs := rfl
@[simp] theorem State.modTeam_ents (s : State) (t : Nat) (f : Team → Team) : (s.modTeam t f).ents = s.ents := rfl
@[simp] theorem State.modTeam_tags (s : State) (t : Nat) (f : Team → Team) : (s.modTeam t f).tags = s.tags := rfl
@[simp] theorem State.modTeam_tlb (s : State) (t : Nat) (f : Team → Team) : (s.modTeam t f).tlb = s.tlb := rfl
@[simp] theorem State.modTeam_walks (s : State) (t : Nat) (f : Team → Team) : (s.modTeam t f).walks = s.walks := rfl
@[simp] theorem State.modTeam_lines (s : State) (t : Nat) (f : Team → Team) : (s.modTeam t f).lines = s.lines := rfl
@[simp] theorem State.modTeam_ops (s : State) (t : Nat) (f : Team → Team) : (s.modTeam t f).ops = s.ops := rfl
@[simp] theorem State.modTeam_streams (s : State) (t : Nat) (f : Team → Team) : (s.modTeam t f).streams = s.streams := rfl
@[simp] theorem State.modTeam_upds (s : State) (t : Nat) (f : Team → Team) : (s.modTeam t f).upds = s.upds := rfl
@[simp] theorem State.modTeam_arrs (s : State) (t : Nat) (f : Team → Team) : (s.modTeam t f).arrs = s.arrs := rfl
@[simp] theorem State.modTeam_flights (s : State) (t : Nat) (f : Team → Team) : (s.modTeam t f).flights = s.flights := rfl
@[simp] theorem State.modTeam_rings (s : State) (t : Nat) (f : Team → Team) : (s.modTeam t f).rings = s.rings := rfl
@[simp] theorem State.modTeam_bins (s : State) (t : Nat) (f : Team → Team) : (s.modTeam t f).bins = s.bins := rfl
@[simp] theorem State.modTeam_bundles (s : State) (t : Nat) (f : Team → Team) : (s.modTeam t f).bundles = s.bundles := rfl
@[simp] theorem State.modTeam_cores (s : State) (t : Nat) (f : Team → Team) : (s.modTeam t f).cores = s.cores := rfl
@[simp] theorem State.modTeam_parts (s : State) (t : Nat) (f : Team → Team) : (s.modTeam t f).parts = s.parts := rfl
@[simp] theorem State.modTeam_dies (s : State) (t : Nat) (f : Team → Team) : (s.modTeam t f).dies = s.dies := rfl
@[simp] theorem State.modTeam_fns (s : State) (t : Nat) (f : Team → Team) : (s.modTeam t f).fns = s.fns := rfl
@[simp] theorem State.modTeam_cmds (s : State) (t : Nat) (f : Team → Team) : (s.modTeam t f).cmds = s.cmds := rfl
@[simp] theorem State.modTeam_events (s : State) (t : Nat) (f : Team → Team) : (s.modTeam t f).events = s.events := rfl
@[simp] theorem State.modTeam_irqs (s : State) (t : Nat) (f : Team → Team) : (s.modTeam t f).irqs = s.irqs := rfl
@[simp] theorem State.modTeam_frames (s : State) (t : Nat) (f : Team → Team) : (s.modTeam t f).frames = s.frames := rfl
@[simp] theorem State.modTeam_errs (s : State) (t : Nat) (f : Team → Team) : (s.modTeam t f).errs = s.errs := rfl

/-! ### modLaunch -/

@[simp] theorem State.modLaunch_mem (s : State) (h : Word) (f : Launch → Launch) : (s.modLaunch h f).mem = s.mem := rfl
@[simp] theorem State.modLaunch_boot (s : State) (h : Word) (f : Launch → Launch) : (s.modLaunch h f).boot = s.boot := rfl
@[simp] theorem State.modLaunch_now (s : State) (h : Word) (f : Launch → Launch) : (s.modLaunch h f).now = s.now := rfl
@[simp] theorem State.modLaunch_agenda (s : State) (h : Word) (f : Launch → Launch) : (s.modLaunch h f).agenda = s.agenda := rfl
@[simp] theorem State.modLaunch_cur (s : State) (h : Word) (f : Launch → Launch) : (s.modLaunch h f).cur = s.cur := rfl
@[simp] theorem State.modLaunch_cmdSel (s : State) (h : Word) (f : Launch → Launch) : (s.modLaunch h f).cmdSel = s.cmdSel := rfl
@[simp] theorem State.modLaunch_free (s : State) (h : Word) (f : Launch → Launch) : (s.modLaunch h f).free = s.free := rfl
@[simp] theorem State.modLaunch_nextId (s : State) (h : Word) (f : Launch → Launch) : (s.modLaunch h f).nextId = s.nextId := rfl
@[simp] theorem State.modLaunch_nextHandle (s : State) (h : Word) (f : Launch → Launch) : (s.modLaunch h f).nextHandle = s.nextHandle := rfl
@[simp] theorem State.modLaunch_squads (s : State) (h : Word) (f : Launch → Launch) : (s.modLaunch h f).squads = s.squads := rfl
@[simp] theorem State.modLaunch_gangs (s : State) (h : Word) (f : Launch → Launch) : (s.modLaunch h f).gangs = s.gangs := rfl
@[simp] theorem State.modLaunch_teams (s : State) (h : Word) (f : Launch → Launch) : (s.modLaunch h f).teams = s.teams := rfl
@[simp] theorem State.modLaunch_pendLaunch (s : State) (h : Word) (f : Launch → Launch) : (s.modLaunch h f).pendLaunch = s.pendLaunch := rfl
@[simp] theorem State.modLaunch_reqs (s : State) (h : Word) (f : Launch → Launch) : (s.modLaunch h f).reqs = s.reqs := rfl
@[simp] theorem State.modLaunch_ents (s : State) (h : Word) (f : Launch → Launch) : (s.modLaunch h f).ents = s.ents := rfl
@[simp] theorem State.modLaunch_tags (s : State) (h : Word) (f : Launch → Launch) : (s.modLaunch h f).tags = s.tags := rfl
@[simp] theorem State.modLaunch_tlb (s : State) (h : Word) (f : Launch → Launch) : (s.modLaunch h f).tlb = s.tlb := rfl
@[simp] theorem State.modLaunch_walks (s : State) (h : Word) (f : Launch → Launch) : (s.modLaunch h f).walks = s.walks := rfl
@[simp] theorem State.modLaunch_lines (s : State) (h : Word) (f : Launch → Launch) : (s.modLaunch h f).lines = s.lines := rfl
@[simp] theorem State.modLaunch_ops (s : State) (h : Word) (f : Launch → Launch) : (s.modLaunch h f).ops = s.ops := rfl
@[simp] theorem State.modLaunch_streams (s : State) (h : Word) (f : Launch → Launch) : (s.modLaunch h f).streams = s.streams := rfl
@[simp] theorem State.modLaunch_upds (s : State) (h : Word) (f : Launch → Launch) : (s.modLaunch h f).upds = s.upds := rfl
@[simp] theorem State.modLaunch_arrs (s : State) (h : Word) (f : Launch → Launch) : (s.modLaunch h f).arrs = s.arrs := rfl
@[simp] theorem State.modLaunch_flights (s : State) (h : Word) (f : Launch → Launch) : (s.modLaunch h f).flights = s.flights := rfl
@[simp] theorem State.modLaunch_rings (s : State) (h : Word) (f : Launch → Launch) : (s.modLaunch h f).rings = s.rings := rfl
@[simp] theorem State.modLaunch_bins (s : State) (h : Word) (f : Launch → Launch) : (s.modLaunch h f).bins = s.bins := rfl
@[simp] theorem State.modLaunch_bundles (s : State) (h : Word) (f : Launch → Launch) : (s.modLaunch h f).bundles = s.bundles := rfl
@[simp] theorem State.modLaunch_cores (s : State) (h : Word) (f : Launch → Launch) : (s.modLaunch h f).cores = s.cores := rfl
@[simp] theorem State.modLaunch_parts (s : State) (h : Word) (f : Launch → Launch) : (s.modLaunch h f).parts = s.parts := rfl
@[simp] theorem State.modLaunch_dies (s : State) (h : Word) (f : Launch → Launch) : (s.modLaunch h f).dies = s.dies := rfl
@[simp] theorem State.modLaunch_fns (s : State) (h : Word) (f : Launch → Launch) : (s.modLaunch h f).fns = s.fns := rfl
@[simp] theorem State.modLaunch_cmds (s : State) (h : Word) (f : Launch → Launch) : (s.modLaunch h f).cmds = s.cmds := rfl
@[simp] theorem State.modLaunch_events (s : State) (h : Word) (f : Launch → Launch) : (s.modLaunch h f).events = s.events := rfl
@[simp] theorem State.modLaunch_irqs (s : State) (h : Word) (f : Launch → Launch) : (s.modLaunch h f).irqs = s.irqs := rfl
@[simp] theorem State.modLaunch_frames (s : State) (h : Word) (f : Launch → Launch) : (s.modLaunch h f).frames = s.frames := rfl
@[simp] theorem State.modLaunch_errs (s : State) (h : Word) (f : Launch → Launch) : (s.modLaunch h f).errs = s.errs := rfl

/-! ### modFn -/

@[simp] theorem State.modFn_mem (s : State) (n : Nat) (f : Fn → Fn) : (s.modFn n f).mem = s.mem := rfl
@[simp] theorem State.modFn_boot (s : State) (n : Nat) (f : Fn → Fn) : (s.modFn n f).boot = s.boot := rfl
@[simp] theorem State.modFn_now (s : State) (n : Nat) (f : Fn → Fn) : (s.modFn n f).now = s.now := rfl
@[simp] theorem State.modFn_agenda (s : State) (n : Nat) (f : Fn → Fn) : (s.modFn n f).agenda = s.agenda := rfl
@[simp] theorem State.modFn_cur (s : State) (n : Nat) (f : Fn → Fn) : (s.modFn n f).cur = s.cur := rfl
@[simp] theorem State.modFn_cmdSel (s : State) (n : Nat) (f : Fn → Fn) : (s.modFn n f).cmdSel = s.cmdSel := rfl
@[simp] theorem State.modFn_free (s : State) (n : Nat) (f : Fn → Fn) : (s.modFn n f).free = s.free := rfl
@[simp] theorem State.modFn_nextId (s : State) (n : Nat) (f : Fn → Fn) : (s.modFn n f).nextId = s.nextId := rfl
@[simp] theorem State.modFn_nextHandle (s : State) (n : Nat) (f : Fn → Fn) : (s.modFn n f).nextHandle = s.nextHandle := rfl
@[simp] theorem State.modFn_squads (s : State) (n : Nat) (f : Fn → Fn) : (s.modFn n f).squads = s.squads := rfl
@[simp] theorem State.modFn_gangs (s : State) (n : Nat) (f : Fn → Fn) : (s.modFn n f).gangs = s.gangs := rfl
@[simp] theorem State.modFn_teams (s : State) (n : Nat) (f : Fn → Fn) : (s.modFn n f).teams = s.teams := rfl
@[simp] theorem State.modFn_launches (s : State) (n : Nat) (f : Fn → Fn) : (s.modFn n f).launches = s.launches := rfl
@[simp] theorem State.modFn_pendLaunch (s : State) (n : Nat) (f : Fn → Fn) : (s.modFn n f).pendLaunch = s.pendLaunch := rfl
@[simp] theorem State.modFn_reqs (s : State) (n : Nat) (f : Fn → Fn) : (s.modFn n f).reqs = s.reqs := rfl
@[simp] theorem State.modFn_ents (s : State) (n : Nat) (f : Fn → Fn) : (s.modFn n f).ents = s.ents := rfl
@[simp] theorem State.modFn_tags (s : State) (n : Nat) (f : Fn → Fn) : (s.modFn n f).tags = s.tags := rfl
@[simp] theorem State.modFn_tlb (s : State) (n : Nat) (f : Fn → Fn) : (s.modFn n f).tlb = s.tlb := rfl
@[simp] theorem State.modFn_walks (s : State) (n : Nat) (f : Fn → Fn) : (s.modFn n f).walks = s.walks := rfl
@[simp] theorem State.modFn_lines (s : State) (n : Nat) (f : Fn → Fn) : (s.modFn n f).lines = s.lines := rfl
@[simp] theorem State.modFn_ops (s : State) (n : Nat) (f : Fn → Fn) : (s.modFn n f).ops = s.ops := rfl
@[simp] theorem State.modFn_streams (s : State) (n : Nat) (f : Fn → Fn) : (s.modFn n f).streams = s.streams := rfl
@[simp] theorem State.modFn_upds (s : State) (n : Nat) (f : Fn → Fn) : (s.modFn n f).upds = s.upds := rfl
@[simp] theorem State.modFn_arrs (s : State) (n : Nat) (f : Fn → Fn) : (s.modFn n f).arrs = s.arrs := rfl
@[simp] theorem State.modFn_flights (s : State) (n : Nat) (f : Fn → Fn) : (s.modFn n f).flights = s.flights := rfl
@[simp] theorem State.modFn_rings (s : State) (n : Nat) (f : Fn → Fn) : (s.modFn n f).rings = s.rings := rfl
@[simp] theorem State.modFn_bins (s : State) (n : Nat) (f : Fn → Fn) : (s.modFn n f).bins = s.bins := rfl
@[simp] theorem State.modFn_bundles (s : State) (n : Nat) (f : Fn → Fn) : (s.modFn n f).bundles = s.bundles := rfl
@[simp] theorem State.modFn_cores (s : State) (n : Nat) (f : Fn → Fn) : (s.modFn n f).cores = s.cores := rfl
@[simp] theorem State.modFn_parts (s : State) (n : Nat) (f : Fn → Fn) : (s.modFn n f).parts = s.parts := rfl
@[simp] theorem State.modFn_dies (s : State) (n : Nat) (f : Fn → Fn) : (s.modFn n f).dies = s.dies := rfl
@[simp] theorem State.modFn_cmds (s : State) (n : Nat) (f : Fn → Fn) : (s.modFn n f).cmds = s.cmds := rfl
@[simp] theorem State.modFn_events (s : State) (n : Nat) (f : Fn → Fn) : (s.modFn n f).events = s.events := rfl
@[simp] theorem State.modFn_irqs (s : State) (n : Nat) (f : Fn → Fn) : (s.modFn n f).irqs = s.irqs := rfl
@[simp] theorem State.modFn_frames (s : State) (n : Nat) (f : Fn → Fn) : (s.modFn n f).frames = s.frames := rfl
@[simp] theorem State.modFn_errs (s : State) (n : Nat) (f : Fn → Fn) : (s.modFn n f).errs = s.errs := rfl

/-! ### modOp -/

@[simp] theorem State.modOp_mem (s : State) (o : Nat) (f : EngOp → EngOp) : (s.modOp o f).mem = s.mem := rfl
@[simp] theorem State.modOp_boot (s : State) (o : Nat) (f : EngOp → EngOp) : (s.modOp o f).boot = s.boot := rfl
@[simp] theorem State.modOp_now (s : State) (o : Nat) (f : EngOp → EngOp) : (s.modOp o f).now = s.now := rfl
@[simp] theorem State.modOp_agenda (s : State) (o : Nat) (f : EngOp → EngOp) : (s.modOp o f).agenda = s.agenda := rfl
@[simp] theorem State.modOp_cur (s : State) (o : Nat) (f : EngOp → EngOp) : (s.modOp o f).cur = s.cur := rfl
@[simp] theorem State.modOp_cmdSel (s : State) (o : Nat) (f : EngOp → EngOp) : (s.modOp o f).cmdSel = s.cmdSel := rfl
@[simp] theorem State.modOp_free (s : State) (o : Nat) (f : EngOp → EngOp) : (s.modOp o f).free = s.free := rfl
@[simp] theorem State.modOp_nextId (s : State) (o : Nat) (f : EngOp → EngOp) : (s.modOp o f).nextId = s.nextId := rfl
@[simp] theorem State.modOp_nextHandle (s : State) (o : Nat) (f : EngOp → EngOp) : (s.modOp o f).nextHandle = s.nextHandle := rfl
@[simp] theorem State.modOp_squads (s : State) (o : Nat) (f : EngOp → EngOp) : (s.modOp o f).squads = s.squads := rfl
@[simp] theorem State.modOp_gangs (s : State) (o : Nat) (f : EngOp → EngOp) : (s.modOp o f).gangs = s.gangs := rfl
@[simp] theorem State.modOp_teams (s : State) (o : Nat) (f : EngOp → EngOp) : (s.modOp o f).teams = s.teams := rfl
@[simp] theorem State.modOp_launches (s : State) (o : Nat) (f : EngOp → EngOp) : (s.modOp o f).launches = s.launches := rfl
@[simp] theorem State.modOp_pendLaunch (s : State) (o : Nat) (f : EngOp → EngOp) : (s.modOp o f).pendLaunch = s.pendLaunch := rfl
@[simp] theorem State.modOp_reqs (s : State) (o : Nat) (f : EngOp → EngOp) : (s.modOp o f).reqs = s.reqs := rfl
@[simp] theorem State.modOp_ents (s : State) (o : Nat) (f : EngOp → EngOp) : (s.modOp o f).ents = s.ents := rfl
@[simp] theorem State.modOp_tags (s : State) (o : Nat) (f : EngOp → EngOp) : (s.modOp o f).tags = s.tags := rfl
@[simp] theorem State.modOp_tlb (s : State) (o : Nat) (f : EngOp → EngOp) : (s.modOp o f).tlb = s.tlb := rfl
@[simp] theorem State.modOp_walks (s : State) (o : Nat) (f : EngOp → EngOp) : (s.modOp o f).walks = s.walks := rfl
@[simp] theorem State.modOp_lines (s : State) (o : Nat) (f : EngOp → EngOp) : (s.modOp o f).lines = s.lines := rfl
@[simp] theorem State.modOp_streams (s : State) (o : Nat) (f : EngOp → EngOp) : (s.modOp o f).streams = s.streams := rfl
@[simp] theorem State.modOp_upds (s : State) (o : Nat) (f : EngOp → EngOp) : (s.modOp o f).upds = s.upds := rfl
@[simp] theorem State.modOp_arrs (s : State) (o : Nat) (f : EngOp → EngOp) : (s.modOp o f).arrs = s.arrs := rfl
@[simp] theorem State.modOp_flights (s : State) (o : Nat) (f : EngOp → EngOp) : (s.modOp o f).flights = s.flights := rfl
@[simp] theorem State.modOp_rings (s : State) (o : Nat) (f : EngOp → EngOp) : (s.modOp o f).rings = s.rings := rfl
@[simp] theorem State.modOp_bins (s : State) (o : Nat) (f : EngOp → EngOp) : (s.modOp o f).bins = s.bins := rfl
@[simp] theorem State.modOp_bundles (s : State) (o : Nat) (f : EngOp → EngOp) : (s.modOp o f).bundles = s.bundles := rfl
@[simp] theorem State.modOp_cores (s : State) (o : Nat) (f : EngOp → EngOp) : (s.modOp o f).cores = s.cores := rfl
@[simp] theorem State.modOp_parts (s : State) (o : Nat) (f : EngOp → EngOp) : (s.modOp o f).parts = s.parts := rfl
@[simp] theorem State.modOp_dies (s : State) (o : Nat) (f : EngOp → EngOp) : (s.modOp o f).dies = s.dies := rfl
@[simp] theorem State.modOp_fns (s : State) (o : Nat) (f : EngOp → EngOp) : (s.modOp o f).fns = s.fns := rfl
@[simp] theorem State.modOp_cmds (s : State) (o : Nat) (f : EngOp → EngOp) : (s.modOp o f).cmds = s.cmds := rfl
@[simp] theorem State.modOp_events (s : State) (o : Nat) (f : EngOp → EngOp) : (s.modOp o f).events = s.events := rfl
@[simp] theorem State.modOp_irqs (s : State) (o : Nat) (f : EngOp → EngOp) : (s.modOp o f).irqs = s.irqs := rfl
@[simp] theorem State.modOp_frames (s : State) (o : Nat) (f : EngOp → EngOp) : (s.modOp o f).frames = s.frames := rfl
@[simp] theorem State.modOp_errs (s : State) (o : Nat) (f : EngOp → EngOp) : (s.modOp o f).errs = s.errs := rfl

/-! ### modCore -/

@[simp] theorem State.modCore_mem (s : State) (c : Nat) (f : Core → Core) : (s.modCore c f).mem = s.mem := rfl
@[simp] theorem State.modCore_boot (s : State) (c : Nat) (f : Core → Core) : (s.modCore c f).boot = s.boot := rfl
@[simp] theorem State.modCore_now (s : State) (c : Nat) (f : Core → Core) : (s.modCore c f).now = s.now := rfl
@[simp] theorem State.modCore_agenda (s : State) (c : Nat) (f : Core → Core) : (s.modCore c f).agenda = s.agenda := rfl
@[simp] theorem State.modCore_cur (s : State) (c : Nat) (f : Core → Core) : (s.modCore c f).cur = s.cur := rfl
@[simp] theorem State.modCore_cmdSel (s : State) (c : Nat) (f : Core → Core) : (s.modCore c f).cmdSel = s.cmdSel := rfl
@[simp] theorem State.modCore_free (s : State) (c : Nat) (f : Core → Core) : (s.modCore c f).free = s.free := rfl
@[simp] theorem State.modCore_nextId (s : State) (c : Nat) (f : Core → Core) : (s.modCore c f).nextId = s.nextId := rfl
@[simp] theorem State.modCore_nextHandle (s : State) (c : Nat) (f : Core → Core) : (s.modCore c f).nextHandle = s.nextHandle := rfl
@[simp] theorem State.modCore_squads (s : State) (c : Nat) (f : Core → Core) : (s.modCore c f).squads = s.squads := rfl
@[simp] theorem State.modCore_gangs (s : State) (c : Nat) (f : Core → Core) : (s.modCore c f).gangs = s.gangs := rfl
@[simp] theorem State.modCore_teams (s : State) (c : Nat) (f : Core → Core) : (s.modCore c f).teams = s.teams := rfl
@[simp] theorem State.modCore_launches (s : State) (c : Nat) (f : Core → Core) : (s.modCore c f).launches = s.launches := rfl
@[simp] theorem State.modCore_pendLaunch (s : State) (c : Nat) (f : Core → Core) : (s.modCore c f).pendLaunch = s.pendLaunch := rfl
@[simp] theorem State.modCore_reqs (s : State) (c : Nat) (f : Core → Core) : (s.modCore c f).reqs = s.reqs := rfl
@[simp] theorem State.modCore_ents (s : State) (c : Nat) (f : Core → Core) : (s.modCore c f).ents = s.ents := rfl
@[simp] theorem State.modCore_tags (s : State) (c : Nat) (f : Core → Core) : (s.modCore c f).tags = s.tags := rfl
@[simp] theorem State.modCore_tlb (s : State) (c : Nat) (f : Core → Core) : (s.modCore c f).tlb = s.tlb := rfl
@[simp] theorem State.modCore_walks (s : State) (c : Nat) (f : Core → Core) : (s.modCore c f).walks = s.walks := rfl
@[simp] theorem State.modCore_lines (s : State) (c : Nat) (f : Core → Core) : (s.modCore c f).lines = s.lines := rfl
@[simp] theorem State.modCore_ops (s : State) (c : Nat) (f : Core → Core) : (s.modCore c f).ops = s.ops := rfl
@[simp] theorem State.modCore_streams (s : State) (c : Nat) (f : Core → Core) : (s.modCore c f).streams = s.streams := rfl
@[simp] theorem State.modCore_upds (s : State) (c : Nat) (f : Core → Core) : (s.modCore c f).upds = s.upds := rfl
@[simp] theorem State.modCore_arrs (s : State) (c : Nat) (f : Core → Core) : (s.modCore c f).arrs = s.arrs := rfl
@[simp] theorem State.modCore_flights (s : State) (c : Nat) (f : Core → Core) : (s.modCore c f).flights = s.flights := rfl
@[simp] theorem State.modCore_rings (s : State) (c : Nat) (f : Core → Core) : (s.modCore c f).rings = s.rings := rfl
@[simp] theorem State.modCore_bins (s : State) (c : Nat) (f : Core → Core) : (s.modCore c f).bins = s.bins := rfl
@[simp] theorem State.modCore_bundles (s : State) (c : Nat) (f : Core → Core) : (s.modCore c f).bundles = s.bundles := rfl
@[simp] theorem State.modCore_parts (s : State) (c : Nat) (f : Core → Core) : (s.modCore c f).parts = s.parts := rfl
@[simp] theorem State.modCore_dies (s : State) (c : Nat) (f : Core → Core) : (s.modCore c f).dies = s.dies := rfl
@[simp] theorem State.modCore_fns (s : State) (c : Nat) (f : Core → Core) : (s.modCore c f).fns = s.fns := rfl
@[simp] theorem State.modCore_cmds (s : State) (c : Nat) (f : Core → Core) : (s.modCore c f).cmds = s.cmds := rfl
@[simp] theorem State.modCore_events (s : State) (c : Nat) (f : Core → Core) : (s.modCore c f).events = s.events := rfl
@[simp] theorem State.modCore_irqs (s : State) (c : Nat) (f : Core → Core) : (s.modCore c f).irqs = s.irqs := rfl
@[simp] theorem State.modCore_frames (s : State) (c : Nat) (f : Core → Core) : (s.modCore c f).frames = s.frames := rfl
@[simp] theorem State.modCore_errs (s : State) (c : Nat) (f : Core → Core) : (s.modCore c f).errs = s.errs := rfl

/-! ### modPart -/

@[simp] theorem State.modPart_mem (s : State) (c p : Nat) (f : Part → Part) : (s.modPart c p f).mem = s.mem := rfl
@[simp] theorem State.modPart_boot (s : State) (c p : Nat) (f : Part → Part) : (s.modPart c p f).boot = s.boot := rfl
@[simp] theorem State.modPart_now (s : State) (c p : Nat) (f : Part → Part) : (s.modPart c p f).now = s.now := rfl
@[simp] theorem State.modPart_agenda (s : State) (c p : Nat) (f : Part → Part) : (s.modPart c p f).agenda = s.agenda := rfl
@[simp] theorem State.modPart_cur (s : State) (c p : Nat) (f : Part → Part) : (s.modPart c p f).cur = s.cur := rfl
@[simp] theorem State.modPart_cmdSel (s : State) (c p : Nat) (f : Part → Part) : (s.modPart c p f).cmdSel = s.cmdSel := rfl
@[simp] theorem State.modPart_free (s : State) (c p : Nat) (f : Part → Part) : (s.modPart c p f).free = s.free := rfl
@[simp] theorem State.modPart_nextId (s : State) (c p : Nat) (f : Part → Part) : (s.modPart c p f).nextId = s.nextId := rfl
@[simp] theorem State.modPart_nextHandle (s : State) (c p : Nat) (f : Part → Part) : (s.modPart c p f).nextHandle = s.nextHandle := rfl
@[simp] theorem State.modPart_squads (s : State) (c p : Nat) (f : Part → Part) : (s.modPart c p f).squads = s.squads := rfl
@[simp] theorem State.modPart_gangs (s : State) (c p : Nat) (f : Part → Part) : (s.modPart c p f).gangs = s.gangs := rfl
@[simp] theorem State.modPart_teams (s : State) (c p : Nat) (f : Part → Part) : (s.modPart c p f).teams = s.teams := rfl
@[simp] theorem State.modPart_launches (s : State) (c p : Nat) (f : Part → Part) : (s.modPart c p f).launches = s.launches := rfl
@[simp] theorem State.modPart_pendLaunch (s : State) (c p : Nat) (f : Part → Part) : (s.modPart c p f).pendLaunch = s.pendLaunch := rfl
@[simp] theorem State.modPart_reqs (s : State) (c p : Nat) (f : Part → Part) : (s.modPart c p f).reqs = s.reqs := rfl
@[simp] theorem State.modPart_ents (s : State) (c p : Nat) (f : Part → Part) : (s.modPart c p f).ents = s.ents := rfl
@[simp] theorem State.modPart_tags (s : State) (c p : Nat) (f : Part → Part) : (s.modPart c p f).tags = s.tags := rfl
@[simp] theorem State.modPart_tlb (s : State) (c p : Nat) (f : Part → Part) : (s.modPart c p f).tlb = s.tlb := rfl
@[simp] theorem State.modPart_walks (s : State) (c p : Nat) (f : Part → Part) : (s.modPart c p f).walks = s.walks := rfl
@[simp] theorem State.modPart_lines (s : State) (c p : Nat) (f : Part → Part) : (s.modPart c p f).lines = s.lines := rfl
@[simp] theorem State.modPart_ops (s : State) (c p : Nat) (f : Part → Part) : (s.modPart c p f).ops = s.ops := rfl
@[simp] theorem State.modPart_streams (s : State) (c p : Nat) (f : Part → Part) : (s.modPart c p f).streams = s.streams := rfl
@[simp] theorem State.modPart_upds (s : State) (c p : Nat) (f : Part → Part) : (s.modPart c p f).upds = s.upds := rfl
@[simp] theorem State.modPart_arrs (s : State) (c p : Nat) (f : Part → Part) : (s.modPart c p f).arrs = s.arrs := rfl
@[simp] theorem State.modPart_flights (s : State) (c p : Nat) (f : Part → Part) : (s.modPart c p f).flights = s.flights := rfl
@[simp] theorem State.modPart_rings (s : State) (c p : Nat) (f : Part → Part) : (s.modPart c p f).rings = s.rings := rfl
@[simp] theorem State.modPart_bins (s : State) (c p : Nat) (f : Part → Part) : (s.modPart c p f).bins = s.bins := rfl
@[simp] theorem State.modPart_bundles (s : State) (c p : Nat) (f : Part → Part) : (s.modPart c p f).bundles = s.bundles := rfl
@[simp] theorem State.modPart_cores (s : State) (c p : Nat) (f : Part → Part) : (s.modPart c p f).cores = s.cores := rfl
@[simp] theorem State.modPart_dies (s : State) (c p : Nat) (f : Part → Part) : (s.modPart c p f).dies = s.dies := rfl
@[simp] theorem State.modPart_fns (s : State) (c p : Nat) (f : Part → Part) : (s.modPart c p f).fns = s.fns := rfl
@[simp] theorem State.modPart_cmds (s : State) (c p : Nat) (f : Part → Part) : (s.modPart c p f).cmds = s.cmds := rfl
@[simp] theorem State.modPart_events (s : State) (c p : Nat) (f : Part → Part) : (s.modPart c p f).events = s.events := rfl
@[simp] theorem State.modPart_irqs (s : State) (c p : Nat) (f : Part → Part) : (s.modPart c p f).irqs = s.irqs := rfl
@[simp] theorem State.modPart_frames (s : State) (c p : Nat) (f : Part → Part) : (s.modPart c p f).frames = s.frames := rfl
@[simp] theorem State.modPart_errs (s : State) (c p : Nat) (f : Part → Part) : (s.modPart c p f).errs = s.errs := rfl

/-! ### modDie -/

@[simp] theorem State.modDie_mem (s : State) (d : Nat) (f : Die → Die) : (s.modDie d f).mem = s.mem := rfl
@[simp] theorem State.modDie_boot (s : State) (d : Nat) (f : Die → Die) : (s.modDie d f).boot = s.boot := rfl
@[simp] theorem State.modDie_now (s : State) (d : Nat) (f : Die → Die) : (s.modDie d f).now = s.now := rfl
@[simp] theorem State.modDie_agenda (s : State) (d : Nat) (f : Die → Die) : (s.modDie d f).agenda = s.agenda := rfl
@[simp] theorem State.modDie_cur (s : State) (d : Nat) (f : Die → Die) : (s.modDie d f).cur = s.cur := rfl
@[simp] theorem State.modDie_cmdSel (s : State) (d : Nat) (f : Die → Die) : (s.modDie d f).cmdSel = s.cmdSel := rfl
@[simp] theorem State.modDie_free (s : State) (d : Nat) (f : Die → Die) : (s.modDie d f).free = s.free := rfl
@[simp] theorem State.modDie_nextId (s : State) (d : Nat) (f : Die → Die) : (s.modDie d f).nextId = s.nextId := rfl
@[simp] theorem State.modDie_nextHandle (s : State) (d : Nat) (f : Die → Die) : (s.modDie d f).nextHandle = s.nextHandle := rfl
@[simp] theorem State.modDie_squads (s : State) (d : Nat) (f : Die → Die) : (s.modDie d f).squads = s.squads := rfl
@[simp] theorem State.modDie_gangs (s : State) (d : Nat) (f : Die → Die) : (s.modDie d f).gangs = s.gangs := rfl
@[simp] theorem State.modDie_teams (s : State) (d : Nat) (f : Die → Die) : (s.modDie d f).teams = s.teams := rfl
@[simp] theorem State.modDie_launches (s : State) (d : Nat) (f : Die → Die) : (s.modDie d f).launches = s.launches := rfl
@[simp] theorem State.modDie_pendLaunch (s : State) (d : Nat) (f : Die → Die) : (s.modDie d f).pendLaunch = s.pendLaunch := rfl
@[simp] theorem State.modDie_reqs (s : State) (d : Nat) (f : Die → Die) : (s.modDie d f).reqs = s.reqs := rfl
@[simp] theorem State.modDie_ents (s : State) (d : Nat) (f : Die → Die) : (s.modDie d f).ents = s.ents := rfl
@[simp] theorem State.modDie_tags (s : State) (d : Nat) (f : Die → Die) : (s.modDie d f).tags = s.tags := rfl
@[simp] theorem State.modDie_tlb (s : State) (d : Nat) (f : Die → Die) : (s.modDie d f).tlb = s.tlb := rfl
@[simp] theorem State.modDie_walks (s : State) (d : Nat) (f : Die → Die) : (s.modDie d f).walks = s.walks := rfl
@[simp] theorem State.modDie_lines (s : State) (d : Nat) (f : Die → Die) : (s.modDie d f).lines = s.lines := rfl
@[simp] theorem State.modDie_ops (s : State) (d : Nat) (f : Die → Die) : (s.modDie d f).ops = s.ops := rfl
@[simp] theorem State.modDie_streams (s : State) (d : Nat) (f : Die → Die) : (s.modDie d f).streams = s.streams := rfl
@[simp] theorem State.modDie_upds (s : State) (d : Nat) (f : Die → Die) : (s.modDie d f).upds = s.upds := rfl
@[simp] theorem State.modDie_arrs (s : State) (d : Nat) (f : Die → Die) : (s.modDie d f).arrs = s.arrs := rfl
@[simp] theorem State.modDie_flights (s : State) (d : Nat) (f : Die → Die) : (s.modDie d f).flights = s.flights := rfl
@[simp] theorem State.modDie_rings (s : State) (d : Nat) (f : Die → Die) : (s.modDie d f).rings = s.rings := rfl
@[simp] theorem State.modDie_bins (s : State) (d : Nat) (f : Die → Die) : (s.modDie d f).bins = s.bins := rfl
@[simp] theorem State.modDie_bundles (s : State) (d : Nat) (f : Die → Die) : (s.modDie d f).bundles = s.bundles := rfl
@[simp] theorem State.modDie_cores (s : State) (d : Nat) (f : Die → Die) : (s.modDie d f).cores = s.cores := rfl
@[simp] theorem State.modDie_parts (s : State) (d : Nat) (f : Die → Die) : (s.modDie d f).parts = s.parts := rfl
@[simp] theorem State.modDie_fns (s : State) (d : Nat) (f : Die → Die) : (s.modDie d f).fns = s.fns := rfl
@[simp] theorem State.modDie_cmds (s : State) (d : Nat) (f : Die → Die) : (s.modDie d f).cmds = s.cmds := rfl
@[simp] theorem State.modDie_events (s : State) (d : Nat) (f : Die → Die) : (s.modDie d f).events = s.events := rfl
@[simp] theorem State.modDie_irqs (s : State) (d : Nat) (f : Die → Die) : (s.modDie d f).irqs = s.irqs := rfl
@[simp] theorem State.modDie_frames (s : State) (d : Nat) (f : Die → Die) : (s.modDie d f).frames = s.frames := rfl
@[simp] theorem State.modDie_errs (s : State) (d : Nat) (f : Die → Die) : (s.modDie d f).errs = s.errs := rfl

/-! ### modCmd -/

@[simp] theorem State.modCmd_mem (s : State) (n : Nat) (f : Cmd → Cmd) : (s.modCmd n f).mem = s.mem := rfl
@[simp] theorem State.modCmd_boot (s : State) (n : Nat) (f : Cmd → Cmd) : (s.modCmd n f).boot = s.boot := rfl
@[simp] theorem State.modCmd_now (s : State) (n : Nat) (f : Cmd → Cmd) : (s.modCmd n f).now = s.now := rfl
@[simp] theorem State.modCmd_agenda (s : State) (n : Nat) (f : Cmd → Cmd) : (s.modCmd n f).agenda = s.agenda := rfl
@[simp] theorem State.modCmd_cur (s : State) (n : Nat) (f : Cmd → Cmd) : (s.modCmd n f).cur = s.cur := rfl
@[simp] theorem State.modCmd_cmdSel (s : State) (n : Nat) (f : Cmd → Cmd) : (s.modCmd n f).cmdSel = s.cmdSel := rfl
@[simp] theorem State.modCmd_free (s : State) (n : Nat) (f : Cmd → Cmd) : (s.modCmd n f).free = s.free := rfl
@[simp] theorem State.modCmd_nextId (s : State) (n : Nat) (f : Cmd → Cmd) : (s.modCmd n f).nextId = s.nextId := rfl
@[simp] theorem State.modCmd_nextHandle (s : State) (n : Nat) (f : Cmd → Cmd) : (s.modCmd n f).nextHandle = s.nextHandle := rfl
@[simp] theorem State.modCmd_squads (s : State) (n : Nat) (f : Cmd → Cmd) : (s.modCmd n f).squads = s.squads := rfl
@[simp] theorem State.modCmd_gangs (s : State) (n : Nat) (f : Cmd → Cmd) : (s.modCmd n f).gangs = s.gangs := rfl
@[simp] theorem State.modCmd_teams (s : State) (n : Nat) (f : Cmd → Cmd) : (s.modCmd n f).teams = s.teams := rfl
@[simp] theorem State.modCmd_launches (s : State) (n : Nat) (f : Cmd → Cmd) : (s.modCmd n f).launches = s.launches := rfl
@[simp] theorem State.modCmd_pendLaunch (s : State) (n : Nat) (f : Cmd → Cmd) : (s.modCmd n f).pendLaunch = s.pendLaunch := rfl
@[simp] theorem State.modCmd_reqs (s : State) (n : Nat) (f : Cmd → Cmd) : (s.modCmd n f).reqs = s.reqs := rfl
@[simp] theorem State.modCmd_ents (s : State) (n : Nat) (f : Cmd → Cmd) : (s.modCmd n f).ents = s.ents := rfl
@[simp] theorem State.modCmd_tags (s : State) (n : Nat) (f : Cmd → Cmd) : (s.modCmd n f).tags = s.tags := rfl
@[simp] theorem State.modCmd_tlb (s : State) (n : Nat) (f : Cmd → Cmd) : (s.modCmd n f).tlb = s.tlb := rfl
@[simp] theorem State.modCmd_walks (s : State) (n : Nat) (f : Cmd → Cmd) : (s.modCmd n f).walks = s.walks := rfl
@[simp] theorem State.modCmd_lines (s : State) (n : Nat) (f : Cmd → Cmd) : (s.modCmd n f).lines = s.lines := rfl
@[simp] theorem State.modCmd_ops (s : State) (n : Nat) (f : Cmd → Cmd) : (s.modCmd n f).ops = s.ops := rfl
@[simp] theorem State.modCmd_streams (s : State) (n : Nat) (f : Cmd → Cmd) : (s.modCmd n f).streams = s.streams := rfl
@[simp] theorem State.modCmd_upds (s : State) (n : Nat) (f : Cmd → Cmd) : (s.modCmd n f).upds = s.upds := rfl
@[simp] theorem State.modCmd_arrs (s : State) (n : Nat) (f : Cmd → Cmd) : (s.modCmd n f).arrs = s.arrs := rfl
@[simp] theorem State.modCmd_flights (s : State) (n : Nat) (f : Cmd → Cmd) : (s.modCmd n f).flights = s.flights := rfl
@[simp] theorem State.modCmd_rings (s : State) (n : Nat) (f : Cmd → Cmd) : (s.modCmd n f).rings = s.rings := rfl
@[simp] theorem State.modCmd_bins (s : State) (n : Nat) (f : Cmd → Cmd) : (s.modCmd n f).bins = s.bins := rfl
@[simp] theorem State.modCmd_bundles (s : State) (n : Nat) (f : Cmd → Cmd) : (s.modCmd n f).bundles = s.bundles := rfl
@[simp] theorem State.modCmd_cores (s : State) (n : Nat) (f : Cmd → Cmd) : (s.modCmd n f).cores = s.cores := rfl
@[simp] theorem State.modCmd_parts (s : State) (n : Nat) (f : Cmd → Cmd) : (s.modCmd n f).parts = s.parts := rfl
@[simp] theorem State.modCmd_dies (s : State) (n : Nat) (f : Cmd → Cmd) : (s.modCmd n f).dies = s.dies := rfl
@[simp] theorem State.modCmd_fns (s : State) (n : Nat) (f : Cmd → Cmd) : (s.modCmd n f).fns = s.fns := rfl
@[simp] theorem State.modCmd_events (s : State) (n : Nat) (f : Cmd → Cmd) : (s.modCmd n f).events = s.events := rfl
@[simp] theorem State.modCmd_irqs (s : State) (n : Nat) (f : Cmd → Cmd) : (s.modCmd n f).irqs = s.irqs := rfl
@[simp] theorem State.modCmd_frames (s : State) (n : Nat) (f : Cmd → Cmd) : (s.modCmd n f).frames = s.frames := rfl
@[simp] theorem State.modCmd_errs (s : State) (n : Nat) (f : Cmd → Cmd) : (s.modCmd n f).errs = s.errs := rfl

/-! ### report -/

@[simp] theorem State.report_mem (s : State) (e : Event) : (s.report e).mem = s.mem := rfl
@[simp] theorem State.report_boot (s : State) (e : Event) : (s.report e).boot = s.boot := rfl
@[simp] theorem State.report_now (s : State) (e : Event) : (s.report e).now = s.now := rfl
@[simp] theorem State.report_agenda (s : State) (e : Event) : (s.report e).agenda = s.agenda := rfl
@[simp] theorem State.report_cur (s : State) (e : Event) : (s.report e).cur = s.cur := rfl
@[simp] theorem State.report_cmdSel (s : State) (e : Event) : (s.report e).cmdSel = s.cmdSel := rfl
@[simp] theorem State.report_free (s : State) (e : Event) : (s.report e).free = s.free := rfl
@[simp] theorem State.report_nextId (s : State) (e : Event) : (s.report e).nextId = s.nextId := rfl
@[simp] theorem State.report_nextHandle (s : State) (e : Event) : (s.report e).nextHandle = s.nextHandle := rfl
@[simp] theorem State.report_squads (s : State) (e : Event) : (s.report e).squads = s.squads := rfl
@[simp] theorem State.report_gangs (s : State) (e : Event) : (s.report e).gangs = s.gangs := rfl
@[simp] theorem State.report_teams (s : State) (e : Event) : (s.report e).teams = s.teams := rfl
@[simp] theorem State.report_launches (s : State) (e : Event) : (s.report e).launches = s.launches := rfl
@[simp] theorem State.report_pendLaunch (s : State) (e : Event) : (s.report e).pendLaunch = s.pendLaunch := rfl
@[simp] theorem State.report_reqs (s : State) (e : Event) : (s.report e).reqs = s.reqs := rfl
@[simp] theorem State.report_ents (s : State) (e : Event) : (s.report e).ents = s.ents := rfl
@[simp] theorem State.report_tags (s : State) (e : Event) : (s.report e).tags = s.tags := rfl
@[simp] theorem State.report_tlb (s : State) (e : Event) : (s.report e).tlb = s.tlb := rfl
@[simp] theorem State.report_walks (s : State) (e : Event) : (s.report e).walks = s.walks := rfl
@[simp] theorem State.report_lines (s : State) (e : Event) : (s.report e).lines = s.lines := rfl
@[simp] theorem State.report_ops (s : State) (e : Event) : (s.report e).ops = s.ops := rfl
@[simp] theorem State.report_streams (s : State) (e : Event) : (s.report e).streams = s.streams := rfl
@[simp] theorem State.report_upds (s : State) (e : Event) : (s.report e).upds = s.upds := rfl
@[simp] theorem State.report_arrs (s : State) (e : Event) : (s.report e).arrs = s.arrs := rfl
@[simp] theorem State.report_flights (s : State) (e : Event) : (s.report e).flights = s.flights := rfl
@[simp] theorem State.report_rings (s : State) (e : Event) : (s.report e).rings = s.rings := rfl
@[simp] theorem State.report_bins (s : State) (e : Event) : (s.report e).bins = s.bins := rfl
@[simp] theorem State.report_bundles (s : State) (e : Event) : (s.report e).bundles = s.bundles := rfl
@[simp] theorem State.report_cores (s : State) (e : Event) : (s.report e).cores = s.cores := rfl
@[simp] theorem State.report_parts (s : State) (e : Event) : (s.report e).parts = s.parts := rfl
@[simp] theorem State.report_dies (s : State) (e : Event) : (s.report e).dies = s.dies := rfl
@[simp] theorem State.report_fns (s : State) (e : Event) : (s.report e).fns = s.fns := rfl
@[simp] theorem State.report_cmds (s : State) (e : Event) : (s.report e).cmds = s.cmds := rfl
@[simp] theorem State.report_irqs (s : State) (e : Event) : (s.report e).irqs = s.irqs := rfl
@[simp] theorem State.report_frames (s : State) (e : Event) : (s.report e).frames = s.frames := rfl
@[simp] theorem State.report_errs (s : State) (e : Event) : (s.report e).errs = s.errs := rfl

/-! ### modQueue -/

@[simp] theorem State.modQueue_mem (s : State) (n q : Nat) (f : Queue → Queue) : (s.modQueue n q f).mem = s.mem := rfl
@[simp] theorem State.modQueue_boot (s : State) (n q : Nat) (f : Queue → Queue) : (s.modQueue n q f).boot = s.boot := rfl
@[simp] theorem State.modQueue_now (s : State) (n q : Nat) (f : Queue → Queue) : (s.modQueue n q f).now = s.now := rfl
@[simp] theorem State.modQueue_agenda (s : State) (n q : Nat) (f : Queue → Queue) : (s.modQueue n q f).agenda = s.agenda := rfl
@[simp] theorem State.modQueue_cur (s : State) (n q : Nat) (f : Queue → Queue) : (s.modQueue n q f).cur = s.cur := rfl
@[simp] theorem State.modQueue_cmdSel (s : State) (n q : Nat) (f : Queue → Queue) : (s.modQueue n q f).cmdSel = s.cmdSel := rfl
@[simp] theorem State.modQueue_free (s : State) (n q : Nat) (f : Queue → Queue) : (s.modQueue n q f).free = s.free := rfl
@[simp] theorem State.modQueue_nextId (s : State) (n q : Nat) (f : Queue → Queue) : (s.modQueue n q f).nextId = s.nextId := rfl
@[simp] theorem State.modQueue_nextHandle (s : State) (n q : Nat) (f : Queue → Queue) : (s.modQueue n q f).nextHandle = s.nextHandle := rfl
@[simp] theorem State.modQueue_squads (s : State) (n q : Nat) (f : Queue → Queue) : (s.modQueue n q f).squads = s.squads := rfl
@[simp] theorem State.modQueue_gangs (s : State) (n q : Nat) (f : Queue → Queue) : (s.modQueue n q f).gangs = s.gangs := rfl
@[simp] theorem State.modQueue_teams (s : State) (n q : Nat) (f : Queue → Queue) : (s.modQueue n q f).teams = s.teams := rfl
@[simp] theorem State.modQueue_launches (s : State) (n q : Nat) (f : Queue → Queue) : (s.modQueue n q f).launches = s.launches := rfl
@[simp] theorem State.modQueue_pendLaunch (s : State) (n q : Nat) (f : Queue → Queue) : (s.modQueue n q f).pendLaunch = s.pendLaunch := rfl
@[simp] theorem State.modQueue_reqs (s : State) (n q : Nat) (f : Queue → Queue) : (s.modQueue n q f).reqs = s.reqs := rfl
@[simp] theorem State.modQueue_ents (s : State) (n q : Nat) (f : Queue → Queue) : (s.modQueue n q f).ents = s.ents := rfl
@[simp] theorem State.modQueue_tags (s : State) (n q : Nat) (f : Queue → Queue) : (s.modQueue n q f).tags = s.tags := rfl
@[simp] theorem State.modQueue_tlb (s : State) (n q : Nat) (f : Queue → Queue) : (s.modQueue n q f).tlb = s.tlb := rfl
@[simp] theorem State.modQueue_walks (s : State) (n q : Nat) (f : Queue → Queue) : (s.modQueue n q f).walks = s.walks := rfl
@[simp] theorem State.modQueue_lines (s : State) (n q : Nat) (f : Queue → Queue) : (s.modQueue n q f).lines = s.lines := rfl
@[simp] theorem State.modQueue_ops (s : State) (n q : Nat) (f : Queue → Queue) : (s.modQueue n q f).ops = s.ops := rfl
@[simp] theorem State.modQueue_streams (s : State) (n q : Nat) (f : Queue → Queue) : (s.modQueue n q f).streams = s.streams := rfl
@[simp] theorem State.modQueue_upds (s : State) (n q : Nat) (f : Queue → Queue) : (s.modQueue n q f).upds = s.upds := rfl
@[simp] theorem State.modQueue_arrs (s : State) (n q : Nat) (f : Queue → Queue) : (s.modQueue n q f).arrs = s.arrs := rfl
@[simp] theorem State.modQueue_flights (s : State) (n q : Nat) (f : Queue → Queue) : (s.modQueue n q f).flights = s.flights := rfl
@[simp] theorem State.modQueue_rings (s : State) (n q : Nat) (f : Queue → Queue) : (s.modQueue n q f).rings = s.rings := rfl
@[simp] theorem State.modQueue_bins (s : State) (n q : Nat) (f : Queue → Queue) : (s.modQueue n q f).bins = s.bins := rfl
@[simp] theorem State.modQueue_bundles (s : State) (n q : Nat) (f : Queue → Queue) : (s.modQueue n q f).bundles = s.bundles := rfl
@[simp] theorem State.modQueue_cores (s : State) (n q : Nat) (f : Queue → Queue) : (s.modQueue n q f).cores = s.cores := rfl
@[simp] theorem State.modQueue_parts (s : State) (n q : Nat) (f : Queue → Queue) : (s.modQueue n q f).parts = s.parts := rfl
@[simp] theorem State.modQueue_dies (s : State) (n q : Nat) (f : Queue → Queue) : (s.modQueue n q f).dies = s.dies := rfl
@[simp] theorem State.modQueue_cmds (s : State) (n q : Nat) (f : Queue → Queue) : (s.modQueue n q f).cmds = s.cmds := rfl
@[simp] theorem State.modQueue_events (s : State) (n q : Nat) (f : Queue → Queue) : (s.modQueue n q f).events = s.events := rfl
@[simp] theorem State.modQueue_irqs (s : State) (n q : Nat) (f : Queue → Queue) : (s.modQueue n q f).irqs = s.irqs := rfl
@[simp] theorem State.modQueue_frames (s : State) (n q : Nat) (f : Queue → Queue) : (s.modQueue n q f).frames = s.frames := rfl
@[simp] theorem State.modQueue_errs (s : State) (n q : Nat) (f : Queue → Queue) : (s.modQueue n q f).errs = s.errs := rfl

/-! ### Drawn values and record numbers -/

@[simp] theorem State.draw_mem (s : State) : s.draw.2.mem = s.mem := rfl
@[simp] theorem State.draw_boot (s : State) : s.draw.2.boot = s.boot := rfl
@[simp] theorem State.draw_now (s : State) : s.draw.2.now = s.now := rfl
@[simp] theorem State.draw_agenda (s : State) : s.draw.2.agenda = s.agenda := rfl
@[simp] theorem State.draw_cur (s : State) : s.draw.2.cur = s.cur := rfl
@[simp] theorem State.draw_cmdSel (s : State) : s.draw.2.cmdSel = s.cmdSel := rfl
@[simp] theorem State.draw_nextId (s : State) : s.draw.2.nextId = s.nextId := rfl
@[simp] theorem State.draw_nextHandle (s : State) : s.draw.2.nextHandle = s.nextHandle := rfl
@[simp] theorem State.draw_squads (s : State) : s.draw.2.squads = s.squads := rfl
@[simp] theorem State.draw_gangs (s : State) : s.draw.2.gangs = s.gangs := rfl
@[simp] theorem State.draw_teams (s : State) : s.draw.2.teams = s.teams := rfl
@[simp] theorem State.draw_launches (s : State) : s.draw.2.launches = s.launches := rfl
@[simp] theorem State.draw_pendLaunch (s : State) : s.draw.2.pendLaunch = s.pendLaunch := rfl
@[simp] theorem State.draw_reqs (s : State) : s.draw.2.reqs = s.reqs := rfl
@[simp] theorem State.draw_ents (s : State) : s.draw.2.ents = s.ents := rfl
@[simp] theorem State.draw_tags (s : State) : s.draw.2.tags = s.tags := rfl
@[simp] theorem State.draw_tlb (s : State) : s.draw.2.tlb = s.tlb := rfl
@[simp] theorem State.draw_walks (s : State) : s.draw.2.walks = s.walks := rfl
@[simp] theorem State.draw_lines (s : State) : s.draw.2.lines = s.lines := rfl
@[simp] theorem State.draw_ops (s : State) : s.draw.2.ops = s.ops := rfl
@[simp] theorem State.draw_streams (s : State) : s.draw.2.streams = s.streams := rfl
@[simp] theorem State.draw_upds (s : State) : s.draw.2.upds = s.upds := rfl
@[simp] theorem State.draw_arrs (s : State) : s.draw.2.arrs = s.arrs := rfl
@[simp] theorem State.draw_flights (s : State) : s.draw.2.flights = s.flights := rfl
@[simp] theorem State.draw_rings (s : State) : s.draw.2.rings = s.rings := rfl
@[simp] theorem State.draw_bins (s : State) : s.draw.2.bins = s.bins := rfl
@[simp] theorem State.draw_bundles (s : State) : s.draw.2.bundles = s.bundles := rfl
@[simp] theorem State.draw_cores (s : State) : s.draw.2.cores = s.cores := rfl
@[simp] theorem State.draw_parts (s : State) : s.draw.2.parts = s.parts := rfl
@[simp] theorem State.draw_dies (s : State) : s.draw.2.dies = s.dies := rfl
@[simp] theorem State.draw_fns (s : State) : s.draw.2.fns = s.fns := rfl
@[simp] theorem State.draw_cmds (s : State) : s.draw.2.cmds = s.cmds := rfl
@[simp] theorem State.draw_events (s : State) : s.draw.2.events = s.events := rfl
@[simp] theorem State.draw_irqs (s : State) : s.draw.2.irqs = s.irqs := rfl
@[simp] theorem State.draw_frames (s : State) : s.draw.2.frames = s.frames := rfl
@[simp] theorem State.draw_errs (s : State) : s.draw.2.errs = s.errs := rfl
@[simp] theorem State.fresh_mem (s : State) : s.fresh.2.mem = s.mem := rfl
@[simp] theorem State.fresh_boot (s : State) : s.fresh.2.boot = s.boot := rfl
@[simp] theorem State.fresh_now (s : State) : s.fresh.2.now = s.now := rfl
@[simp] theorem State.fresh_agenda (s : State) : s.fresh.2.agenda = s.agenda := rfl
@[simp] theorem State.fresh_cur (s : State) : s.fresh.2.cur = s.cur := rfl
@[simp] theorem State.fresh_cmdSel (s : State) : s.fresh.2.cmdSel = s.cmdSel := rfl
@[simp] theorem State.fresh_free (s : State) : s.fresh.2.free = s.free := rfl
@[simp] theorem State.fresh_nextHandle (s : State) : s.fresh.2.nextHandle = s.nextHandle := rfl
@[simp] theorem State.fresh_squads (s : State) : s.fresh.2.squads = s.squads := rfl
@[simp] theorem State.fresh_gangs (s : State) : s.fresh.2.gangs = s.gangs := rfl
@[simp] theorem State.fresh_teams (s : State) : s.fresh.2.teams = s.teams := rfl
@[simp] theorem State.fresh_launches (s : State) : s.fresh.2.launches = s.launches := rfl
@[simp] theorem State.fresh_pendLaunch (s : State) : s.fresh.2.pendLaunch = s.pendLaunch := rfl
@[simp] theorem State.fresh_reqs (s : State) : s.fresh.2.reqs = s.reqs := rfl
@[simp] theorem State.fresh_ents (s : State) : s.fresh.2.ents = s.ents := rfl
@[simp] theorem State.fresh_tags (s : State) : s.fresh.2.tags = s.tags := rfl
@[simp] theorem State.fresh_tlb (s : State) : s.fresh.2.tlb = s.tlb := rfl
@[simp] theorem State.fresh_walks (s : State) : s.fresh.2.walks = s.walks := rfl
@[simp] theorem State.fresh_lines (s : State) : s.fresh.2.lines = s.lines := rfl
@[simp] theorem State.fresh_ops (s : State) : s.fresh.2.ops = s.ops := rfl
@[simp] theorem State.fresh_streams (s : State) : s.fresh.2.streams = s.streams := rfl
@[simp] theorem State.fresh_upds (s : State) : s.fresh.2.upds = s.upds := rfl
@[simp] theorem State.fresh_arrs (s : State) : s.fresh.2.arrs = s.arrs := rfl
@[simp] theorem State.fresh_flights (s : State) : s.fresh.2.flights = s.flights := rfl
@[simp] theorem State.fresh_rings (s : State) : s.fresh.2.rings = s.rings := rfl
@[simp] theorem State.fresh_bins (s : State) : s.fresh.2.bins = s.bins := rfl
@[simp] theorem State.fresh_bundles (s : State) : s.fresh.2.bundles = s.bundles := rfl
@[simp] theorem State.fresh_cores (s : State) : s.fresh.2.cores = s.cores := rfl
@[simp] theorem State.fresh_parts (s : State) : s.fresh.2.parts = s.parts := rfl
@[simp] theorem State.fresh_dies (s : State) : s.fresh.2.dies = s.dies := rfl
@[simp] theorem State.fresh_fns (s : State) : s.fresh.2.fns = s.fns := rfl
@[simp] theorem State.fresh_cmds (s : State) : s.fresh.2.cmds = s.cmds := rfl
@[simp] theorem State.fresh_events (s : State) : s.fresh.2.events = s.events := rfl
@[simp] theorem State.fresh_irqs (s : State) : s.fresh.2.irqs = s.irqs := rfl
@[simp] theorem State.fresh_frames (s : State) : s.fresh.2.frames = s.frames := rfl
@[simp] theorem State.fresh_errs (s : State) : s.fresh.2.errs = s.errs := rfl
@[simp] theorem State.newHandle_mem (s : State) : s.newHandle.2.mem = s.mem := rfl
@[simp] theorem State.newHandle_boot (s : State) : s.newHandle.2.boot = s.boot := rfl
@[simp] theorem State.newHandle_now (s : State) : s.newHandle.2.now = s.now := rfl
@[simp] theorem State.newHandle_agenda (s : State) : s.newHandle.2.agenda = s.agenda := rfl
@[simp] theorem State.newHandle_cur (s : State) : s.newHandle.2.cur = s.cur := rfl
@[simp] theorem State.newHandle_cmdSel (s : State) : s.newHandle.2.cmdSel = s.cmdSel := rfl
@[simp] theorem State.newHandle_free (s : State) : s.newHandle.2.free = s.free := rfl
@[simp] theorem State.newHandle_nextId (s : State) : s.newHandle.2.nextId = s.nextId := rfl
@[simp] theorem State.newHandle_squads (s : State) : s.newHandle.2.squads = s.squads := rfl
@[simp] theorem State.newHandle_gangs (s : State) : s.newHandle.2.gangs = s.gangs := rfl
@[simp] theorem State.newHandle_teams (s : State) : s.newHandle.2.teams = s.teams := rfl
@[simp] theorem State.newHandle_launches (s : State) : s.newHandle.2.launches = s.launches := rfl
@[simp] theorem State.newHandle_pendLaunch (s : State) : s.newHandle.2.pendLaunch = s.pendLaunch := rfl
@[simp] theorem State.newHandle_reqs (s : State) : s.newHandle.2.reqs = s.reqs := rfl
@[simp] theorem State.newHandle_ents (s : State) : s.newHandle.2.ents = s.ents := rfl
@[simp] theorem State.newHandle_tags (s : State) : s.newHandle.2.tags = s.tags := rfl
@[simp] theorem State.newHandle_tlb (s : State) : s.newHandle.2.tlb = s.tlb := rfl
@[simp] theorem State.newHandle_walks (s : State) : s.newHandle.2.walks = s.walks := rfl
@[simp] theorem State.newHandle_lines (s : State) : s.newHandle.2.lines = s.lines := rfl
@[simp] theorem State.newHandle_ops (s : State) : s.newHandle.2.ops = s.ops := rfl
@[simp] theorem State.newHandle_streams (s : State) : s.newHandle.2.streams = s.streams := rfl
@[simp] theorem State.newHandle_upds (s : State) : s.newHandle.2.upds = s.upds := rfl
@[simp] theorem State.newHandle_arrs (s : State) : s.newHandle.2.arrs = s.arrs := rfl
@[simp] theorem State.newHandle_flights (s : State) : s.newHandle.2.flights = s.flights := rfl
@[simp] theorem State.newHandle_rings (s : State) : s.newHandle.2.rings = s.rings := rfl
@[simp] theorem State.newHandle_bins (s : State) : s.newHandle.2.bins = s.bins := rfl
@[simp] theorem State.newHandle_bundles (s : State) : s.newHandle.2.bundles = s.bundles := rfl
@[simp] theorem State.newHandle_cores (s : State) : s.newHandle.2.cores = s.cores := rfl
@[simp] theorem State.newHandle_parts (s : State) : s.newHandle.2.parts = s.parts := rfl
@[simp] theorem State.newHandle_dies (s : State) : s.newHandle.2.dies = s.dies := rfl
@[simp] theorem State.newHandle_fns (s : State) : s.newHandle.2.fns = s.fns := rfl
@[simp] theorem State.newHandle_cmds (s : State) : s.newHandle.2.cmds = s.cmds := rfl
@[simp] theorem State.newHandle_events (s : State) : s.newHandle.2.events = s.events := rfl
@[simp] theorem State.newHandle_irqs (s : State) : s.newHandle.2.irqs = s.irqs := rfl
@[simp] theorem State.newHandle_frames (s : State) : s.newHandle.2.frames = s.frames := rfl
@[simp] theorem State.newHandle_errs (s : State) : s.newHandle.2.errs = s.errs := rfl

/-! ### Tables by number -/

theorem find_map_same {α : Type} (key : α → Nat) (f : α → α) (hf : ∀ x, key (f x) = key x) (l : List α) (n : Nat) :
    (l.map fun x => if key x = n then f x else x).find? (fun x => key x == n) = (l.find? fun x => key x == n).map f := by
  induction l with
  | nil => rfl
  | cons x rest ih =>
    by_cases h : key x = n
    · simp [h, hf]
    · simp only [List.map_cons, h, if_false, List.find?_cons]
      have : (key x == n) = false := by simpa using h
      simp only [this]
      exact ih

theorem find_map_other {α : Type} (key : α → Nat) (f : α → α) (hf : ∀ x, key (f x) = key x) (l : List α) {n m : Nat} (h : m ≠ n) :
    (l.map fun x => if key x = n then f x else x).find? (fun x => key x == m) = l.find? fun x => key x == m := by
  induction l with
  | nil => rfl
  | cons x rest ih =>
    by_cases hx : key x = n
    · have h1 : (n == m) = false := by simp; omega
      simp only [List.map_cons, hx, if_true, List.find?_cons, hf, h1]
      exact ih
    · simp only [List.map_cons, hx, if_false, List.find?_cons]
      cases key x == m with
      | true => rfl
      | false => exact ih

theorem State.squad_modSquad_same (s : State) (n : Nat) (f : Squad → Squad) (hf : ∀ x, (f x).id = x.id) :
    (s.modSquad n f).squad? n = (s.squad? n).map f := find_map_same (fun x : Squad => x.id) f hf s.squads n
theorem State.squad_modSquad_other (s : State) {n m : Nat} (f : Squad → Squad) (hf : ∀ x, (f x).id = x.id) (h : m ≠ n) :
    (s.modSquad n f).squad? m = s.squad? m := find_map_other (fun x : Squad => x.id) f hf s.squads h

theorem State.gang_modGang_same (s : State) (n : Nat) (f : Gang → Gang) (hf : ∀ x, (f x).id = x.id) :
    (s.modGang n f).gang? n = (s.gang? n).map f := find_map_same (fun x : Gang => x.id) f hf s.gangs n
theorem State.gang_modGang_other (s : State) {n m : Nat} (f : Gang → Gang) (hf : ∀ x, (f x).id = x.id) (h : m ≠ n) :
    (s.modGang n f).gang? m = s.gang? m := find_map_other (fun x : Gang => x.id) f hf s.gangs h

theorem State.team_modTeam_same (s : State) (n : Nat) (f : Team → Team) (hf : ∀ x, (f x).id = x.id) :
    (s.modTeam n f).team? n = (s.team? n).map f := find_map_same (fun x : Team => x.id) f hf s.teams n
theorem State.team_modTeam_other (s : State) {n m : Nat} (f : Team → Team) (hf : ∀ x, (f x).id = x.id) (h : m ≠ n) :
    (s.modTeam n f).team? m = s.team? m := find_map_other (fun x : Team => x.id) f hf s.teams h

theorem State.fn_modFn_same (s : State) (n : Nat) (f : Fn → Fn) (hf : ∀ x, (f x).id = x.id) :
    (s.modFn n f).fn? n = (s.fn? n).map f := find_map_same (fun x : Fn => x.id) f hf s.fns n
theorem State.fn_modFn_other (s : State) {n m : Nat} (f : Fn → Fn) (hf : ∀ x, (f x).id = x.id) (h : m ≠ n) :
    (s.modFn n f).fn? m = s.fn? m := find_map_other (fun x : Fn => x.id) f hf s.fns h

theorem State.cmd_modCmd_same (s : State) (n : Nat) (f : Cmd → Cmd) (hf : ∀ x, (f x).id = x.id) :
    (s.modCmd n f).cmd? n = (s.cmd? n).map f := find_map_same (fun x : Cmd => x.id) f hf s.cmds n
theorem State.cmd_modCmd_other (s : State) {n m : Nat} (f : Cmd → Cmd) (hf : ∀ x, (f x).id = x.id) (h : m ≠ n) :
    (s.modCmd n f).cmd? m = s.cmd? m := find_map_other (fun x : Cmd => x.id) f hf s.cmds h

/-- Of a table by number, the number of what was found. -/
theorem State.squad_id {s : State} {n : Nat} {q : Squad} (h : s.squad? n = some q) : q.id = n := by simpa using List.find?_some h
theorem State.gang_id {s : State} {n : Nat} {g : Gang} (h : s.gang? n = some g) : g.id = n := by simpa using List.find?_some h
theorem State.team_id {s : State} {n : Nat} {t : Team} (h : s.team? n = some t) : t.id = n := by simpa using List.find?_some h
theorem State.fn_id {s : State} {n : Nat} {f : Fn} (h : s.fn? n = some f) : f.id = n := by simpa using List.find?_some h
theorem State.cmd_id {s : State} {n : Nat} {c : Cmd} (h : s.cmd? n = some c) : c.id = n := by simpa using List.find?_some h
theorem State.launch_handle {s : State} {h : Word} {l : Launch} (e : s.launch? h = some l) : l.handle = h := by simpa using List.find?_some e

theorem State.here_gang {s : State} {g : Gang} {q : Squad} (h : s.here? = some (g, q)) :
    s.gang? s.cur = some g ∧ s.squad? g.squad = some q := by
  unfold State.here? at h
  split at h
  · cases h
  · rename_i x hx
    split at h
    · cases h
    · rename_i y hy
      cases h
      exact ⟨hx, hy⟩

/-! ### Units -/

@[simp] theorem State.core_modCore_same (s : State) (c : Nat) (f : Core → Core) : (s.modCore c f).core c = f (s.core c) :=
  Assoc.get_set_same _ _ _ _
theorem State.core_modCore_other (s : State) {c d : Nat} (f : Core → Core) (h : d ≠ c) : (s.modCore c f).core d = s.core d :=
  Assoc.get_set_other _ _ _ h
@[simp] theorem State.part_modPart_same (s : State) (c p : Nat) (f : Part → Part) : (s.modPart c p f).part c p = f (s.part c p) :=
  Assoc.get_set_same _ _ _ _
theorem State.part_modPart_other (s : State) {c p d r : Nat} (f : Part → Part) (h : 12 * d + r ≠ 12 * c + p) :
    (s.modPart c p f).part d r = s.part d r := Assoc.get_set_other _ _ _ h

end Sys2Proof.Machine
end

