-- ==== Sys2Proof/Laws/Ops.lean ====
section
/-!
SUPPORT. What each shared operation can do, said once: the choice of a gang, the checks of a word, a result, a trap, a wait, a host command, an
agenda item and a step; and that traps, faults, parks and splits leave memory as it is.
-/
namespace Sys2Proof.Machine

/-! ### The gang of an instruction, and the checks of its word -/

/-- An instruction of the gang that is selected. -/
theorem onGang_eq {s : State} {g : Gang} {q : Squad} {k : Gang → Squad → State} (h : s.here? = some (g, q)) : onGang s k = .next (k g q) := by
  simp [onGang, h]

/-- Without a selected gang nothing issues; with one its meaning is performed. -/
theorem onGang_cases {s t : State} {k : Gang → Squad → State} (h : onGang s k = .next t) :
    (s.here? = none ∧ t = s) ∨ ∃ g q, s.here? = some (g, q) ∧ t = k g q := by
  unfold onGang at h
  split at h
  · rename_i g q hq; exact .inr ⟨g, q, hq, by cases h; rfl⟩
  · rename_i hq; exact .inl ⟨hq, by cases h; rfl⟩

/-- Classes 3 and 4 of R107: a word of illegal operands traps, else one of a forbidden class, else it is performed. -/
theorem checked_cases (s : State) (g : Gang) (q : Squad) (e : Eng) (ok : Bool) (k : State) :
    (ok = false ∧ checked s g q e ok k = s.decodeTrap g cIllegalOperand) ∨
    (ok = true ∧ roleFault q e = true ∧ checked s g q e ok k = s.decodeTrap g cRoleViolation) ∨
    (ok = true ∧ roleFault q e = false ∧ checked s g q e ok k = k) := by
  cases ok <;> cases h : roleFault q e <;> simp [checked, h]

theorem checked_ok {s : State} {g : Gang} {q : Squad} {e : Eng} {ok : Bool} {k : State} (h : ok = true) (hr : roleFault q e = false) :
    checked s g q e ok k = k := by simp [checked, h, hr]

theorem roleFault_lane (q : Squad) : roleFault q .lane = false := by unfold roleFault; split <;> simp [roleAllows]
theorem roleFault_sfu (q : Squad) : roleFault q .sfu = false := by unfold roleFault; split <;> simp [roleAllows]
theorem roleFault_ctl (q : Squad) : roleFault q .ctl = false := by unfold roleFault; split <;> simp [roleAllows]
theorem roleFault_sync (q : Squad) : roleFault q .sync = false := by unfold roleFault; split <;> simp [roleAllows]

/-! ### Results -/

/-- A word that gives a result to each held lane completes. -/
theorem laneOp_next {s : State} {e : Eng} {c : Common} {ok : Squad → Bool} {k : Nat} {f : State → Gang → Squad → Nat → Nat × Flags}
    {g : Gang} {q : Squad} (h : s.here? = some (g, q)) (hok : ok q = true) (hr : roleFault q e = false) :
    laneOp s e c ok k f = .next (laneDone s g q c k (f s g q)) := by
  simp [laneOp, onGang, h, checked, hok, hr, laneDone]

/-- An instruction whose meaning is a pure lane operation gives its result. -/
theorem pureOp_gives {i : Instr} {s : State} {c : Common} {ok : Squad → Bool} {k : Nat} {f f' : Squad → Nat → Nat × Flags}
    (h : exec i s = pureOp s c ok k f') (hf : f' = f) : Gives i s ok c k f := by
  intro g q hg hok
  rw [h, pureOp, laneOp_next hg hok (roleFault_lane q), hf]

/-- A wrapped or saturated integer result is that of Safety's words. -/
theorem wrapOrSat_eq (w : Nat) (sat u : Bool) (v : Int) : wrapOrSat w sat u v = if sat then clampTo w u v else wrapTo w v := by
  cases sat <;> simp [wrapOrSat, clampTo, wrapTo, encodeInt]

/-- A CTL word of legal operands is performed. -/
theorem ctlOp_next {s : State} {ok : Squad → Bool} {k : Gang → Squad → State} {g : Gang} {q : Squad} (h : s.here? = some (g, q))
    (hok : ok q = true) : ctlOp s ok k = .next (k g q) := by
  simp [ctlOp, onGang, h, checked, hok, roleFault_ctl]

/-! ### Events of a gang -/

/-- An event of a gang happens where its condition holds, and else changes nothing. -/
theorem onWait_cases {s t : State} {ok : Gang → Squad → Bool} {k : Gang → Squad → State} (h : onWait s ok k = .next t) :
    t = s ∨ ∃ g q, s.here? = some (g, q) ∧ ok g q = true ∧ t = k g q := by
  unfold onWait at h
  split at h
  · rename_i g q hq
    split at h
    · rename_i hok; exact .inr ⟨g, q, hq, hok, by cases h; rfl⟩
    · exact .inl (by cases h; rfl)
  · exact .inl (by cases h; rfl)

theorem onWait_next {s : State} {ok : Gang → Squad → Bool} {k : Gang → Squad → State} {g : Gang} {q : Squad} (h : s.here? = some (g, q))
    (hok : ok g q = true) : onWait s ok k = .next (k g q) := by simp [onWait, h, hok]

/-! ### Traps, faults and the end of launches leave memory as it is -/

@[simp] theorem State.reportFault_mem (s : State) (kind : Nat) (h : Word) (core part : Nat) (frame : Word) (r : FaultRec) :
    (s.reportFault kind h core part frame r).mem = s.mem := rfl
@[simp] theorem State.reportFault_launches (s : State) (kind : Nat) (h : Word) (core part : Nat) (frame : Word) (r : FaultRec) :
    (s.reportFault kind h core part frame r).launches = s.launches := rfl
@[simp] theorem State.wakeSaves_mem (s : State) (fn asc : Nat) : (s.wakeSaves fn asc).mem = s.mem := rfl

/-- A fold of steps that leave memory leaves memory. -/
theorem foldl_mem {α : Type} (f : State → α → State) (hf : ∀ s x, (f s x).mem = s.mem) (l : List α) (s : State) : (l.foldl f s).mem = s.mem := by
  induction l generalizing s with
  | nil => rfl
  | cons x rest ih => rw [List.foldl_cons, ih, hf]

@[simp] theorem State.freeFrames_mem (s : State) (p : FrameAlloc → Bool) : (s.freeFrames p).mem = s.mem := by
  unfold State.freeFrames
  rw [foldl_mem]
  intros; rfl
@[simp] theorem State.closeWindow_mem (s : State) (t : Team) : (s.closeWindow t).mem = s.mem := rfl
@[simp] theorem State.stopLaunch_mem (s : State) (h : Word) : (s.stopLaunch h).mem = s.mem := by
  have hf := foldl_mem (fun (s : State) t => s.closeWindow t) (fun _ _ => rfl) (s.teams.filter fun t => t.launch == h) s
  simp [State.stopLaunch, hf]

@[simp] theorem State.endLaunch_mem (s : State) (h : Word) : (s.endLaunch h).mem = s.mem := by
  unfold State.endLaunch
  apply foldl_mem
  intro s h
  split
  · split <;> simp
  · rfl

@[simp] theorem State.fatal_mem (s : State) (h : Word) (core part : Nat) (rs : List FaultRec) : (s.fatal h core part rs).mem = s.mem := by
  rw [State.fatal, State.endLaunch_mem, foldl_mem]
  intros; rfl

@[simp] theorem State.atomicRefused_mem (s : State) (h : Word) (core part : Nat) (m : Lanes) (home : Nat) :
    (s.atomicRefused h core part m home).mem = s.mem := by
  unfold State.atomicRefused
  split <;> simp

@[simp] theorem State.tagHome_mem (s : State) (home n : Nat) (keep : Bool) (rel : List Release) : (s.tagHome home n keep rel).mem = s.mem := rfl
@[simp] theorem State.unblock_mem (s : State) (n : Nat) : (s.unblock n).mem = s.mem := rfl

/-! ### Memory while requests are counted and errors are found -/

@[simp] theorem State.occupancy_mem (s : State) (core : Nat) : (s.occupancy core).2.mem = s.mem := by
  unfold State.occupancy; dsimp only; split <;> rfl

@[simp] theorem State.stay_mem (s : State) (core : Nat) (slice : Option Nat) (store : Bool) (n : Nat) : (s.stay core slice store n).mem = s.mem := by
  unfold State.stay State.draw
  split
  · rfl
  · dsimp only
    repeat' split
    all_goals rfl

@[simp] theorem State.acceptWrite_mem (s : State) (e : Ent) : (s.acceptWrite e).mem = s.mem := by
  unfold State.acceptWrite
  split
  · rfl
  · split <;> simp

/-- A single-bit error that is corrected leaves the value of its word as programs read it. -/
@[simp] theorem State.eccCorrect_mem (s : State) (home n : Nat) : (s.eccCorrect home n).mem = s.mem := by
  unfold State.eccCorrect
  rw [foldl_mem]
  intros; rfl

@[simp] theorem State.eccEnd_mem (s : State) (fn asc core part : Nat) (r : FaultRec) (home : Option Nat) :
    (s.eccEnd fn asc core part r home).mem = s.mem := by
  unfold State.eccEnd
  rw [foldl_mem]
  intros; split <;> simp

@[simp] theorem State.eccLaunch_mem (s : State) (h : Word) (core part : Nat) (r : FaultRec) (home : Option Nat) :
    (s.eccLaunch h core part r home).mem = s.mem := by
  unfold State.eccLaunch; split <;> simp

@[simp] theorem State.eccFatal_mem (s : State) (h : Word) (core part eng coff : Nat) (lanes : Lanes) (pc : Word) (word : Nat) :
    (s.eccFatal h core part eng coff lanes pc word).mem = s.mem := State.eccLaunch_mem _ _ _ _ _ _

/-- A posted write that arrives keeps memory canonical, and so does each that an access waits for. -/
theorem State.entHome_safe {s : State} (e : Ent) (h : Safe s) : Safe (s.entHome e) := by
  unfold State.entHome
  dsimp only
  split
  · simpa [Safe] using h
  · split
    · simpa [Safe] using h
    · have hc (t : State) (ht : t.mem.wf = true) :=
        State.commit_safe (s := t) e.home e.post.len (decide (e.lane < 33)) false (Memory.wf_applyPost e.home e.post ht)
      simp only [Safe] at hc ⊢
      split <;> split <;> simp only [State.unblock_mem, State.tagHome_mem] <;> exact hc _ (by simpa [Safe] using h)

theorem State.drainTo_safe {s : State} (core before home n : Nat) (h : Safe s) : Safe (s.drainTo core before home n) :=
  foldl_safe _ (fun _ e hs => State.entHome_safe e hs) _ h

@[simp] theorem State.clearLatches_mem (s : State) (g : Gang) : (s.clearLatches g).mem = s.mem := rfl
@[simp] theorem State.enterHandler_mem (s : State) (g : Gang) (tv : Word) (t : TrapRegs) (r : FaultRec) : (s.enterHandler g tv t r).mem = s.mem := rfl

/-- Taking a trap, in its handler or fatal, leaves memory. -/
@[simp] theorem State.takeTrap_mem (s : State) (g : Gang) (code : Nat) (m : Lanes) (addr detail : Word) :
    (s.takeTrap g code m addr detail).mem = s.mem := by
  unfold State.takeTrap State.deliver
  split
  · rfl
  · dsimp only
    repeat' split
    all_goals simp

@[simp] theorem State.decodeTrap_mem (s : State) (g : Gang) (code : Nat) : (s.decodeTrap g code).mem = s.mem := State.takeTrap_mem _ _ _ _ _ _
@[simp] theorem State.advance_mem (s : State) (g : Nat) : (s.advance g).mem = s.mem := rfl
@[simp] theorem State.hold_mem (s : State) (g : Nat) (w : Wait) : (s.hold g w).mem = s.mem := rfl
@[simp] theorem State.stall_mem (s : State) (g : Nat) (w : Wait) : (s.stall g w).mem = s.mem := rfl
@[simp] theorem State.sendUpd_mem (s : State) (u : Upd) : (s.sendUpd u).mem = s.mem := rfl

@[simp] theorem State.park_mem (s : State) (g : Gang) (m : Lanes) (f : Nat → FaultRec) : (s.park g m f).mem = s.mem := by
  unfold State.park; dsimp only; split <;> rfl

@[simp] theorem addSubgangs_mem (s : State) (g : Gang) (gs : List ((Word × Bool) × Lanes)) : (addSubgangs s g gs).mem = s.mem := by
  unfold addSubgangs
  rw [foldl_mem]
  intros; rfl

@[simp] theorem State.split_mem (s : State) (g : Gang) (ts : List (Nat × Word × Bool)) : (s.split g ts).mem = s.mem := by
  unfold State.split; split <;> simp

/-- A checked word whose effect keeps memory canonical keeps it. -/
theorem checked_safe {s : State} {g : Gang} {q : Squad} {e : Eng} {ok : Bool} {k : State} (h : Safe s) (hk : Safe k) : Safe (checked s g q e ok k) := by
  rcases checked_cases s g q e ok k with ⟨_, h1⟩ | ⟨_, _, h1⟩ | ⟨_, _, h1⟩ <;> rw [h1]
  · simpa [Safe] using h
  · simpa [Safe] using h
  · exact hk

theorem onGang_safe {s t : State} {k : Gang → Squad → State} (h : Safe s) (hk : ∀ g q, s.here? = some (g, q) → Safe (k g q))
    (e : onGang s k = .next t) : Safe t := by
  rcases onGang_cases e with ⟨_, rfl⟩ | ⟨g, q, hg, rfl⟩
  · exact h
  · exact hk g q hg

theorem onWait_safe {s t : State} {ok : Gang → Squad → Bool} {k : Gang → Squad → State} (h : Safe s)
    (hk : ∀ g q, s.here? = some (g, q) → ok g q = true → Safe (k g q)) (e : onWait s ok k = .next t) : Safe t := by
  rcases onWait_cases e with rfl | ⟨g, q, hg, hok, rfl⟩
  · exact h
  · exact hk g q hg hok

theorem laneOp_safe {s t : State} {e : Eng} {c : Common} {ok : Squad → Bool} {k : Nat} {f : State → Gang → Squad → Nat → Nat × Flags}
    (h : Safe s) (he : laneOp s e c ok k f = .next t) : Safe t := by
  unfold laneOp at he
  refine onGang_safe h (fun g q _ => checked_safe h ?_) he
  simpa [Safe] using h

/-! ### Steps -/

@[simp] theorem State.poolRefresh_mem (s : State) (die : Nat) (wide : Bool) : (s.poolRefresh die wide).mem = s.mem := rfl

@[simp] theorem State.poolsDue_mem (s : State) : s.poolsDue.mem = s.mem := by
  unfold State.poolsDue
  refine foldl_mem _ (fun s d => ?_) _ _
  dsimp only
  split <;> split <;> simp

@[simp] theorem State.delayGang_mem (s : State) (dt : Nat) (g : Gang) : (s.delayGang dt g).mem = s.mem := by
  unfold State.delayGang
  split
  · rfl
  · dsimp only
    repeat' split
    all_goals rfl

@[simp] theorem State.delayWalk_mem (s : State) (dt : Nat) (w : Walk) : (s.delayWalk dt w).mem = s.mem := by
  unfold State.delayWalk; split <;> rfl

@[simp] theorem State.delayUpd_mem (s : State) (dt : Nat) (u : Upd) : (s.delayUpd dt u).mem = s.mem := by
  unfold State.delayUpd
  split
  · rfl
  · dsimp only; split <;> rfl

@[simp] theorem State.delayDepart_mem (s : State) (dt : Nat) (q : Squad) : (s.delayDepart dt q).mem = s.mem := by
  unfold State.delayDepart; dsimp only; split <;> rfl

@[simp] theorem State.delayKept_mem (s : State) (dt : Nat) (q : Squad) : (s.delayKept dt q).mem = s.mem := by
  unfold State.delayKept; split <;> rfl

/-- Time passes: no byte of memory changes. -/
@[simp] theorem State.tick_mem (s : State) (dt : Nat) : (s.tick dt).mem = s.mem := by
  unfold State.tick
  split
  · rfl
  · dsimp only
    rw [State.poolsDue_mem]
    show State.mem (List.foldl _ _ _) = _
    rw [foldl_mem (fun (s : State) b => s.delayBin dt b) fun _ _ => rfl,
      foldl_mem (fun (s : State) (q : Squad) => if q.roam then s.delayDepart dt q else s.delayKept dt q) fun s q => by split <;> simp,
      foldl_mem (fun (s : State) u => s.delayUpd dt u) fun s u => by simp,
      foldl_mem (fun (s : State) w => s.delayWalk dt w) fun s w => by simp,
      foldl_mem (fun (s : State) g => s.delayGang dt g) fun s g => by simp]
@[simp] theorem State.powerOff_mem (s : State) : s.powerOff.mem = s.mem := rfl

/-- The test of the comparators leaves memory, as what follows it does. -/
theorem State.breakTest_mem (s : State) (g : Gang) (q : Squad) (va : Word) (k : State → State) (hk : ∀ s, (k s).mem = s.mem) :
    (s.breakTest g q va k).mem = s.mem := by
  have hf : ((s.matching g q va).foldl (fun s c => s.modCmp q.core c fun x => { x with bpn := x.bpn + 1 }) s).mem = s.mem := by
    rw [foldl_mem]; intros; rfl
  unfold State.breakTest
  dsimp only
  split
  · rw [State.takeTrap_mem, hf]
  · rw [hk, hf]

@[simp] theorem State.takePort_mem (s : State) (g : Gang) (q : Squad) : (s.takePort g q).mem = s.mem :=
  State.breakTest_mem s g q _ _ fun _ => rfl

@[simp] theorem State.uniformView_mem (s : State) (g : Gang) (q : Squad) (n : Nat) : (s.uniformView g q n).mem = s.mem := by
  have h : ∀ (l : List USet) (a : State × List (Nat × W32)), (l.foldl (fun (acc : State × List (Nat × W32)) x =>
      let (r, s) := acc.1.draw
      (s, if r.getLsbD 0 then acc.2 ++ [(x.n, x.old)] else acc.2)) a).1.mem = a.1.mem := by
    intro l
    induction l with
    | nil => intro a; rfl
    | cons x rest ih => intro a; exact ih _
  unfold State.uniformView
  dsimp only
  split
  · rfl
  · exact h _ _

/-- A word that is presented leaves memory. -/
theorem State.present_mem (s : State) (g : Gang) (q : Squad) : (s.present g q).1.mem = s.mem := by
  unfold State.present
  split
  · simp
  · split
    · rfl
    · dsimp only
      repeat' split
      all_goals simp

/-- The issue of a gang leaves memory. -/
theorem State.issue_mem (s : State) (n : Nat) : (s.issue n).1.mem = s.mem := by
  unfold State.issue
  split
  · rfl
  · split
    · rw [State.present_mem]
    · rfl

/-- What an agenda item is: an event that happens, an issue, or nothing. -/
theorem perform_cases {a : Agendum} {s t : State} (h : perform a s = .next t) :
    (∃ i u, i.isEvent = true ∧ u.mem = s.mem ∧ exec i u = .next t) ∨ (∃ n i, (∃ dt, ((s.tick dt).issue n).2 = some i ∧
      exec i ((s.tick dt).issue n).1 = .next t)) ∨ t.mem = s.mem := by
  cases a with
  | event dt i =>
    simp only [perform] at h
    split at h
    · rename_i hi; exact .inl ⟨i, s.tick dt, hi, by simp, h⟩
    · exact .inr (.inr (by cases h; simp))
  | gang dt g i =>
    simp only [perform] at h
    split at h
    · rename_i hi; exact .inl ⟨i, _, hi, by simp, h⟩
    · exact .inr (.inr (by cases h; simp))
  | cmd dt f q i =>
    simp only [perform] at h
    split at h
    · rename_i hi; exact .inl ⟨i, _, hi, by simp, h⟩
    · exact .inr (.inr (by cases h; simp))
  | issue dt n =>
    simp only [perform] at h
    split at h
    · rename_i u i hu; exact .inr (.inl ⟨n, i, dt, by rw [hu], by rw [hu]; exact h⟩)
    · rename_i u hu
      refine .inr (.inr ?_)
      have := State.issue_mem (s.tick dt) n
      rw [hu] at this
      cases h; simpa using this

end Sys2Proof.Machine
end

