-- ==== Sys2Proof/Laws/PerInstr.lean ====
section
/-!
SUPPORT. Statements made per instruction: the shape that the opcode of an instruction selects reads the instruction from its own word.
-/
namespace Sys2Proof

/-- Bits above the low part of a concatenation are those of its high part. -/
theorem extract_high {a b : Nat} (x : BitVec a) (y : BitVec b) (k n : Nat) (h : b ≤ k) :
    (x ++ y).extractLsb' k n = x.extractLsb' (k - b) n := by
  ext i hi
  simp only [BitVec.getElem_extractLsb', BitVec.getLsbD_append, show ¬ k + i < b from by omega, if_false]
  rw [show k + i - b = k - b + i from by omega]

/-- Bits within the low part of a concatenation are those of that part. -/
theorem extract_low {a b : Nat} (x : BitVec a) (y : BitVec b) (k n : Nat) (h : k + n ≤ b) :
    (x ++ y).extractLsb' k n = y.extractLsb' k n := by
  ext i hi
  simp only [BitVec.getElem_extractLsb', BitVec.getLsbD_append, show k + i < b from by omega, if_true]

theorem bit1_get (b : Bool) : (bit1 b)[0] = b := by cases b <;> rfl

theorem DK.ofBits_bits (d : DK) : DK.ofBits d.bits = d := by cases d <;> rfl

/-- The fields of a packed word are those it was packed from (R99). -/
theorem packWord_op (op : BitVec 8) (c : Common) (lo : BitVec 34) : opBits (packWord op c lo) = op := by
  simp (disch := omega) only [opBits, packWord, extract_high]
  simp

theorem packWord_common (op : BitVec 8) (c : Common) (lo : BitVec 34) : Common.ofWord (packWord op c lo) = c := by
  cases c
  simp (disch := omega) only [Common.ofWord, packWord, extract_high, extract_low, BitVec.getLsbD_append]
  simp [bit1_get, DK.ofBits_bits]

theorem packWord_low (op : BitVec 8) (c : Common) (lo : BitVec 34) (a n : Nat) (h : a + n ≤ 34) :
    (packWord op c lo).extractLsb' a n = lo.extractLsb' a n := by
  unfold packWord
  repeat' rw [extract_low]
  all_goals omega

/-- A source field reads as the source it was written from (R104). -/
theorem Src.ofBits_bits (x : Src) : Src.ofBits x.bits = .ok x := by
  cases x
  case lat n =>
    have h : ∀ n : BitVec 3, (2#2 ++ (0#6 ++ n)).extractLsb' 9 2 = 2#2 ∧ (((2#2 ++ (0#6 ++ n)).extractLsb' 0 9).extractLsb' 3 6 = 0#6) ∧
        ((2#2 ++ (0#6 ++ n)).extractLsb' 0 9).extractLsb' 0 3 = n := by decide
    obtain ⟨h1, h2, h3⟩ := h n
    simp [Src.ofBits, Src.bits, h1, h2, h3]
  all_goals simp (disch := omega) only [Src.ofBits, Src.bits, extract_high, extract_low] <;> simp

/-! ### Each format reads what it wrote (R105) -/

theorem FM.ofWord_toWord (op : BitVec 8) (f : FM) : FM.ofWord (f.toWord op) = .ok f := by
  simp (disch := omega) only [FM.ofWord, FM.toWord, packWord_low, packWord_common, extract_high, extract_low]
  simp [Src.ofBits_bits]

theorem F3.ofWord_toWord (op : BitVec 8) (f : F3) : F3.ofWord (f.toWord op) = .ok f := by
  have h0 : (f.toWord op).getLsbD 0 = false := by simp only [F3.toWord, packWord, BitVec.getLsbD_append]; simp
  simp only [F3.ofWord, h0]
  simp (disch := omega) only [F3.toWord, packWord_low, packWord_common, extract_high, extract_low]
  simp [Src.ofBits_bits]

theorem FI.ofWord_toWord (op : BitVec 8) (f : FI) : FI.ofWord (f.toWord op) = .ok f := by
  simp (disch := omega) only [FI.ofWord, FI.toWord, packWord_low, packWord_common, extract_high, extract_low]
  simp [Src.ofBits_bits]

theorem FK.ofWord_toWord (op : BitVec 8) (f : FK) : FK.ofWord (f.toWord op) = .ok f := by
  simp (disch := omega) only [FK.ofWord, FK.toWord, packWord_low, packWord_common, extract_high, extract_low]
  simp

theorem FA.ofWord_toWord (op : BitVec 8) (f : FA) : FA.ofWord (f.toWord op) = .ok f := by
  simp (disch := omega) only [FA.ofWord, FA.toWord, packWord_low, packWord_common, extract_high, extract_low]
  simp [Src.ofBits_bits]

theorem FC.ofWord_toWord (op : BitVec 8) (f : FC) : FC.ofWord (f.toWord op) = .ok f := by
  simp (disch := omega) only [FC.ofWord, FC.toWord, packWord_low, packWord_common, extract_high, extract_low]
  simp

/-! ### Each format writes what it read (R105) -/

/-- A source that a field reads is written as that field (R104). -/
theorem Src.bits_ofBits {b : BitVec 11} {x : Src} (h : Src.ofBits b = .ok x) : x.bits = b := by
  have e : b = b.extractLsb' 9 2 ++ b.extractLsb' 0 9 := by
    apply BitVec.eq_of_getLsbD_eq
    intro i hi
    rw [BitVec.getLsbD_append]
    split
    · simp [*]
    · rw [BitVec.getLsbD_extractLsb', show 9 + (i - 9) = i from by omega]; simp [hi]; omega
  have z : ∀ n : BitVec 9, n.extractLsb' 3 6 = 0#6 → 0#6 ++ n.extractLsb' 0 3 = n := by decide
  have four : ∀ k : BitVec 2, k = 0#2 ∨ k = 1#2 ∨ k = 2#2 ∨ k = 3#2 := by decide
  unfold Src.ofBits at h
  dsimp only at h
  rw [e]
  generalize b.extractLsb' 0 9 = n at h ⊢
  rcases four (b.extractLsb' 9 2) with k | k | k | k <;> rw [k] at h ⊢ <;> simp at h
  · subst h; rfl
  · subst h; rfl
  · split at h
    · rename_i hz; cases h; simp only [Src.bits]; rw [z _ hz]
    · cases h
  · subst h; rfl

/-- Adjacent fields of a word join. -/
theorem extract_join (w : Word) (k n m : Nat) : w.extractLsb' (k + n) m ++ w.extractLsb' k n = (w.extractLsb' k (m + n)) := by
  ext i hi
  simp only [BitVec.getElem_append, BitVec.getElem_extractLsb']
  split
  · rfl
  · congr 1; omega

theorem bit_join (w : Word) (k n : Nat) : bit1 (w.getLsbD (k + n)) ++ w.extractLsb' k n = (w.extractLsb' k (1 + n)) := by
  ext i hi
  simp only [BitVec.getElem_append, BitVec.getElem_extractLsb']
  split
  · rfl
  · rename_i h
    have : i = n := by omega
    subst this
    simp; rw [bit1_get]

theorem DK.bits_ofBits (b : BitVec 2) : (DK.ofBits b).bits = b := by revert b; decide

/-- A word is packed from the fields read from it. -/
theorem packWord_eq (w : Word) : packWord (opBits w) (Common.ofWord w) (w.extractLsb' 0 34) = w := by
  simp only [packWord, Common.ofWord, opBits, DK.bits_ofBits]
  rw [extract_join w 0 34 3, bit_join w 0 37, bit_join w 0 38, extract_join w 0 39 9, extract_join w 0 48 2, bit_join w 0 50, extract_join w 0 51 5, extract_join w 0 56 8]
  simp

theorem FM.toWord_ofWord {w : Word} {f : FM} (h : FM.ofWord w = .ok f) : f.toWord (opBits w) = w := by
  unfold FM.ofWord at h
  split at h
  · rename_i a b ha hb
    cases h
    simp only [FM.toWord, Src.bits_ofBits ha, Src.bits_ofBits hb]
    rw [extract_join w 0 12 11, extract_join w 0 23 11, packWord_eq]
  all_goals cases h

theorem F3.toWord_ofWord {w : Word} {f : F3} (h : F3.ofWord w = .ok f) : f.toWord (opBits w) = w := by
  unfold F3.ofWord at h
  split at h
  · rename_i a b c ha hb hc
    split at h
    · cases h
    · rename_i h0
      cases h
      have z : (0#1) = w.extractLsb' 0 1 := by
        ext i hi
        obtain rfl : i = 0 := by omega
        simpa using h0
      simp only [F3.toWord, Src.bits_ofBits ha, Src.bits_ofBits hb, Src.bits_ofBits hc]
      rw [z, extract_join w 0 1 11, extract_join w 0 12 11, extract_join w 0 23 11, packWord_eq]
  all_goals cases h

theorem FI.toWord_ofWord {w : Word} {f : FI} (h : FI.ofWord w = .ok f) : f.toWord (opBits w) = w := by
  unfold FI.ofWord at h
  split at h
  · rename_i a ha
    cases h
    simp only [FI.toWord, Src.bits_ofBits ha]
    rw [extract_join w 0 23 11, packWord_eq]
  · cases h

theorem FK.toWord_ofWord {w : Word} {f : FK} (h : FK.ofWord w = .ok f) : f.toWord (opBits w) = w := by
  unfold FK.ofWord at h
  split at h
  · rename_i h0
    cases h
    have z : w.extractLsb' 0 2 = 0#2 := by simpa using h0
    simp only [FK.toWord]
    rw [← z, extract_join w 0 2 32, packWord_eq]
  · cases h

theorem FA.toWord_ofWord {w : Word} {f : FA} (h : FA.ofWord w = .ok f) : f.toWord (opBits w) = w := by
  unfold FA.ofWord at h
  split at h
  · rename_i a ha
    cases h
    simp only [FA.toWord, Src.bits_ofBits ha]
    rw [extract_join w 0 12 11, extract_join w 0 23 11, packWord_eq]
  · cases h

theorem FC.toWord_ofWord {w : Word} {f : FC} (h : FC.ofWord w = .ok f) : f.toWord (opBits w) = w := by
  unfold FC.ofWord at h
  cases h
  simp only [FC.toWord]
  rw [extract_join w 0 8 26, packWord_eq]

namespace Laws

/-- The opcode of an instruction selects a shape that reads the instruction back from its word (R99, R105, R109). A command or an event has no
opcode, so that nothing is said of it. -/
def Encoded.Statement (i : Instr) : Prop :=
  ∀ (e : Eng) (op : BitVec 8), i.opcode = some (e, op) →
    ∃ h, shapeOf e op = some h ∧ opBits (encode i) = op ∧ h.read (encode i) = .ok i

theorem reads_fm (mk : FM → Instr) (w : FM) {e : Eng} {op : BitVec 8} (ho : (mk w).opcode = some (e, op))
    (hs : shapeOf e op = some (.fm mk)) (he : encode (mk w) = w.toWord op) : Encoded.Statement (mk w) := by
  intro e' op' h
  obtain ⟨rfl, rfl⟩ : e = e' ∧ op = op' := by rw [ho] at h; simpa using h
  exact ⟨_, hs, by rw [he]; exact packWord_op _ _ _, by rw [he]; simp [Shape.read, FM.ofWord_toWord, Except.map]⟩

theorem reads_f3 (mk : F3 → Instr) (w : F3) {e : Eng} {op : BitVec 8} (ho : (mk w).opcode = some (e, op))
    (hs : shapeOf e op = some (.f3 mk)) (he : encode (mk w) = w.toWord op) : Encoded.Statement (mk w) := by
  intro e' op' h
  obtain ⟨rfl, rfl⟩ : e = e' ∧ op = op' := by rw [ho] at h; simpa using h
  exact ⟨_, hs, by rw [he]; exact packWord_op _ _ _, by rw [he]; simp [Shape.read, F3.ofWord_toWord, Except.map]⟩

theorem reads_fi (mk : FI → Instr) (w : FI) {e : Eng} {op : BitVec 8} (ho : (mk w).opcode = some (e, op))
    (hs : shapeOf e op = some (.fi mk)) (he : encode (mk w) = w.toWord op) : Encoded.Statement (mk w) := by
  intro e' op' h
  obtain ⟨rfl, rfl⟩ : e = e' ∧ op = op' := by rw [ho] at h; simpa using h
  exact ⟨_, hs, by rw [he]; exact packWord_op _ _ _, by rw [he]; simp [Shape.read, FI.ofWord_toWord, Except.map]⟩

theorem reads_fk (mk : FK → Instr) (w : FK) {e : Eng} {op : BitVec 8} (ho : (mk w).opcode = some (e, op))
    (hs : shapeOf e op = some (.fk mk)) (he : encode (mk w) = w.toWord op) : Encoded.Statement (mk w) := by
  intro e' op' h
  obtain ⟨rfl, rfl⟩ : e = e' ∧ op = op' := by rw [ho] at h; simpa using h
  exact ⟨_, hs, by rw [he]; exact packWord_op _ _ _, by rw [he]; simp [Shape.read, FK.ofWord_toWord, Except.map]⟩

theorem reads_fa (mk : FA → Instr) (w : FA) {e : Eng} {op : BitVec 8} (ho : (mk w).opcode = some (e, op))
    (hs : shapeOf e op = some (.fa mk)) (he : encode (mk w) = w.toWord op) : Encoded.Statement (mk w) := by
  intro e' op' h
  obtain ⟨rfl, rfl⟩ : e = e' ∧ op = op' := by rw [ho] at h; simpa using h
  exact ⟨_, hs, by rw [he]; exact packWord_op _ _ _, by rw [he]; simp [Shape.read, FA.ofWord_toWord, Except.map]⟩

theorem reads_fc (mk : FC → Instr) (w : FC) {e : Eng} {op : BitVec 8} (ho : (mk w).opcode = some (e, op))
    (hs : shapeOf e op = some (.fc mk)) (he : encode (mk w) = w.toWord op) : Encoded.Statement (mk w) := by
  intro e' op' h
  obtain ⟨rfl, rfl⟩ : e = e' ∧ op = op' := by rw [ho] at h; simpa using h
  exact ⟨_, hs, by rw [he]; exact packWord_op _ _ _, by rw [he]; simp [Shape.read, FC.ofWord_toWord, Except.map]⟩

theorem reads_none {i : Instr} (h : i.opcode = none) : Encoded.Statement i := by
  intro e op h1
  rw [h] at h1
  cases h1

theorem Encoded.iadd (w : FM) : Encoded.Statement (.iadd w) := reads_fm .iadd w rfl rfl rfl
theorem Encoded.isub (w : FM) : Encoded.Statement (.isub w) := reads_fm .isub w rfl rfl rfl
theorem Encoded.imul (w : FM) : Encoded.Statement (.imul w) := reads_fm .imul w rfl rfl rfl
theorem Encoded.imulh (w : FM) : Encoded.Statement (.imulh w) := reads_fm .imulh w rfl rfl rfl
theorem Encoded.imad (w : F3) : Encoded.Statement (.imad w) := reads_f3 .imad w rfl rfl rfl
theorem Encoded.iadd64 (w : FM) : Encoded.Statement (.iadd64 w) := reads_fm .iadd64 w rfl rfl rfl
theorem Encoded.lea (w : FM) : Encoded.Statement (.lea w) := reads_fm .lea w rfl rfl rfl
theorem Encoded.imin (w : FM) : Encoded.Statement (.imin w) := reads_fm .imin w rfl rfl rfl
theorem Encoded.imax (w : FM) : Encoded.Statement (.imax w) := reads_fm .imax w rfl rfl rfl
theorem Encoded.iabs (w : FM) : Encoded.Statement (.iabs w) := reads_fm .iabs w rfl rfl rfl
theorem Encoded.and (w : FM) : Encoded.Statement (.and w) := reads_fm .and w rfl rfl rfl
theorem Encoded.or (w : FM) : Encoded.Statement (.or w) := reads_fm .or w rfl rfl rfl
theorem Encoded.xor (w : FM) : Encoded.Statement (.xor w) := reads_fm .xor w rfl rfl rfl
theorem Encoded.andn (w : FM) : Encoded.Statement (.andn w) := reads_fm .andn w rfl rfl rfl
theorem Encoded.shl (w : FM) : Encoded.Statement (.shl w) := reads_fm .shl w rfl rfl rfl
theorem Encoded.shr (w : FM) : Encoded.Statement (.shr w) := reads_fm .shr w rfl rfl rfl
theorem Encoded.sar (w : FM) : Encoded.Statement (.sar w) := reads_fm .sar w rfl rfl rfl
theorem Encoded.rotl (w : FM) : Encoded.Statement (.rotl w) := reads_fm .rotl w rfl rfl rfl
theorem Encoded.fshr (w : F3) : Encoded.Statement (.fshr w) := reads_f3 .fshr w rfl rfl rfl
theorem Encoded.bfx (w : FM) : Encoded.Statement (.bfx w) := reads_fm .bfx w rfl rfl rfl
theorem Encoded.bfi (w : F3) : Encoded.Statement (.bfi w) := reads_f3 .bfi w rfl rfl rfl
theorem Encoded.popc (w : FM) : Encoded.Statement (.popc w) := reads_fm .popc w rfl rfl rfl
theorem Encoded.clz (w : FM) : Encoded.Statement (.clz w) := reads_fm .clz w rfl rfl rfl
theorem Encoded.brev (w : FM) : Encoded.Statement (.brev w) := reads_fm .brev w rfl rfl rfl
theorem Encoded.prmt (w : FM) : Encoded.Statement (.prmt w) := reads_fm .prmt w rfl rfl rfl
theorem Encoded.icmp (w : FM) : Encoded.Statement (.icmp w) := reads_fm .icmp w rfl rfl rfl
theorem Encoded.sel (w : F3) : Encoded.Statement (.sel w) := reads_f3 .sel w rfl rfl rfl
theorem Encoded.mov (w : FM) : Encoded.Statement (.mov w) := reads_fm .mov w rfl rfl rfl
theorem Encoded.movi (w : FK) : Encoded.Statement (.movi w) := reads_fk .movi w rfl rfl rfl
theorem Encoded.fadd (w : FM) : Encoded.Statement (.fadd w) := reads_fm .fadd w rfl rfl rfl
theorem Encoded.fmul (w : FM) : Encoded.Statement (.fmul w) := reads_fm .fmul w rfl rfl rfl
theorem Encoded.ffmaRn (w : F3) : Encoded.Statement (.ffmaRn w) := reads_f3 .ffmaRn w rfl rfl rfl
theorem Encoded.ffmaRz (w : F3) : Encoded.Statement (.ffmaRz w) := reads_f3 .ffmaRz w rfl rfl rfl
theorem Encoded.ffmaRd (w : F3) : Encoded.Statement (.ffmaRd w) := reads_f3 .ffmaRd w rfl rfl rfl
theorem Encoded.ffmaRu (w : F3) : Encoded.Statement (.ffmaRu w) := reads_f3 .ffmaRu w rfl rfl rfl
theorem Encoded.fmin (w : FM) : Encoded.Statement (.fmin w) := reads_fm .fmin w rfl rfl rfl
theorem Encoded.fmax (w : FM) : Encoded.Statement (.fmax w) := reads_fm .fmax w rfl rfl rfl
theorem Encoded.fcmp (w : FM) : Encoded.Statement (.fcmp w) := reads_fm .fcmp w rfl rfl rfl
theorem Encoded.fclass (w : FM) : Encoded.Statement (.fclass w) := reads_fm .fclass w rfl rfl rfl
theorem Encoded.fscale (w : FM) : Encoded.Statement (.fscale w) := reads_fm .fscale w rfl rfl rfl
theorem Encoded.hadd2 (w : FM) : Encoded.Statement (.hadd2 w) := reads_fm .hadd2 w rfl rfl rfl
theorem Encoded.hmul2 (w : FM) : Encoded.Statement (.hmul2 w) := reads_fm .hmul2 w rfl rfl rfl
theorem Encoded.hfma2F16 (w : F3) : Encoded.Statement (.hfma2F16 w) := reads_f3 .hfma2F16 w rfl rfl rfl
theorem Encoded.hfma2Bf16 (w : F3) : Encoded.Statement (.hfma2Bf16 w) := reads_f3 .hfma2Bf16 w rfl rfl rfl
theorem Encoded.hmin2 (w : FM) : Encoded.Statement (.hmin2 w) := reads_fm .hmin2 w rfl rfl rfl
theorem Encoded.hmax2 (w : FM) : Encoded.Statement (.hmax2 w) := reads_fm .hmax2 w rfl rfl rfl
theorem Encoded.cvt (w : FM) : Encoded.Statement (.cvt w) := reads_fm .cvt w rfl rfl rfl
theorem Encoded.cvtsr (w : FM) : Encoded.Statement (.cvtsr w) := reads_fm .cvtsr w rfl rfl rfl
theorem Encoded.pack2 (w : FM) : Encoded.Statement (.pack2 w) := reads_fm .pack2 w rfl rfl rfl
theorem Encoded.plop (w : FM) : Encoded.Statement (.plop w) := reads_fm .plop w rfl rfl rfl
theorem Encoded.pmov (w : FM) : Encoded.Statement (.pmov w) := reads_fm .pmov w rfl rfl rfl
theorem Encoded.vote (w : FM) : Encoded.Statement (.vote w) := reads_fm .vote w rfl rfl rfl
theorem Encoded.shfl (w : FM) : Encoded.Statement (.shfl w) := reads_fm .shfl w rfl rfl rfl
theorem Encoded.rduc (w : FM) : Encoded.Statement (.rduc w) := reads_fm .rduc w rfl rfl rfl
theorem Encoded.matchL (w : FM) : Encoded.Statement (.matchL w) := reads_fm .matchL w rfl rfl rfl
theorem Encoded.sread (w : FM) : Encoded.Statement (.sread w) := reads_fm .sread w rfl rfl rfl
theorem Encoded.swrite (w : FM) : Encoded.Statement (.swrite w) := reads_fm .swrite w rfl rfl rfl
theorem Encoded.hash64 (w : FM) : Encoded.Statement (.hash64 w) := reads_fm .hash64 w rfl rfl rfl
theorem Encoded.hcrc (w : FM) : Encoded.Statement (.hcrc w) := reads_fm .hcrc w rfl rfl rfl
theorem Encoded.bcmp (w : FM) : Encoded.Statement (.bcmp w) := reads_fm .bcmp w rfl rfl rfl
theorem Encoded.bfind (w : FM) : Encoded.Statement (.bfind w) := reads_fm .bfind w rfl rfl rfl
theorem Encoded.exp2 (w : FM) : Encoded.Statement (.exp2 w) := reads_fm .exp2 w rfl rfl rfl
theorem Encoded.exp2Acc (w : FM) : Encoded.Statement (.exp2Acc w) := reads_fm .exp2Acc w rfl rfl rfl
theorem Encoded.exp (w : FM) : Encoded.Statement (.exp w) := reads_fm .exp w rfl rfl rfl
theorem Encoded.expAcc (w : FM) : Encoded.Statement (.expAcc w) := reads_fm .expAcc w rfl rfl rfl
theorem Encoded.log2 (w : FM) : Encoded.Statement (.log2 w) := reads_fm .log2 w rfl rfl rfl
theorem Encoded.log2Acc (w : FM) : Encoded.Statement (.log2Acc w) := reads_fm .log2Acc w rfl rfl rfl
theorem Encoded.ln (w : FM) : Encoded.Statement (.ln w) := reads_fm .ln w rfl rfl rfl
theorem Encoded.lnAcc (w : FM) : Encoded.Statement (.lnAcc w) := reads_fm .lnAcc w rfl rfl rfl
theorem Encoded.rcp (w : FM) : Encoded.Statement (.rcp w) := reads_fm .rcp w rfl rfl rfl
theorem Encoded.rcpAcc (w : FM) : Encoded.Statement (.rcpAcc w) := reads_fm .rcpAcc w rfl rfl rfl
theorem Encoded.rsq (w : FM) : Encoded.Statement (.rsq w) := reads_fm .rsq w rfl rfl rfl
theorem Encoded.rsqAcc (w : FM) : Encoded.Statement (.rsqAcc w) := reads_fm .rsqAcc w rfl rfl rfl
theorem Encoded.sqrt (w : FM) : Encoded.Statement (.sqrt w) := reads_fm .sqrt w rfl rfl rfl
theorem Encoded.sqrtAcc (w : FM) : Encoded.Statement (.sqrtAcc w) := reads_fm .sqrtAcc w rfl rfl rfl
theorem Encoded.sin (w : FM) : Encoded.Statement (.sin w) := reads_fm .sin w rfl rfl rfl
theorem Encoded.sinAcc (w : FM) : Encoded.Statement (.sinAcc w) := reads_fm .sinAcc w rfl rfl rfl
theorem Encoded.cos (w : FM) : Encoded.Statement (.cos w) := reads_fm .cos w rfl rfl rfl
theorem Encoded.cosAcc (w : FM) : Encoded.Statement (.cosAcc w) := reads_fm .cosAcc w rfl rfl rfl
theorem Encoded.tanh (w : FM) : Encoded.Statement (.tanh w) := reads_fm .tanh w rfl rfl rfl
theorem Encoded.tanhAcc (w : FM) : Encoded.Statement (.tanhAcc w) := reads_fm .tanhAcc w rfl rfl rfl
theorem Encoded.sigm (w : FM) : Encoded.Statement (.sigm w) := reads_fm .sigm w rfl rfl rfl
theorem Encoded.sigmAcc (w : FM) : Encoded.Statement (.sigmAcc w) := reads_fm .sigmAcc w rfl rfl rfl
theorem Encoded.gelu (w : FM) : Encoded.Statement (.gelu w) := reads_fm .gelu w rfl rfl rfl
theorem Encoded.geluAcc (w : FM) : Encoded.Statement (.geluAcc w) := reads_fm .geluAcc w rfl rfl rfl
theorem Encoded.silu (w : FM) : Encoded.Statement (.silu w) := reads_fm .silu w rfl rfl rfl
theorem Encoded.siluAcc (w : FM) : Encoded.Statement (.siluAcc w) := reads_fm .siluAcc w rfl rfl rfl
theorem Encoded.erf (w : FM) : Encoded.Statement (.erf w) := reads_fm .erf w rfl rfl rfl
theorem Encoded.erfAcc (w : FM) : Encoded.Statement (.erfAcc w) := reads_fm .erfAcc w rfl rfl rfl
theorem Encoded.fdiv (w : FM) : Encoded.Statement (.fdiv w) := reads_fm .fdiv w rfl rfl rfl
theorem Encoded.fdivAcc (w : FM) : Encoded.Statement (.fdivAcc w) := reads_fm .fdivAcc w rfl rfl rfl
theorem Encoded.ld (w : FA) : Encoded.Statement (.ld w) := reads_fa .ld w rfl rfl rfl
theorem Encoded.st (w : FA) : Encoded.Statement (.st w) := reads_fa .st w rfl rfl rfl
theorem Encoded.lda (w : FA) : Encoded.Statement (.lda w) := reads_fa .lda w rfl rfl rfl
theorem Encoded.stl (w : FA) : Encoded.Statement (.stl w) := reads_fa .stl w rfl rfl rfl
theorem Encoded.atom (w : FM) : Encoded.Statement (.atom w) := reads_fm .atom w rfl rfl rfl
theorem Encoded.red (w : FM) : Encoded.Statement (.red w) := reads_fm .red w rfl rfl rfl
theorem Encoded.cas (w : FM) : Encoded.Statement (.cas w) := reads_fm .cas w rfl rfl rfl
theorem Encoded.fence (w : FM) : Encoded.Statement (.fence w) := reads_fm .fence w rfl rfl rfl
theorem Encoded.pref (w : FA) : Encoded.Statement (.pref w) := reads_fa .pref w rfl rfl rfl
theorem Encoded.cvta (w : FM) : Encoded.Statement (.cvta w) := reads_fm .cvta w rfl rfl rfl
theorem Encoded.spawn (w : FM) : Encoded.Statement (.spawn w) := reads_fm .spawn w rfl rfl rfl
theorem Encoded.migr (w : FA) : Encoded.Statement (.migr w) := reads_fa .migr w rfl rfl rfl
theorem Encoded.home (w : FM) : Encoded.Statement (.home w) := reads_fm .home w rfl rfl rfl
theorem Encoded.ratom (w : FM) : Encoded.Statement (.ratom w) := reads_fm .ratom w rfl rfl rfl
theorem Encoded.pin (w : FM) : Encoded.Statement (.pin w) := reads_fm .pin w rfl rfl rfl
theorem Encoded.aqstat (w : FM) : Encoded.Statement (.aqstat w) := reads_fm .aqstat w rfl rfl rfl
theorem Encoded.swinit (w : FM) : Encoded.Statement (.swinit w) := reads_fm .swinit w rfl rfl rfl
theorem Encoded.swarm (w : FM) : Encoded.Statement (.swarm w) := reads_fm .swarm w rfl rfl rfl
theorem Encoded.swadd (w : FI) : Encoded.Statement (.swadd w) := reads_fi .swadd w rfl rfl rfl
theorem Encoded.swwait (w : FM) : Encoded.Statement (.swwait w) := reads_fm .swwait w rfl rfl rfl
theorem Encoded.bar (w : FM) : Encoded.Statement (.bar w) := reads_fm .bar w rfl rfl rfl
theorem Encoded.bararv (w : FM) : Encoded.Statement (.bararv w) := reads_fm .bararv w rfl rfl rfl
theorem Encoded.rget (w : FM) : Encoded.Statement (.rget w) := reads_fm .rget w rfl rfl rfl
theorem Encoded.rput (w : FM) : Encoded.Statement (.rput w) := reads_fm .rput w rfl rfl rfl
theorem Encoded.waite (w : FM) : Encoded.Statement (.waite w) := reads_fm .waite w rfl rfl rfl
theorem Encoded.cntrd (w : FM) : Encoded.Statement (.cntrd w) := reads_fm .cntrd w rfl rfl rfl
theorem Encoded.tload (w : FM) : Encoded.Statement (.tload w) := reads_fm .tload w rfl rfl rfl
theorem Encoded.tstore (w : FM) : Encoded.Statement (.tstore w) := reads_fm .tstore w rfl rfl rfl
theorem Encoded.tgather (w : FM) : Encoded.Statement (.tgather w) := reads_fm .tgather w rfl rfl rfl
theorem Encoded.tscatter (w : FM) : Encoded.Statement (.tscatter w) := reads_fm .tscatter w rfl rfl rfl
theorem Encoded.tsub (w : FM) : Encoded.Statement (.tsub w) := reads_fm .tsub w rfl rfl rfl
theorem Encoded.twalk (w : FM) : Encoded.Statement (.twalk w) := reads_fm .twalk w rfl rfl rfl
theorem Encoded.tfill (w : FM) : Encoded.Statement (.tfill w) := reads_fm .tfill w rfl rfl rfl
theorem Encoded.tmove (w : FM) : Encoded.Statement (.tmove w) := reads_fm .tmove w rfl rfl rfl
theorem Encoded.mma (w : FM) : Encoded.Statement (.mma w) := reads_fm .mma w rfl rfl rfl
theorem Encoded.mmag (w : FM) : Encoded.Statement (.mmag w) := reads_fm .mmag w rfl rfl rfl
theorem Encoded.mmas (w : FM) : Encoded.Statement (.mmas w) := reads_fm .mmas w rfl rfl rfl
theorem Encoded.mmad (w : FM) : Encoded.Statement (.mmad w) := reads_fm .mmad w rfl rfl rfl
theorem Encoded.acz (w : FM) : Encoded.Statement (.acz w) := reads_fm .acz w rfl rfl rfl
theorem Encoded.acld (w : FM) : Encoded.Statement (.acld w) := reads_fm .acld w rfl rfl rfl
theorem Encoded.acst (w : FM) : Encoded.Statement (.acst w) := reads_fm .acst w rfl rfl rfl
theorem Encoded.acrd (w : FM) : Encoded.Statement (.acrd w) := reads_fm .acrd w rfl rfl rfl
theorem Encoded.opmap (w : FM) : Encoded.Statement (.opmap w) := reads_fm .opmap w rfl rfl rfl
theorem Encoded.rstat (w : FM) : Encoded.Statement (.rstat w) := reads_fm .rstat w rfl rfl rfl
theorem Encoded.topk (w : FM) : Encoded.Statement (.topk w) := reads_fm .topk w rfl rfl rfl
theorem Encoded.topkm (w : FM) : Encoded.Statement (.topkm w) := reads_fm .topkm w rfl rfl rfl
theorem Encoded.pbound (w : FM) : Encoded.Statement (.pbound w) := reads_fm .pbound w rfl rfl rfl
theorem Encoded.sign (w : FM) : Encoded.Statement (.sign w) := reads_fm .sign w rfl rfl rfl
theorem Encoded.srep (w : FM) : Encoded.Statement (.srep w) := reads_fm .srep w rfl rfl rfl
theorem Encoded.sgsum (w : FM) : Encoded.Statement (.sgsum w) := reads_fm .sgsum w rfl rfl rfl
theorem Encoded.sbkt (w : FM) : Encoded.Statement (.sbkt w) := reads_fm .sbkt w rfl rfl rfl
theorem Encoded.launch (w : FM) : Encoded.Statement (.launch w) := reads_fm .launch w rfl rfl rfl
theorem Encoded.join (w : FM) : Encoded.Statement (.join w) := reads_fm .join w rfl rfl rfl
theorem Encoded.tspawn (w : FM) : Encoded.Statement (.tspawn w) := reads_fm .tspawn w rfl rfl rfl
theorem Encoded.slice (w : FM) : Encoded.Statement (.slice w) := reads_fm .slice w rfl rfl rfl
theorem Encoded.post (w : FM) : Encoded.Statement (.post w) := reads_fm .post w rfl rfl rfl
theorem Encoded.swapout (w : FM) : Encoded.Statement (.swapout w) := reads_fm .swapout w rfl rfl rfl
theorem Encoded.route (w : FM) : Encoded.Statement (.route w) := reads_fm .route w rfl rfl rfl
theorem Encoded.cbopen (w : FM) : Encoded.Statement (.cbopen w) := reads_fm .cbopen w rfl rfl rfl
theorem Encoded.cbput (w : FM) : Encoded.Statement (.cbput w) := reads_fm .cbput w rfl rfl rfl
theorem Encoded.cbclose (w : FM) : Encoded.Statement (.cbclose w) := reads_fm .cbclose w rfl rfl rfl
theorem Encoded.cbstat (w : FM) : Encoded.Statement (.cbstat w) := reads_fm .cbstat w rfl rfl rfl
theorem Encoded.nop (w : FM) : Encoded.Statement (.nop w) := reads_fm .nop w rfl rfl rfl
theorem Encoded.bra (w : FC) : Encoded.Statement (.bra w) := reads_fc .bra w rfl rfl rfl
theorem Encoded.brx (w : FM) : Encoded.Statement (.brx w) := reads_fm .brx w rfl rfl rfl
theorem Encoded.call (w : FC) : Encoded.Statement (.call w) := reads_fc .call w rfl rfl rfl
theorem Encoded.ret (w : FM) : Encoded.Statement (.ret w) := reads_fm .ret w rfl rfl rfl
theorem Encoded.exitL (w : FM) : Encoded.Statement (.exitL w) := reads_fm .exitL w rfl rfl rfl
theorem Encoded.yield (w : FM) : Encoded.Statement (.yield w) := reads_fm .yield w rfl rfl rfl
theorem Encoded.trap (w : FI) : Encoded.Statement (.trap w) := reads_fi .trap w rfl rfl rfl
theorem Encoded.bkpt (w : FI) : Encoded.Statement (.bkpt w) := reads_fi .bkpt w rfl rfl rfl
theorem Encoded.tret (w : FC) : Encoded.Statement (.tret w) := reads_fc .tret w rfl rfl rfl
theorem Encoded.rjset (w : FM) : Encoded.Statement (.rjset w) := reads_fm .rjset w rfl rfl rfl
theorem Encoded.rjarv (w : FM) : Encoded.Statement (.rjarv w) := reads_fm .rjarv w rfl rfl rfl
theorem Encoded.rjwait (w : FM) : Encoded.Statement (.rjwait w) := reads_fm .rjwait w rfl rfl rfl
theorem Encoded.loop (w : FC) : Encoded.Statement (.loop w) := reads_fc .loop w rfl rfl rfl
theorem Encoded.lbrk (w : FC) : Encoded.Statement (.lbrk w) := reads_fc .lbrk w rfl rfl rfl
theorem Encoded.doorbellWrite (fn : Nat) (q : Nat) (tail : BitVec 32) : Encoded.Statement (.doorbellWrite fn q tail) := reads_none rfl
theorem Encoded.enableWrite (fn : Nat) (v : Bool) : Encoded.Statement (.enableWrite fn v) := reads_none rfl
theorem Encoded.qerrClear (fn : Nat) : Encoded.Statement (.qerrClear fn) := reads_none rfl
theorem Encoded.evheadWrite (fn : Nat) (v : BitVec 32) : Encoded.Statement (.evheadWrite fn v) := reads_none rfl
theorem Encoded.registerWrite (fn : Nat) (off : Nat) (v : BitVec 64) : Encoded.Statement (.registerWrite fn off v) := reads_none rfl
theorem Encoded.eventWrite (fn : Nat) : Encoded.Statement (.eventWrite fn) := reads_none rfl
theorem Encoded.graphNodeReady (cmd : Nat) (node : Nat) : Encoded.Statement (.graphNodeReady cmd node) := reads_none rfl
theorem Encoded.waitReevaluate (cmd : Nat) : Encoded.Statement (.waitReevaluate cmd) := reads_none rfl
theorem Encoded.pllLock (die : Nat) : Encoded.Statement (.pllLock die) := reads_none rfl
theorem Encoded.ucieTraining (up : BitVec 4) : Encoded.Statement (.ucieTraining up) := reads_none rfl
theorem Encoded.portTraining (up : BitVec 8) : Encoded.Statement (.portTraining up) := reads_none rfl
theorem Encoded.networkPortDown (port : Nat) : Encoded.Statement (.networkPortDown port) := reads_none rfl
theorem Encoded.ucieLinkDown (link : Nat) : Encoded.Statement (.ucieLinkDown link) := reads_none rfl
theorem Encoded.thermalThrottle (die : Nat) (dieTemp : Nat) (hbmTemp : Nat) : Encoded.Statement (.thermalThrottle die dieTemp hbmTemp) := reads_none rfl
theorem Encoded.thermalShutdown (die : Nat) (dieTemp : Nat) (hbmTemp : Nat) : Encoded.Statement (.thermalShutdown die dieTemp hbmTemp) := reads_none rfl
theorem Encoded.pageWalk (walk : Nat) : Encoded.Statement (.pageWalk walk) := reads_none rfl
theorem Encoded.sliceAccept (core : Nat) : Encoded.Statement (.sliceAccept core) := reads_none rfl
theorem Encoded.sliceLoadReturn (req : Nat) : Encoded.Statement (.sliceLoadReturn req) := reads_none rfl
theorem Encoded.atomicReturn (req : Nat) : Encoded.Statement (.atomicReturn req) := reads_none rfl
theorem Encoded.writeAtHome (ent : Nat) : Encoded.Statement (.writeAtHome ent) := reads_none rfl
theorem Encoded.remoteAck (ent : Nat) : Encoded.Statement (.remoteAck ent) := reads_none rfl
theorem Encoded.remoteLoadReturn (req : Nat) : Encoded.Statement (.remoteLoadReturn req) := reads_none rfl
theorem Encoded.hostAccessComplete (req : Nat) : Encoded.Statement (.hostAccessComplete req) := reads_none rfl
theorem Encoded.operationRetire (squad : Nat) (cls : CounterClass) : Encoded.Statement (.operationRetire squad cls) := reads_none rfl
theorem Encoded.rejoinRelease (squad : Nat) (mask : Nat) : Encoded.Statement (.rejoinRelease squad mask) := reads_none rfl
theorem Encoded.syncWordUpdate (upd : Nat) : Encoded.Statement (.syncWordUpdate upd) := reads_none rfl
theorem Encoded.barrierArrival (arr : Nat) : Encoded.Statement (.barrierArrival arr) := reads_none rfl
theorem Encoded.shadowSwap (core : Nat) (part : Nat) : Encoded.Statement (.shadowSwap core part) := reads_none rfl
theorem Encoded.shadowSwapBack (core : Nat) (part : Nat) : Encoded.Statement (.shadowSwapBack core part) := reads_none rfl
theorem Encoded.teamSave (team : Nat) : Encoded.Statement (.teamSave team) := reads_none rfl
theorem Encoded.saveRetry (team : Nat) (squad : Nat) : Encoded.Statement (.saveRetry team squad) := reads_none rfl
theorem Encoded.teamRestore (team : Nat) : Encoded.Statement (.teamRestore team) := reads_none rfl
theorem Encoded.faultSave (squad : Nat) : Encoded.Statement (.faultSave squad) := reads_none rfl
theorem Encoded.faultRestore (squad : Nat) : Encoded.Statement (.faultRestore squad) := reads_none rfl
theorem Encoded.swapOut (squad : Nat) : Encoded.Statement (.swapOut squad) := reads_none rfl
theorem Encoded.swapIn (squad : Nat) : Encoded.Statement (.swapIn squad) := reads_none rfl
theorem Encoded.squadRetire (squad : Nat) : Encoded.Statement (.squadRetire squad) := reads_none rfl
theorem Encoded.noProgress (core : Nat) (part : Nat) : Encoded.Statement (.noProgress core part) := reads_none rfl
theorem Encoded.taskEngineNoProgress (die : Nat) : Encoded.Statement (.taskEngineNoProgress die) := reads_none rfl
theorem Encoded.launchRecordRead (entry : Nat) : Encoded.Statement (.launchRecordRead entry) := reads_none rfl
theorem Encoded.launchAccept (die : Nat) : Encoded.Statement (.launchAccept die) := reads_none rfl
theorem Encoded.teamPlace (group : Nat) : Encoded.Statement (.teamPlace group) := reads_none rfl
theorem Encoded.roamingAdmission (handle : Nat) : Encoded.Statement (.roamingAdmission handle) := reads_none rfl
theorem Encoded.launchComplete (handle : Nat) : Encoded.Statement (.launchComplete handle) := reads_none rfl
theorem Encoded.budgetExhausted (squad : Nat) : Encoded.Statement (.budgetExhausted squad) := reads_none rfl
theorem Encoded.heldUpdateRetry (upd : Nat) : Encoded.Statement (.heldUpdateRetry upd) := reads_none rfl
theorem Encoded.leafDepart (squad : Nat) (lane : Nat) : Encoded.Statement (.leafDepart squad lane) := reads_none rfl
theorem Encoded.leafSend (core : Nat) : Encoded.Statement (.leafSend core) := reads_none rfl
theorem Encoded.bundleSend (die : Nat) (chip : Nat) : Encoded.Statement (.bundleSend die chip) := reads_none rfl
theorem Encoded.bundleArrival (core : Nat) (b : Bundle) : Encoded.Statement (.bundleArrival core b) := reads_none rfl
theorem Encoded.transportRetryLimit (bundle : Nat) : Encoded.Statement (.transportRetryLimit bundle) := reads_none rfl
theorem Encoded.leafArrival (leaf : Nat) : Encoded.Statement (.leafArrival leaf) := reads_none rfl
theorem Encoded.ringReadback (core : Nat) : Encoded.Statement (.ringReadback core) := reads_none rfl
theorem Encoded.transitCredit (core : Nat) : Encoded.Statement (.transitCredit core) := reads_none rfl
theorem Encoded.arrivalDispatch (core : Nat) : Encoded.Statement (.arrivalDispatch core) := reads_none rfl
theorem Encoded.binRelease (bin : Nat) : Encoded.Statement (.binRelease bin) := reads_none rfl
theorem Encoded.poolTableRefresh (die : Nat) (wide : Bool) : Encoded.Statement (.poolTableRefresh die wide) := reads_none rfl
theorem Encoded.copyOperationStart (core : Nat) : Encoded.Statement (.copyOperationStart core) := reads_none rfl
theorem Encoded.copyRowWritten (op : Nat) : Encoded.Statement (.copyRowWritten op) := reads_none rfl
theorem Encoded.streamItem (stream : Nat) : Encoded.Statement (.streamItem stream) := reads_none rfl
theorem Encoded.matrixOperationStart (core : Nat) (engine : Nat) : Encoded.Statement (.matrixOperationStart core engine) := reads_none rfl
theorem Encoded.rowOperationStart (core : Nat) : Encoded.Statement (.rowOperationStart core) := reads_none rfl
theorem Encoded.signatureOperationStart (core : Nat) : Encoded.Statement (.signatureOperationStart core) := reads_none rfl
theorem Encoded.routeOperationStart (die : Nat) : Encoded.Statement (.routeOperationStart die) := reads_none rfl
theorem Encoded.contextOpen (die : Nat) : Encoded.Statement (.contextOpen die) := reads_none rfl
theorem Encoded.rowAdmission (die : Nat) : Encoded.Statement (.rowAdmission die) := reads_none rfl
theorem Encoded.rowComplete (die : Nat) (row : Nat) : Encoded.Statement (.rowComplete die row) := reads_none rfl
theorem Encoded.tokenTimeout (die : Nat) (ctx : Nat) (token : Nat) : Encoded.Statement (.tokenTimeout die ctx token) := reads_none rfl
theorem Encoded.tokenRelease (die : Nat) (ctx : Nat) (token : Nat) : Encoded.Statement (.tokenRelease die ctx token) := reads_none rfl
theorem Encoded.ringReadmission (die : Nat) (ctx : Nat) : Encoded.Statement (.ringReadmission die ctx) := reads_none rfl
theorem Encoded.combineOverflow (die : Nat) : Encoded.Statement (.combineOverflow die) := reads_none rfl
theorem Encoded.contextClose (die : Nat) : Encoded.Statement (.contextClose die) := reads_none rfl
theorem Encoded.unassignedOpcode (eng : BitVec 4) (tail : Bool) (word : Word) : Encoded.Statement (.unassignedOpcode eng tail word) := reads_none rfl
theorem Encoded.powerLoss (connector : Nat) : Encoded.Statement (.powerLoss connector) := reads_none rfl
theorem Encoded.cmdLaunch : Encoded.Statement (.cmdLaunch) := reads_none rfl
theorem Encoded.graph : Encoded.Statement (.graph) := reads_none rfl
theorem Encoded.cmdCopy : Encoded.Statement (.cmdCopy) := reads_none rfl
theorem Encoded.signal : Encoded.Statement (.signal) := reads_none rfl
theorem Encoded.cmdWait : Encoded.Statement (.cmdWait) := reads_none rfl
theorem Encoded.invalidate : Encoded.Statement (.invalidate) := reads_none rfl
theorem Encoded.resume : Encoded.Statement (.resume) := reads_none rfl
theorem Encoded.preempt : Encoded.Statement (.preempt) := reads_none rfl
theorem Encoded.release : Encoded.Statement (.release) := reads_none rfl
theorem Encoded.summary : Encoded.Statement (.summary) := reads_none rfl
theorem Encoded.create : Encoded.Statement (.create) := reads_none rfl
theorem Encoded.delete : Encoded.Statement (.delete) := reads_none rfl
theorem Encoded.setasc : Encoded.Statement (.setasc) := reads_none rfl
theorem Encoded.config : Encoded.Statement (.config) := reads_none rfl
theorem Encoded.policy : Encoded.Statement (.policy) := reads_none rfl
theorem Encoded.recoveryLoad : Encoded.Statement (.recoveryLoad) := reads_none rfl
theorem Encoded.partReset : Encoded.Statement (.partReset) := reads_none rfl
theorem Encoded.powerGood : Encoded.Statement (.powerGood) := reads_none rfl
theorem Encoded.firmwareCheck : Encoded.Statement (.firmwareCheck) := reads_none rfl
theorem Encoded.hbmTraining : Encoded.Statement (.hbmTraining) := reads_none rfl
theorem Encoded.pcieLinkUp : Encoded.Statement (.pcieLinkUp) := reads_none rfl
theorem Encoded.gangEnterActive : Encoded.Statement (.gangEnterActive) := reads_none rfl
theorem Encoded.clauseStart : Encoded.Statement (.clauseStart) := reads_none rfl
theorem Encoded.clauseFetch : Encoded.Statement (.clauseFetch) := reads_none rfl
theorem Encoded.clauseBoundary : Encoded.Statement (.clauseBoundary) := reads_none rfl
theorem Encoded.classAgeing : Encoded.Statement (.classAgeing) := reads_none rfl
theorem Encoded.entryTimeLimit : Encoded.Statement (.entryTimeLimit) := reads_none rfl
theorem Encoded.sfuAccept : Encoded.Statement (.sfuAccept) := reads_none rfl
theorem Encoded.memoryPortAccept : Encoded.Statement (.memoryPortAccept) := reads_none rfl
theorem Encoded.runAhead : Encoded.Statement (.runAhead) := reads_none rfl
theorem Encoded.fenceComplete : Encoded.Statement (.fenceComplete) := reads_none rfl
theorem Encoded.counterWaitRelease : Encoded.Statement (.counterWaitRelease) := reads_none rfl
theorem Encoded.syncWaiterRelease : Encoded.Statement (.syncWaiterRelease) := reads_none rfl
theorem Encoded.ringWaiterRelease : Encoded.Statement (.ringWaiterRelease) := reads_none rfl
theorem Encoded.joinRelease : Encoded.Statement (.joinRelease) := reads_none rfl
theorem Encoded.barrierRelease : Encoded.Statement (.barrierRelease) := reads_none rfl
theorem Encoded.cbstatResult : Encoded.Statement (.cbstatResult) := reads_none rfl
theorem Encoded.cbputAnswer : Encoded.Statement (.cbputAnswer) := reads_none rfl

end Laws
end Sys2Proof
end

