-- ==== Sys2Proof/Tests/Slice0.lean ====
section
/-!
SUPPORT. Tests: ill-formed terms that WellFormed refuses, words written out from the encoding tables, single steps whose results stand in
the rules, and for each statement with hypotheses a state and operands that meet them.
-/
open Sys2Proof Sys2Proof.Machine
namespace Sys2Proof.Tests
set_option Elab.async false

/-! ### Well-formed instructions -/

/-- The common fields of an unguarded word without a latch. -/
abbrev cm (dk : DK) (dn : BitVec 9) : Common := ⟨31, false, dk, dn, false, false, 0⟩
/-- Those of a word without a destination. -/
abbrev c0 : Common := cm .none 0

/-- A well-formed word of each format. -/
theorem test_wellFormed :
  (Instr.iadd ⟨cm .vec 1, .vec 2, .imm 3, 0⟩).wf = true ∧ (Instr.imad ⟨cm .vec 1, .vec 2, .vec 3, .vec 4⟩).wf = true ∧
  (Instr.movi ⟨cm .uni 1, 5⟩).wf = true ∧ (Instr.ld ⟨cm .vec 1, .vec 2, 4, 8⟩).wf = true ∧ (Instr.bra ⟨c0, 4, 0⟩).wf = true ∧
  (Instr.trap ⟨c0, .vec 0, 7⟩).wf = true := by decide

/-- The guard (R99), the destination fields (R101) and the unused sources (R104). -/
theorem test_illFormed_common :
  (Instr.iadd ⟨⟨24, false, .vec, 1, false, false, 0⟩, .vec 2, .vec 3, 0⟩).wf = false ∧
  (Instr.iadd ⟨⟨31, true, .vec, 1, false, false, 0⟩, .vec 2, .vec 3, 0⟩).wf = false ∧
  (Instr.iadd ⟨cm .none 1, .vec 2, .vec 3, 0⟩).wf = false ∧
  (Instr.iadd ⟨⟨31, false, .none, 0, true, false, 0⟩, .vec 2, .vec 3, 0⟩).wf = false ∧
  (Instr.iadd ⟨⟨31, false, .vec, 1, false, false, 2⟩, .vec 2, .vec 3, 0⟩).wf = false ∧
  (Instr.fence ⟨cm .vec 0, .vec 0, .vec 0, 0⟩).wf = false ∧
  (Instr.st ⟨⟨31, false, .vec, 1, true, false, 0⟩, .vec 2, 4, 0⟩).wf = false ∧
  (Instr.st ⟨cm .none 1, .vec 2, 4, 0⟩).wf = false ∧
  (Instr.popc ⟨cm .vec 1, .vec 2, .vec 1, 0⟩).wf = false := by decide

/-- The MOD fields: their ranges (R106), SAT with U (R132), rounding (R125), comparisons (R142), conversions (R152, R153), sizes and hints
(R182), atomics (R190), statistics (R323) and special-register numbers (R163). -/
theorem test_illFormed_mod :
  (Instr.imulh ⟨cm .vec 1, .vec 2, .vec 3, 2⟩).wf = false ∧ (Instr.iadd ⟨cm .vec 1, .vec 2, .vec 3, 1⟩).wf = false ∧
  (Instr.fadd ⟨cm .vec 1, .vec 2, .vec 3, 4⟩).wf = false ∧ (Instr.icmp ⟨cm .pred 1, .vec 2, .vec 3, 0x30⟩).wf = false ∧
  (Instr.icmp ⟨cm .pred 1, .vec 2, .vec 3, 0x40⟩).wf = false ∧ (Instr.icmp ⟨cm .pred 1, .vec 2, .vec 3, 6⟩).wf = false ∧
  (Instr.cvt ⟨cm .vec 1, .vec 2, .vec 0, 0xD⟩).wf = false ∧ (Instr.cvt ⟨cm .vec 1, .vec 2, .vec 0, 0x110⟩).wf = false ∧
  (Instr.ld ⟨cm .vec 1, .vec 2, 7, 0⟩).wf = false ∧ (Instr.ld ⟨cm .vec 1, .vec 2, 0x18, 0⟩).wf = false ∧
  (Instr.st ⟨cm .vec 1, .vec 2, 1, 0⟩).wf = false ∧ (Instr.lda ⟨cm .vec 1, .vec 2, 6, 0⟩).wf = false ∧
  (Instr.stl ⟨cm .vec 1, .vec 2, 3, 0⟩).wf = false ∧ (Instr.atom ⟨cm .vec 1, .vec 2, .vec 4, 0x40⟩).wf = false ∧
  (Instr.atom ⟨cm .vec 1, .vec 2, .vec 4, 0x80⟩).wf = false ∧ (Instr.rstat ⟨cm .vec 2, .vec 0, .vec 0, 0x80⟩).wf = false ∧
  (Instr.sread ⟨cm .vec 1, .vec 0, .vec 0, 7⟩).wf = false ∧ (Instr.mma ⟨⟨0, false, .none, 0, false, false, 0⟩, .vec 0, .vec 1, 0⟩).wf = false ∧
  (Instr.swadd ⟨c0, .uni 4, 0⟩).wf = false ∧ (Instr.tret ⟨c0, 0, 2⟩).wf = false := by decide

/-- Bits that a format holds at zero, and nonzero bits of a latch field, are rejected (R104, R105). -/
theorem test_decode_rejects :
  decodeWord .lane false 0x04F8008001003009 = .error .formatBits ∧ decodeWord .lane false 0x1CF8008000000001 = .error .formatBits ∧
  decodeWord .lane false 0x00F8008204002000 = .error .latchBits ∧ decodeWord .lane false 0x00F8008001003800 = .error .reserved :=
  ⟨rfl, rfl, rfl, rfl⟩

/-! ### Words of each class (R99, R104, R105, R109) -/

theorem test_decode_lane :
  decodeWord .lane false 0x00F80280017FF003 = .ok (.iadd ⟨cm .vec 5, .vec 2, .imm (-1), 3⟩) ∧
  decodeWord .lane false 0x041C038000A03804 = .ok (.imad ⟨⟨3, true, .vec, 7, false, false, 0⟩, .vec 1, .uni 3, .lat 2⟩) ∧
  decodeWord .lane false 0x1CF904837AB6FBBC = .ok (.movi ⟨cm .uni 9, 3735928559⟩) ∧
  decodeWord .lane false 0x20F8023403007000 = .ok (.fadd ⟨⟨31, false, .vec, 4, false, true, 5⟩, .vec 6, .vec 7, 0⟩) ∧
  decodeWord .lane false 0x25F8008001003008 = .ok (.ffmaRu ⟨cm .vec 1, .vec 2, .vec 3, .vec 4⟩) ∧
  decodeWord .lane false 0x48FA010000800001 = .ok (.vote ⟨cm .pred 2, .vec 1, .vec 0, 1⟩) ∧
  decodeWord .lane false 0x50F8047C00000040 = .ok (.sread ⟨⟨31, false, .vec, 8, true, true, 7⟩, .vec 0, .vec 0, 64⟩) :=
  ⟨rfl, rfl, rfl, rfl, rfl, rfl, rfl⟩

theorem test_decode_sfu :
  decodeWord .sfu false 0x00F8008001000000 = .ok (.exp2 ⟨cm .vec 1, .vec 2, .vec 0, 0⟩) ∧
  decodeWord .sfu false 0x8DF9018102000000 = .ok (.erfAcc ⟨cm .uni 3, .uni 4, .vec 0, 0⟩) ∧
  decodeWord .sfu false 0x0EF8008001003000 = .ok (.fdiv ⟨cm .vec 1, .vec 2, .vec 3, 0⟩) :=
  ⟨rfl, rfl, rfl⟩

theorem test_decode_mem :
  decodeWord .mem false 0x00F8050002006FF0 = .ok (.ld ⟨cm .vec 10, .vec 4, 6, (-16)⟩) ∧
  decodeWord .mem false 0x01F89601010047FF = .ok (.st ⟨cm .vec 300, .uni 2, 4, 2047⟩) ∧
  decodeWord .mem false 0x06F8018002006001 = .ok (.cas ⟨cm .vec 3, .vec 4, .vec 6, 1⟩) ∧
  decodeWord .mem false 0x07FB000000000009 = .ok (.fence ⟨cm .none 0, .vec 0, .vec 0, 9⟩) ∧
  decodeWord .mem false 0x08FB000104000800 = .ok (.pref ⟨cm .none 0, .uni 8, 0, (-2048)⟩) :=
  ⟨rfl, rfl, rfl, rfl, rfl⟩

theorem test_decode_mig :
  decodeWord .mig false 0x02F8028001000000 = .ok (.home ⟨cm .vec 5, .vec 2, .vec 0, 0⟩) ∧
  decodeWord .mig false 0x05F8008001000003 = .ok (.aqstat ⟨cm .vec 1, .vec 2, .vec 0, 3⟩) :=
  ⟨rfl, rfl⟩

theorem test_decode_sync :
  decodeWord .sync false 0x02FB0001023FFFFF = .ok (.swadd ⟨cm .none 0, .uni 4, 4194303⟩) ∧
  decodeWord .sync false 0x03F9010102206000 = .ok (.swwait ⟨cm .uni 2, .uni 4, .uni 6, 0⟩) ∧
  decodeWord .sync false 0x04FB000307A01000 = .ok (.bar ⟨cm .none 0, .imm 15, .uni 1, 0⟩) ∧
  decodeWord .sync false 0x09F8010000000005 = .ok (.cntrd ⟨cm .vec 2, .vec 0, .vec 0, 5⟩) :=
  ⟨rfl, rfl, rfl, rfl⟩

theorem test_decode_copy :
  decodeWord .copy false 0x00FB000102000000 = .ok (.tload ⟨cm .none 0, .uni 4, .vec 0, 0⟩) ∧
  decodeWord .copy false 0x07FB0001FF202000 = .ok (.tmove ⟨cm .none 0, .uni 510, .uni 2, 0⟩) :=
  ⟨rfl, rfl⟩

theorem test_decode_mtx :
  decodeWord .mtx false 0x00FB000000001603 = .ok (.mma ⟨cm .none 0, .vec 0, .vec 1, 1539⟩) ∧
  decodeWord .mtx false 0x07F802031F800000 = .ok (.acrd ⟨cm .vec 4, .imm 63, .vec 0, 0⟩) ∧
  decodeWord .mtx false 0x08F9040001800001 = .ok (.opmap ⟨cm .uni 8, .vec 3, .vec 0, 1⟩) :=
  ⟨rfl, rfl, rfl⟩

theorem test_decode_row :
  decodeWord .row false 0x00F8010000000000 = .ok (.rstat ⟨cm .vec 2, .vec 0, .vec 0, 0⟩) ∧
  decodeWord .row false 0x03FB000103000000 = .ok (.pbound ⟨cm .none 0, .uni 6, .vec 0, 0⟩) :=
  ⟨rfl, rfl⟩

theorem test_decode_sig :
  decodeWord .sig false 0x00FB000101000000 = .ok (.sign ⟨cm .none 0, .uni 2, .vec 0, 0⟩) ∧
  decodeWord .sig false 0x03FB000102000000 = .ok (.sbkt ⟨cm .none 0, .uni 4, .vec 0, 0⟩) :=
  ⟨rfl, rfl⟩

theorem test_decode_task :
  decodeWord .task false 0x00F8010102000000 = .ok (.launch ⟨cm .vec 2, .uni 4, .vec 0, 0⟩) ∧
  decodeWord .task false 0x03FB000102000001 = .ok (.slice ⟨cm .none 0, .uni 4, .vec 0, 1⟩) ∧
  decodeWord .task false 0x05FB000102002000 = .ok (.swapout ⟨cm .none 0, .uni 4, .vec 2, 0⟩) :=
  ⟨rfl, rfl, rfl⟩

theorem test_decode_exp :
  decodeWord .exp false 0x00FB000102605001 = .ok (.route ⟨cm .none 0, .uni 4, .imm 5, 1⟩) ∧
  decodeWord .exp false 0x04F8008303800005 = .ok (.cbstat ⟨cm .vec 1, .imm 7, .vec 0, 5⟩) :=
  ⟨rfl, rfl⟩

theorem test_decode_ctl :
  decodeWord .ctl false 0x0103000200000000 = .ok (.bra ⟨⟨0, false, .none, 0, false, false, 0⟩, (-33554432), 0⟩) ∧
  decodeWord .ctl false 0x03F90301FFFFFF00 = .ok (.call ⟨cm .uni 6, 33554431, 0⟩) ∧
  decodeWord .ctl false 0x07FB0000007FFFFF = .ok (.trap ⟨cm .none 0, .vec 0, (-1)⟩) ∧
  decodeWord .ctl false 0x09FB000000000001 = .ok (.tret ⟨cm .none 0, 0, 1⟩) ∧
  decodeWord .ctl false 0x0AFB000003800000 = .ok (.rjset ⟨cm .none 0, .vec 7, .vec 0, 0⟩) ∧
  decodeWord .ctl false 0x0DFB0003FFFFFE85 = .ok (.loop ⟨cm .none 0, (-2), 133⟩) ∧
  decodeWord .ctl false 0x0EFB000000000405 = .ok (.lbrk ⟨cm .none 0, 4, 5⟩) :=
  ⟨rfl, rfl, rfl, rfl, rfl, rfl, rfl⟩

/-! ### Small states -/

/-- A squad of 32 threads, the registers of lane 0 as given; p0 holds in lane 0 alone. -/
def sq (v u : RegFile) : Squad :=
  { id := 5, launch := 7, team := 3, vregs := 16, sregs := 32, accs := 2, tiles := 4, u := u
    lanes := { st := .run, v := v, p := 1 } :: List.replicate 31 { st := .run }, rj := List.replicate 8 {} }
/-- A gang of it, of the lanes given, at the first word of a clause of class e at 0x1000. -/
def gn (e : Eng) (m : Lanes) : Gang :=
  { id := 9, squad := 5, lanes := m, pc := 0x1000, pos := 1, phase := .body, active := true, hdr := BitVec.ofNat 64 (e.code * 2 ^ 60), words := [0] }
/-- Its team, of 32 threads and 4 KiB of scratch. -/
def team0 : Team := { id := 3, launch := 7, cores := [0], threads := 32, nsquads := 1, scratch := 4096, base := [0] }
/-- The record of its launch: one team of 32 threads. -/
def rec0 : LaunchRec := { entry := 0x1000, tthreads := 32, widths := [5], fcount := 1, extents := [32], vregs := 16, sregs := 32 }
/-- Its launch. -/
def launch0 : Launch := { handle := 7, die := 0, fn := 0, asc := 0, r := rec0, st := .running, next := 1, teams := 1 }
/-- A state in which that squad runs with that gang, which is selected. -/
def on (g : Gang) (q : Squad) : State :=
  { State.reset with cur := 9, now := 5000, nextId := 100, gangs := [g], squads := [q], teams := [team0], launches := [launch0] }
/-- A gang of lanes 0 and 1 of class e. -/
def g2 (e : Eng) : Gang := gn e 3
/-- Of all 32 lanes. -/
def gAll (e : Eng) : Gang := gn e 0xFFFFFFFF
/-- The registers of a squad after an instruction of a gang of class e: a register of lane 0. -/
def after (e : Eng) (q : Squad) (i : Instr) (n : Nat) : Option Nat :=
  match exec i (on (g2 e) q) with
  | .next t => (t.squad? 5).map fun x => (regGet (x.lane 0).v n).toNat
  | _ => none
/-- The flags of lane 0 after it. -/
def flagsAfter (e : Eng) (q : Squad) (i : Instr) : Option Nat :=
  match exec i (on (g2 e) q) with
  | .next t => (t.squad? 5).map fun x => (x.lane 0).ff.toNat
  | _ => none

/-- A squad whose lane 0 holds 0x80000000 in v2, 3 in v3, and 1 in v4. -/
def qL : Squad := sq [(2, 0x80000000), (3, 3), (4, 1)] [(2, 9)]

/-! ### LANE and SFU: operands that the statements admit -/

theorem witness_here : (on (g2 .lane) qL).here? = some (g2 .lane, qL) ∧ (on (g2 .sfu) qL).here? = some (g2 .sfu, qL) := ⟨rfl, rfl⟩

/-- IntegerArithmetic: with U and SAT and without, a vector and a uniform destination, the last register of the context (v15, s31). -/
theorem witness_integer :
  okFM ⟨cm .vec 15, .vec 2, .vec 3, 0⟩ qL = true ∧ okFM ⟨cm .uni 31, .uni 2, .imm (-256), 3⟩ qL = true ∧
  okFM1 ⟨cm .vec 15, .vec 2, .vec 0, 0⟩ qL = true ∧ (0 : BitVec 12).getLsbD 0 = false ∧
  okFM ⟨⟨31, false, .vec, 1, true, true, 7⟩, .lat 7, .vec 15, 0⟩ qL = true := by decide

/-- IntegerArithmetic, IMAD, IADD64 and LEA: pairs, with the last pair of the context. -/
theorem witness_wide :
  okF3 ⟨cm .vec 15, .vec 2, .uni 3, .lat 2⟩ qL = true ∧
  operandsOk qL (cm .vec 14) [(.r64, .vec 2), (.r64, .uni 30)] 2 true false = true ∧
  operandsOk qL (cm .uni 30) [(.r64, .uni 2), (.r32, .imm 5)] 2 true false = true := by decide

/-- LogicShiftsAndFields: both widths. -/
theorem witness_logic :
  okFM ⟨cm .vec 1, .vec 2, .vec 3, 0⟩ qL = true ∧ (0 : BitVec 12).getLsbD 0 = false ∧ (1 : BitVec 12).getLsbD 0 = true ∧
  operandsOk qL (cm .vec 14) [(.r64, .vec 2), (.r64, .vec 4)] 2 true false = true ∧
  operandsOk qL (cm .vec 0) [(.r64, .vec 2), (.r32, .imm 255)] 2 true false = true := by decide

/-- The fields of LogicShiftsAndFields, FloatingPoint, SpecialFunctions and the rest of CompareSelectMove: one, two and three sources. -/
theorem witness_operands :
  okF3 ⟨cm .vec 1, .vec 2, .vec 3, .imm 31⟩ qL = true ∧ okFM ⟨cm .vec 1, .vec 2, .imm 31, 0xFAC⟩ qL = true ∧
  okFM1 ⟨cm .uni 1, .uni 2, .vec 0, 0⟩ qL = true ∧ operandsOk qL (cm .vec 14) [(.r64, .vec 2)] 2 true false = true := by decide

/-- CompareSelectMove: a predicate destination, and a combination with p23 and with the constant. -/
theorem witness_compare :
  (operandsOk qL (cm .pred 23) [(.r32, .vec 2), (.r32, .vec 3)] 1 true true && combineOk qL ⟨cm .pred 23, .vec 2, .vec 3, 0xDD5⟩) = true ∧
  (operandsOk qL (cm .vec 1) [(.r32, .vec 2), (.r32, .vec 3)] 1 true true && combineOk qL ⟨cm .vec 1, .vec 2, .vec 3, 0⟩) = true ∧
  operandsOk qL (cm .pred 0) [(.r32, .vec 2), (.r32, .imm 9)] 1 true true = true ∧
  operandsOk qL (cm .vec 1) [(.r32, .vec 2), (.r32, .vec 3), (.pred, .vec 23)] 1 false false = true ∧
  operandsOk qL (cm .vec 15) [] 1 true false = true := by decide

/-- FloatRounding: the largest finite number of each format, a sum, a product and a scaled number that are zero and that are not, a conversion of
each pair of kinds, numbers at and beside the ends of the saturated ranges, and the least and the greatest random value. -/
theorem witness_rounding :
  (∀ f ∈ [Fmt.f32, .f16, .bf16, .e4m3, .e5m2], maxFinite f < 2 * signBit f ∧ maxFinite f % signBit f ≤ maxFinite f ∧
    (signBit f + 1) % signBit f ≤ maxFinite f) ∧
  codeValue .f32 0x3F800000 + codeValue .f32 0xBF800000 = 0 ∧ codeValue .f32 0x3F800000 + codeValue .f32 1 ≠ 0 ∧
  codeValue .e4m3 0x7E * codeValue .e4m3 0x80 = 0 ∧ codeValue .e4m3 0x7E * codeValue .e4m3 1 ≠ 0 ∧
  codeValue .f16 0x3C00 * codeValue .f16 0x3C00 + codeValue .f16 0xBC00 = 0 ∧ codeValue .f16 0x3C00 * codeValue .f16 0x3C00 + codeValue .f16 1 ≠ 0 := by
  decide +kernel
theorem witness_conversions :
  (∀ m ∈ [(0x000 : BitVec 12), 0x030, 0x800], cvtTy (m.extractLsb' 0 4).toNat = .int 8 false) ∧ cvtTy 5 = .int 16 true ∧
  (∀ g ∈ [Fmt.f32, .f16, .bf16, .e4m3, .e5m2], ∃ k, k < 13 ∧ cvtTy k = .flt g) ∧ (∃ k, k < 13 ∧ cvtTy k = .int 64 true) ∧
  readInt false (BitVec.ofNat 8 0x80) = -128 ∧ readInt true (BitVec.ofNat 16 0) = 0 ∧ (0x800 : BitVec 12).getLsbD 11 = true ∧
  nanCode .e4m3 0x7F = true ∧ snanCode .f16 0x7C01 = true ∧ infCode .bf16 true = 0xFF80 ∧ codeValue .f16 0x3C01 > 1 ∧ codeValue .f16 0x3C00 = 1 ∧
  codeValue .f32 0 = 0 ∧ codeValue .f32 0x47800000 ≠ 0 ∧ (65535 : Nat) < 2 ^ 16 := by decide +kernel

/-- SfuBounds: 1 and its neighbours, the least normal number, numbers on each side of 2^126, quotients below 2^-126 and beyond the largest number, and
an operand of a transcendental function in its domain. -/
theorem witness_sfuBounds :
  (codeValue .f32 0x3F800000 = 1 ∧ 2 ^ 23 ≤ 0x00800000 % 2 ^ 31) ∧ codeValue .f32 0x7F7FFFFF > pow2 126 ∧ codeValue .f32 0x7E800000 = pow2 126 ∧
  (codeValue .f32 0x00800000 / codeValue .f32 0x40000000).abs < pow2 (-126) ∧ codeValue .f32 0x7F7FFFFF < (codeValue .f32 0x7F7FFFFF / codeValue .f32 0x3F000000).abs ∧
  pow2 (-126) ≤ (codeValue .f32 0x3F800000 / codeValue .f32 0x40400000).abs := by decide +kernel
theorem witness_sfuFunctions :
  fvOf .f32 (flushIn false (0x3F800001 : W32).toNat) = .fin false 0x800001 (-23) ∧ sfuDomainError .log2 false 0x800001 (-23) = false ∧
  sfuDomainError .sin true 0x800001 (-23) = false ∧ (0x3F800001 : W32) ≠ 0x3F800000 := by decide +kernel

/-- NanResults: in each format a quiet and a signalling NaN, each in each place, and zero times infinity. -/
theorem witness_nan :
  (∀ f ∈ [Fmt.f32, .f16, .bf16, .e5m2], nanCode f (maxFinite f + 2) = true ∧ snanCode f (maxFinite f + 2) = true ∧ nanCode f (2 * signBit f - 1) = true ∧
    snanCode f (2 * signBit f - 1) = false ∧ maxFinite f + 2 < 2 * signBit f ∧ nanCode f (infCode f true) = false ∧
    infCode f true % signBit f = infCode f false ∧ signBit f % signBit f = 0) := by decide

/-- PredicatesAndCrossLane: each form, with its destination. -/
theorem witness_crossLane :
  (operandsOk qL (cm .pred 23) [(.pred, .vec 0), (.pred, .vec 23)] 1 false true && (cm .pred 23).dk == .pred) = true ∧
  (operandsOk qL (cm .vec 1) [(.r32, .vec 3)] 1 false false && !pmovMaskBad qL ⟨cm .vec 1, .vec 0, .vec 3, 0⟩ 3) = true ∧
  (guardFieldOk qL c0 && srcOk qL false .r32 (.vec 2) && srcOk qL false .r32 (.vec 3) && !pmovMaskBad qL ⟨c0, .vec 2, .vec 3, 1⟩ 3) = true ∧
  (guardFieldOk qL (cm .pred 1) && dstOk qL (cm .pred 1) 1 true true && [(OpKind.pred, Src.vec 0)].all fun x => srcOk qL false x.1 x.2) = true ∧
  (guardFieldOk qL (cm .uni 1) && dstOk qL (cm .uni 1) 1 true false && [(OpKind.pred, Src.vec 0)].all fun x => srcOk qL false x.1 x.2) = true ∧
  (guardFieldOk qL (cm .vec 1) && dstOk qL (cm .vec 1) 1 false false &&
    [(OpKind.r32, Src.vec 2), (.r32, .imm 31)].all fun x => srcOk qL false x.1 x.2) = true ∧
  (guardFieldOk qL (cm .pred 1) && dstOk qL (cm .pred 1) 1 false true && [(OpKind.r64, Src.vec 14)].all fun x => srcOk qL false x.1 x.2) = true ∧
  ((0x013 : BitVec 12).extractLsb' 2 3).toNat ≤ 4 ∧ ((0x02A : BitVec 12).extractLsb' 0 4).toNat ≤ 10 := by
  decide

/-- SpecialRegistersAndHashing: a special register of one and of two registers, %fflags, and a quad at the end of the context. -/
theorem witness_sregs :
  (∀ k, k < 8 → k < (State.reset.core 0).cmp.length) ∧ (0x117 : Nat) ∈ [0x110 + 7, 0x118 + 7, 0x120 + 7] ∧ (0x11F : Nat) ∈ [0x110 + 7, 0x118 + 7, 0x120 + 7] ∧
  (guardFieldOk qL c0 && srcOk qL false .r64 (.vec 2)) = true ∧ ((State.reset.cmp 0 7).bpc.getLsbD 0 = false ∨ (State.reset.cmp 0 7).owner = 7) ∧
  ((({ State.reset with cores := [(0, { Core.reset with cmp := List.replicate 8 { bpc := 1, owner := 9 } })] } : State).cmp 0 7).bpc.getLsbD 0 = true ∧
    (({ State.reset with cores := [(0, { Core.reset with cmp := List.replicate 8 { bpc := 1, owner := 9 } })] } : State).cmp 0 7).owner ≠ 7) ∧
  heldLanes c0 (g2 .lane) qL ≠ 0 ∧
  (guardFieldOk qL (cm .vec 15) && dstOk qL (cm .vec 15) 1 true false) = true ∧ sregWide 0x000 = false ∧
  (guardFieldOk qL (cm .vec 14) && dstOk qL (cm .vec 14) 2 true false) = true ∧ sregWide 0x041 = true ∧
  (guardFieldOk qL c0 && srcOk qL false .r32 (.vec 2)) = true ∧
  operandsOk qL (cm .vec 1) [(.r32, .vec 2), (.r64, .vec 2)] 1 true false = true ∧
  operandsOk qL (cm .vec 1) [(.quad, .vec 12), (.quad, .vec 8)] 1 true false = true ∧
  operandsOk qL (cm .vec 1) [(.quad, .vec 12), (.r32, .imm 255)] 1 true false = true := by decide

/-- SpecialFunctionValues: the smallest negative operand of each grade, an argument just past 2^20, and for FDIV a NaN, an infinity, a zero, a subnormal
number and a divisor just above 2^126, in each place. -/
theorem witness_sfuValues :
  (0x80000000 < (0x80800000 : W32).toNat ∧ (fvOf .f32 0x80800000).isNaN = false ∧ (0x80800000 : W32).toNat ≤ 0x80800000) ∧
  (0x80000000 < (0x80000001 : W32).toNat ∧ (fvOf .f32 0x80000001).isNaN = false) ∧
  (0x49800000 < (0xC9800001 : W32).toNat % 2 ^ 31 ∧ (fvOf .f32 0xC9800001).isNaN = false) ∧ (fvOf .f32 0x7F800001).isNaN = true ∧
  nanCode .f32 0x7F800001 = true ∧ (0xFF800000 : W32).toNat % 2 ^ 31 = 0x7F800000 ∧ (0x80000000 : W32).toNat % 2 ^ 31 = 0 ∧
  (0x807FFFFF : W32).toNat % 2 ^ 31 < 2 ^ 23 ∧ (0x00800000 : W32).toNat % 2 ^ 31 ≥ 2 ^ 23 ∧ 0x7E800000 < (0x7E800001 : W32).toNat % 2 ^ 31 := by decide

/-- RegisterResult and LaneFrame: lanes of the gang whose guard holds and does not, and lanes outside it. -/
theorem witness_result :
  (on (g2 .lane) qL).here? = some (g2 .lane, qL) ∧ qL.lanes.length = 32 ∧ (g2 .lane).lanes.getLsbD 0 = true ∧
  guardHolds ⟨0, false, .vec, 1, false, true, 3⟩ (qL.lane 0) = true ∧ guardHolds ⟨0, false, .vec, 1, false, true, 3⟩ (qL.lane 1) = false ∧ (23 : BitVec 9).toNat < 24 ∧
  (g2 .lane).lanes.getLsbD 31 = false ∧ heldLanes ⟨1, false, .uni, 1, false, false, 0⟩ (g2 .lane) qL = 0 ∧
  heldLanes ⟨0, false, .uni, 1, false, false, 0⟩ (g2 .lane) qL = 1 :=
  ⟨rfl, rfl, rfl, rfl, rfl, by decide, rfl, rfl, rfl⟩

/-! ### CTL: states that the statements admit -/

/-- A squad with an address in v2 and v3, an offset in v4, a loop count in v5, and an address in s2 and s3. -/
def qC : Squad := sq [(2, 0x2000), (4, 5), (5, 2)] [(2, 0x3000), (6, 1)]
abbrev cp0 : Common := ⟨0, false, .none, 0, false, false, 0⟩

theorem witness_control :
  (on (gAll .ctl) qC).here? = some (gAll .ctl, qC) ∧ qC.lanes.length = 32 ∧
  (guardFieldOk qC cp0 = true ∧ ∀ l ∈ lanesOf (heldLanes cp0 (gAll .ctl) qC), targetFault ((gAll .ctl).pc + 8 * (4 : BitVec 26).signExtend 64) = none) ∧
  ((guardFieldOk qC cp0 && srcOk qC false .base (.vec 2) && srcOk qC false .r32 (.vec 4)) = true ∧
    ∀ l ∈ lanesOf (heldLanes cp0 (gAll .ctl) qC), targetFault (val64 qC l (.vec 2) + 8 * (val32 qC l (.vec 4)).signExtend 64) = none) ∧
  ((guardFieldOk qC c0 && srcOk qC false .base (.uni 2)) = true ∧
    ∀ l ∈ lanesOf (heldLanes c0 (gAll .ctl) qC), targetFault (val64 qC l (.uni 2)) = none) ∧
  ((guardFieldOk qC (cm .vec 14) && dstOk qC (cm .vec 14) 2 true false) = true ∧ heldLanes (cm .vec 14) (gAll .ctl) qC ≠ 0) ∧
  ((guardFieldOk qC (cm .uni 30) && dstOk qC (cm .uni 30) 2 true false) = true ∧ heldLanes (cm .uni 30) (gAll .ctl) qC ≠ 0) :=
  ⟨rfl, rfl, by decide, by decide, by decide, by decide, by decide⟩

/-- BadTargetsAndOpcodesTrap: a target outside the aperture and one off an 8-byte boundary for BRA, CALL, LOOP and LBRK, for BRX and for RET, and
a squad in which the lanes' targets are of both kinds. -/
theorem witness_badTargets :
  guardFieldOk qC c0 = true ∧ heldLanes c0 (gAll .ctl) qC ≠ 0 ∧
  apertureOf ((0x1000 : Word) + 8 * (-0x201 : BitVec 26).signExtend 64).toNat ≠ .global ∧
  apertureOf ((0x1004 : Word) + 8 * (1 : BitVec 26).signExtend 64).toNat = .global ∧
  ((0x1004 : Word) + 8 * (1 : BitVec 26).signExtend 64).toNat % 8 ≠ 0 ∧
  (guardFieldOk qC (cm .vec 14) && dstOk qC (cm .vec 14) 2 true false) = true ∧
  loopOk ⟨c0, (-0x201), 0x05⟩ qC = true ∧ loopOk ⟨c0, 1, 0x86⟩ qC = true ∧
  lanesWhere (heldLanes c0 (gAll .ctl) qC) (fun l => decide (1 < (regGet (qC.lane l).v 5).toNat)) = 1 := by decide +kernel
theorem witness_badPointers :
  let q (a b : Nat) : Squad := { qC with lanes := { st := .run, v := [(2, BitVec.ofNat 32 a), (3, BitVec.ofNat 32 b), (4, 5)], p := 1 } ::
    { st := .run, v := [(2, 0x2004)], p := 1 } :: List.replicate 30 { st := .run } }
  let m := heldLanes cp0 (gAll .ctl) (q 0x2000 0x80000000)
  (guardFieldOk (q 1 2) cp0 && srcOk (q 1 2) false .base (.vec 2) && srcOk (q 1 2) false .r32 (.vec 4)) = true ∧ m = 3 ∧
  lanesWhere m (fun l => apertureOf (val64 (q 0x2000 0x80000000) l (.vec 2)).toNat != .global) = 1 ∧
  lanesWhere m (fun l => (val64 (q 0x2000 0x80000000) l (.vec 2)).toNat % 8 != 0) = 2 ∧
  lanesWhere m (fun l => apertureOf (val64 (q 0x2000 0) l (.vec 2) + 8 * (val32 (q 0x2000 0) l (.vec 4)).signExtend 64).toNat != .global) = 0 ∧
  lanesWhere m (fun l => (val64 (q 0x2001 0) l (.vec 2) + 8 * (val32 (q 0x2001 0) l (.vec 4)).signExtend 64).toNat % 8 != 0) = 3 := by decide +kernel

/-- LoopsExitNopYield, LOOP and LBRK: a vector and a uniform count, above 1 and not. -/
theorem witness_loops :
  (on (gAll .ctl) qC).here? = some (gAll .ctl, qC) ∧ qC.lanes.length = 32 ∧ loopOk ⟨cp0, (-2), 0x05⟩ qC = true ∧
  loopOk ⟨cp0, (-2), 0x86⟩ qC = true ∧ targetFault ((gAll .ctl).pc + 8 * (-2 : BitVec 26).signExtend 64) = none ∧
  1 < (regGet (qC.lane 0).v 5).toNat ∧ ¬1 < (regGet (qC.lane 1).v 5).toNat ∧ ¬1 < (qC.uni 6).toNat ∧
  heldLanes cp0 (gAll .ctl) qC ≠ 0 :=
  ⟨rfl, rfl, rfl, rfl, rfl, by decide, by decide, by decide, by decide⟩

/-- LoopsExitNopYield, the others: in some lanes, in none, and in a roaming gang. -/
theorem witness_exit :
  guardFieldOk qC cp0 = true ∧ heldLanes cp0 (gAll .ctl) qC = 1 ∧ guardFieldOk qC ⟨23, false, .none, 0, false, false, 0⟩ = true ∧
  heldLanes ⟨23, false, .none, 0, false, false, 0⟩ (gAll .ctl) qC = 0 ∧
  (on (gAll .ctl) { qC with roam := true }).here? = some (gAll .ctl, { qC with roam := true }) ∧
  guardFieldOk { qC with roam := true } ⟨7, true, .none, 0, false, false, 0⟩ = true :=
  ⟨rfl, rfl, rfl, rfl, rfl, rfl⟩

/-- The launch with a trap vector. -/
def launchT : Launch := { launch0 with r := { rec0 with trapv := 0x8000 } }
/-- A gang in its handler, whose trap was at word 1 of a clause at 0x5000, the last if so said. -/
def gH (last : Bool) : Gang :=
  { gn .ctl 3 with handler := true, trap := { pc := 0x5000, pos := 1, hdr := 0, last := last, frec := { code := 8 } } }

/-- TrapEntry: the greatest code and the least, at a word and at a header; the other codes are those of R111. -/
theorem witness_trapEntry :
  let s : State := { on (g2 .ctl) qC with launches := [launchT] }
  s.gang? (g2 .ctl).id = some (g2 .ctl) ∧ s.squad? (g2 .ctl).squad = some qC ∧ s.launch? qC.launch = some launchT ∧ launchT.r.trapv ≠ 0 ∧
  (g2 .ctl).handler = false ∧ (0x41 : Nat) ≠ cPageNotPresent ∧ (0x41 : Nat) ≠ cPermission ∧ (1 : Nat) ≠ cPageNotPresent ∧ (1 : Nat) ≠ cPermission ∧
  (g2 .ctl).pos ≠ 0 ∧ ({ g2 .ctl with pos := 0, phase := .head } : Gang).pos = 0 ∧
  ({ on { g2 .ctl with pos := 0, phase := .head } qC with launches := [launchT] } : State).gang? 9 = some { g2 .ctl with pos := 0, phase := .head } :=
  ⟨rfl, rfl, rfl, by decide, rfl, by decide, by decide, by decide, by decide, by decide, rfl, rfl⟩

/-- FatalTraps: no vector; PERMISSION with one; a second trap. -/
theorem witness_fatalTraps :
  (on (g2 .ctl) qC).squad? 5 = some qC ∧ (on (g2 .ctl) qC).launch? qC.launch = some launch0 ∧ (g2 .ctl).handler = false ∧ launch0.r.trapv = 0 ∧
  launch0.st = .running ∧ (gH true).handler = true ∧ (0x08 : Nat) ≠ 0x11 := ⟨rfl, rfl, rfl, rfl, rfl, rfl, by decide⟩

/-- UserTrapsAndReturn: with and without held lanes; a return of some lanes and of none, from a handler and outside one. -/
theorem witness_userTraps :
  (on (gH true) qC).here? = some (gH true, qC) ∧ (on (gH false) qC).here? = some (gH false, qC) ∧ (on (g2 .ctl) qC).here? = some (g2 .ctl, qC) ∧
  guardFieldOk qC cp0 = true ∧ heldLanes cp0 (gH true) qC = 1 ∧ heldLanes ⟨9, false, .none, 0, false, false, 0⟩ (gH true) qC = 0 ∧
  (gH true).handler = true ∧ (gH true).trap.last = true ∧ (gH false).trap.last = false ∧ (g2 .ctl).handler = false :=
  ⟨rfl, rfl, rfl, rfl, rfl, rfl, rfl, rfl, rfl, rfl⟩

/-- A squad with a round of mask 7 open for lanes 0 and 1, a round of mask 5 complete for lane 1, which waits on it, and lane 2 waiting on
mask 6 for lane 3. -/
def qR : Squad :=
  { qC with lanes := { st := .run, p := 1 } :: { st := .rejoin 5 0x1000 2 0x2000 true 0 } ::
              { st := .rejoin 6 0x1000 2 0x2000 true 0 } :: List.replicate 29 { st := .run }
            rj := List.replicate 5 {} ++ [{ e := 2, fired := 2 }, { e := 12, a := 4 }, { e := 3 }] }
theorem witness_rejoin :
  (on (gn .ctl 1) qR).here? = some (gn .ctl 1, qR) ∧ qR.lanes.length = 32 ∧
  (guardFieldOk qR cp0 && srcOk qR false .rejoin (.vec 7)) = true ∧ (guardFieldOk qR cp0 && srcOk qR false .rejoin (.vec 5)) = true ∧
  heldLanes cp0 (gn .ctl 1) qR ≠ 0 ∧ (∀ l, l < 32 → qR.waitsOn 7 l = false) ∧ qR.waitsOn 6 2 = true ∧
  (guardFieldOk qR cp0 && srcOk qR false .rejoin (.vec 6)) = true ∧
  (on (gn .ctl 1) qR).loadsOut qR 1 = false ∧ (∀ k, k < 8 → (qR.modMask 7 fun m => { m with a := m.a ||| 1 }).roundDone k = false) ∧
  (on (gn .ctl 1) qR).squad? 5 = some qR ∧ qR.place = .resident ∧ (qR.mask 5).fired ≠ 0 ∧ (on (gn .ctl 1) qR).loadsOut qR (qR.mask 5).fired = false ∧
  (qR.mask 5).fired.getLsbD 1 = true ∧ (qR.lane 1).st = .rejoin 5 0x1000 2 0x2000 true 0 :=
  ⟨rfl, rfl, rfl, rfl, by decide, by decide, rfl, rfl, rfl, by decide, rfl, rfl, by decide, rfl, rfl, rfl⟩

/-! ### MEM: states that the statements admit -/

/-- Two registers that hold a 64-bit value. -/
def pr (n v : Nat) : RegFile := [(n, BitVec.ofNat 32 v), (n + 1, BitVec.ofNat 32 (v / 2 ^ 32))].filter fun x => x.2 != 0
/-- A squad with address a in v2 of lane 0, b in v2 of lane 1 and in s2, and data from v4 on. -/
def qM (a b : Nat) : Squad :=
  { sq [] (pr 2 b ++ pr 6 5) with
    lanes := { st := .run, v := pr 2 a ++ [(4, 7), (5, 1), (6, 9)], p := 1 } :: { st := .run, v := pr 2 b ++ [(4, 3), (5, 2), (6, 8)], p := 3 } ::
      List.replicate 30 { st := .run } }
/-- A gang of lanes 0 and 1 at the first word of a MEM clause whose only other word is a FENCE. -/
def gM : Gang := { gn .mem 3 with words := [0x00FB000000000000] }
/-- A translated page of 4 KiB of the launch's address space. -/
def page (va pa : Nat) (w : Bool) : TlbEntry := { core := 0, asc := ascKey 0 0, va := va, size := 4096, pa := pa, w := w, x := true, noc := false }
/-- The state of such a gang: pages at 0x10000 (writable) and 0x11000 (not), and the first 16 bytes of the vault at scratch offset 16. -/
def onM (a b : Nat) : State :=
  { on gM (qM a b) with
    tlb := [page 0x10000 0x20000 true, page 0x11000 0x21000 false]
    mem := (⟨[]⟩ : Memory).writeBytes (vaultHome 0 16) [1, 2, 3, 0x84, 5, 6, 7, 0x88, 9, 10, 11, 12, 13, 14, 15, 16] }
/-- Byte n of scratch, as an address. -/
abbrev scr (n : Nat) : Nat := scrBase + n
/-- The last bytes of the team's 4 KiB of scratch. -/
abbrev last (n : Nat) : Nat := scr (4096 - n)
abbrev wl (sz : BitVec 11) : FA := ⟨cm .vec 8, .vec 2, sz, 0⟩
abbrev wu (sz : BitVec 11) : FA := ⟨cm .uni 8, .uni 2, sz, 0⟩
abbrev gUni : Gang := { gM with lanes := 2 }

/-- Accesses that are all to vaults, by test. -/
theorem all_vault {xs : List Acc} (h : (xs.all fun x => match x.spot with | .vault _ _ => true | _ => false) = true) : AllVault xs := by
  intro x hx
  have := List.all_eq_true.mp h x hx
  revert this
  cases x.spot <;> simp

theorem ready_ld_scratch : Ready (onM (scr 16) (last 4)) gM (qM (scr 16) (last 4)) (ldDesc (wl 4)) := by unfold Ready Settled; decide +kernel
theorem ready_ld_wide : Ready (onM (scr 16) (last 16)) gM (qM (scr 16) (last 16)) (ldDesc (wl 6)) := by unfold Ready Settled; decide +kernel
theorem ready_ld_byte : Ready (onM (scr 0) (last 1)) gM (qM (scr 0) (last 1)) (ldDesc (wl 1)) := by unfold Ready Settled; decide +kernel
theorem ready_ld_uni : Ready (onM 0 (scr 16)) gM (qM 0 (scr 16)) (ldDesc (wu 4)) := by unfold Ready Settled; decide +kernel
theorem ready_ld_page : Ready (onM 0x10000 0x11FFC) gM (qM 0x10000 0x11FFC) (ldDesc (wl 4)) := by unfold Ready Settled; decide +kernel

/-- Loads: vault and slice, vector and uniform, one byte to 16. -/
theorem witness_loads :
  (onM (scr 16) (last 4)).here? = some (gM, qM (scr 16) (last 4)) ∧ (qM (scr 16) (last 4)).lanes.length = 32 ∧
  (ldDesc (wl 4)).ok (qM 0 0) = true ∧ (ldDesc (wl 6)).ok (qM 0 0) = true ∧ (ldDesc (wu 4)).ok (qM 0 0) = true ∧
  roleFault (qM 0 0) .mem = false ∧
  (∀ x ∈ accsOf (onM (scr 16) (last 4)) gM (qM (scr 16) (last 4)) (ldDesc (wl 4)), gM.runAhead x = none) ∧
  (onM (scr 16) (last 4)).errs = [] ∧
  AllVault (accsOf (onM (scr 16) (last 4)) gM (qM (scr 16) (last 4)) (ldDesc (wl 4))) :=
  ⟨rfl, rfl, rfl, rfl, rfl, rfl, by decide +kernel, rfl, all_vault (by decide +kernel)⟩

theorem ready_st : Ready (onM (scr 16) (last 4)) gM (qM (scr 16) (last 4)) (stDesc (wl 4)) := by unfold Ready Settled; decide +kernel
theorem ready_st_wide : Ready (onM 0x10000 0x10FF0) gM (qM 0x10000 0x10FF0) (stDesc (wl 6)) := by unfold Ready Settled; decide +kernel
theorem ready_st_uni : Ready (onM 0 (scr 16)) gM (qM 0 (scr 16)) (stDesc (wu 4)) := by unfold Ready Settled; decide +kernel

/-- Stores: with the buffers empty, and STL with its release satisfied and with a FENCE rel before it. -/
theorem witness_stores :
  (stDesc (wl 4)).ok (qM 0 0) = true ∧ (stDesc (wl 6)).ok (qM 0 0) = true ∧ (stDesc (wu 4)).ok (qM 0 0) = true ∧
  (let s := onM (scr 16) (last 4); let q := qM (scr 16) (last 4)
   s.buffersOk q (storePostings s q 3 (stDesc (wl 4)) 1 false 0 (accsOf s gM q (stDesc (wl 4)))) = true ∧
   s.remoteOk q (storePostings s q 3 (stDesc (wl 4)) 1 false 0 (accsOf s gM q (stDesc (wl 4)))) = true ∧
   q.cnt.rm + (storePostings s q 3 (stDesc (wl 4)) 1 true 0 (accsOf s gM q (stDesc (wl 4)))).length ≤ 65535 ∧
   s.fenceReady q (heldLanes (wl 4).c gM q) 1 (faScope (wl 4).mod) = true) ∧
  (let s := onM 0x10000 0x10FF0; let q := qM 0x10000 0x10FF0
   s.buffersOk q (storePostings s q 3 (stDesc (wl 6)) 4 false 0 (accsOf s gM q (stDesc (wl 6)))) = true ∧
   s.remoteOk q (storePostings s q 3 (stDesc (wl 6)) 4 true 0 (accsOf s gM q (stDesc (wl 6)))) = true ∧
   q.cnt.rm + (storePostings s q 3 (stDesc (wl 6)) 4 true 0 (accsOf s gM q (stDesc (wl 6)))).length ≤ 65535) := by decide +kernel

/-- An ATOM add of n32, a CAS of n32 and a RED or of n32. -/
abbrev wAtom : FM := ⟨cm .vec 8, .vec 2, .vec 4, 0x010⟩
abbrev wAtomU : FM := ⟨cm .uni 8, .uni 2, .uni 4, 0x010⟩
abbrev wCas : FM := ⟨cm .vec 8, .vec 2, .vec 4, 0⟩
abbrev wCas64 : FM := ⟨cm .vec 8, .vec 2, .vec 4, 0x040⟩
abbrev wRed : FM := ⟨c0, .vec 2, .vec 4, 0x014⟩
theorem ready_atom : Ready (onM (scr 16) (scr 16)) gM (qM (scr 16) (scr 16)) (atomDesc wAtom) := by unfold Ready Settled; decide +kernel
theorem ready_atom_uni : Ready (onM 0 (last 4)) gM (qM 0 (last 4)) (atomDesc wAtomU) := by unfold Ready Settled; decide +kernel
theorem ready_cas : Ready (onM 0x10000 0x10FFC) gM (qM 0x10000 0x10FFC) (casDesc wCas) := by unfold Ready Settled; decide +kernel
theorem ready_cas64 : Ready (onM (scr 16) (last 8)) gM (qM (scr 16) (last 8)) (casDesc wCas64) := by unfold Ready Settled; decide +kernel
theorem ready_red : Ready (onM (scr 16) (last 4)) gM (qM (scr 16) (last 4)) (redDesc wRed) := by unfold Ready Settled; decide +kernel

/-- AtomicsAndCompareSwap and Reductions: in vaults and in slices, with no release and with one that is satisfied. -/
theorem witness_atomics :
  (atomDesc wAtom).ok (qM 0 0) = true ∧ (atomDesc wAtomU).ok (qM 0 0) = true ∧ (casDesc wCas).ok (qM 0 0) = true ∧
  (casDesc wCas64).ok (qM 0 0) = true ∧ (redDesc wRed).ok (qM 0 0) = true ∧ wAtom.mod.getLsbD 11 = false ∧
  (onM (scr 16) (scr 16)).fenceReady (qM 0 0) 3 1 0 = true ∧ (onM (scr 16) (scr 16)).ents = [] ∧ (onM (scr 16) (scr 16)).errs = [] ∧
  (∀ x ∈ accsOf (onM 0x10000 0x10FFC) gM (qM 0x10000 0x10FFC) (casDesc wCas), x.spot = .page (page 0x10000 0x20000 true) (0x20000 + (x.va - 0x10000))) ∧
  (let s := onM (scr 16) (last 4); let q := qM (scr 16) (last 4); let n := (accsOf s gM q (redDesc wRed)).length
   s.storeBufOcc q.core + n ≤ 64 ∧ n ≤ 32 ∧ s.remoteOcc q.core + n ≤ 128 ∧ q.cnt.rm + n ≤ 65535) := by decide +kernel
theorem witness_atomics_vault : AllVault (accsOf (onM (scr 16) (scr 16)) gM (qM (scr 16) (scr 16)) (atomDesc wAtom)) :=
  all_vault (by decide +kernel)

/-- With nothing posted no vault write buffer holds anything. -/
theorem vaultBufs_empty {s : State} (h : s.ents = []) (c v : Nat) : s.vaultBufOcc c v = 0 := by simp [State.vaultBufOcc, h, groupCount]

/-- Loads: a line of the read-only page that the second lane reads, and data that has run ahead for the first. -/
theorem witness_cachedLoad :
  let g : Gang := { gM with ra := [(0x1000, 1, 0, 0x10000, [1, 2, 3, 4])] }
  let q := qM 0x10000 0x11FFC
  let s : State := { onM 0x10000 0x11FFC with gangs := [g], lines := [{ core := 0, pa := 0x21F80, asc := ascKey 0 0, va := 0x11F80, bytes := List.replicate 128 7 }] }
  s.here? = some (g, q) ∧ (g.header.classAt g.pos == some .mem) = true ∧ s.portBusy g q = false ∧ (accsOf s g q (ldDesc (wl 4))).map (fun x => g.runAhead x) = [some 0x04030201, none] ∧
  (s.lines.any fun y => y.core == q.core && y.asc == ascKey (s.spaceOf q.launch).1.id (s.spaceOf q.launch).2.id && y.va == 0x11FFC / 128 * 128 &&
    y.pa == 0x21FFC / 128 * 128) = true ∧ hintOf (wl 4).mod ≠ 2 ∧ hintOf (wl 0x14).mod = 2 := by decide +kernel

/-- No gang or squad waits for a change of a word. -/
theorem witness_unwatched : Unwatched (onM (scr 16) (scr 16)) := by unfold Unwatched; decide +kernel
/-- Its loads and atomics of the scratch meet no double-bit error, for there is none. -/
theorem no_ecc {s : State} (h : s.errs = []) (a n : Nat) : s.eccDouble a n = none := by simp [State.eccDouble, h]

/-- A write of the squad's first thread that has not reached home. -/
def entM : Ent := { id := 50, grp := 50, core := 0, squad := 5, launch := 7, lane := 0, home := 0x20000, post := .store [1, 2], who := 1 }
/-- FencesAndAddresses: a fence that is satisfied and one that is not, a PREF, and each CVTA. -/
theorem witness_fences :
  guardFieldOk (qM 0 0) c0 = true ∧ heldLanes c0 gM (qM 0 0) ≠ 0 ∧ gM.fenced = false ∧ (onM 0 0).portBusy gM (qM 0 0) = false ∧ (onM 0 0).fenceReady (qM 0 0) 3 2 4 = true ∧
  { onM 0 0 with ents := [entM] }.fenceReady (qM 0 0) 3 1 4 = false ∧
  { onM 0 0 with ents := [entM] }.fenceReady (qM 0 0) 3 1 1 = true ∧ wideScope false 4 = true ∧ wideScope false 1 = false ∧
  (∃ n ∈ { onM 0 0 with ents := [entM] }.cumulative (qM 0 0) 0, entM.id = n) ∧ entM.athome = false ∧ entM.core = (qM 0 0).core ∧
  (guardFieldOk (qM 0 0) c0 && srcOk (qM 0 0) false .base (.vec 2)) = true ∧
  operandsOk (qM 0 0) (cm .vec 14) [(.r32, .vec 4)] 2 true false = true ∧ operandsOk (qM 0 0) (cm .uni 30) [(.r64, .uni 2)] 2 true false = true ∧
  operandsOk (qM 0 0) (cm .vec 15) [(.r64, .vec 2)] 1 true false = true := by decide +kernel

/-- MisalignedAccessTraps: lane 1 misaligned by one byte, and lane 0 not. -/
theorem witness_misaligned :
  let s := onM (scr 16) (scr 17); let q := qM (scr 16) (scr 17)
  s.here? = some (gM, q) ∧ s.portBusy gM q = false ∧ (ldDesc (wl 4)).ok q = true ∧ (stDesc (wl 4)).ok q = true ∧
  ((lanesOf (heldLanes (wl 4).c gM q)).filter fun l => faAddr (wl 4) q l % 4 != 0) = [1] ∧
  (∀ x ∈ accsOf s gM q (ldDesc (wl 4)), x.spot.home? ≠ none ∧ ∀ f ∈ accFaults (ldDesc (wl 4)) x, f.1 = 0x13) ∧
  (∀ x ∈ accsOf s gM q (stDesc (wl 4)), x.spot.home? ≠ none ∧ ∀ f ∈ accFaults (stDesc (wl 4)) x, f.1 = 0x13) ∧
  (∀ y ∈ lookAhead s gM q (ldDesc (wl 4)), y.2.2.spot ≠ .miss) ∧ ∀ y ∈ lookAhead s gM q (stDesc (wl 4)), y.2.2.spot ≠ .miss := by
  decide +kernel

/-- A gang whose walk found no page at 0x15000. -/
def gA : Gang := { gM with wfault := [(0x15, 1, 3)] }
/-- AbsentPageParks: two lanes on a page that is not present. -/
theorem witness_absent :
  let q := qM 0x15000 0x15FFC; let s := on gA q
  s.here? = some (gA, q) ∧ roleFault q .mem = false ∧ q.roam = false ∧ q.lanes.length = 32 ∧ (ldDesc (wl 4)).ok q = true ∧
  s.portBusy gA q = false ∧ accsOf s gA q (ldDesc (wl 4)) ≠ [] ∧
  (∀ x ∈ accsOf s gA q (ldDesc (wl 4)), x.absent = true ∧ accFaults (ldDesc (wl 4)) x = []) ∧ lookAhead s gA q (ldDesc (wl 4)) = [] := by
  decide +kernel

/-! ### SYNC and MIG: states that the statements admit -/

/-- The home of a synchronization word, and of a ring, in the scratch of the team. -/
abbrev hw : Nat := vaultHome 0 256
abbrev hr : Nat := vaultHome 0 512
/-- A squad with scratch address a in s2 and the value b in s4, one copy outstanding. -/
def qS (a b : Nat) : Squad := { sq [] (pr 2 (scr a) ++ pr 4 b) with cnt := { cp := 3 } }
/-- The state of a gang of it: the word at 256 has target 10, count 4 and generation 3, and the ring at 512 has 4 slots, slots 0 and 2 filled. -/
def onS (g : Gang) (q : Squad) : State :=
  { on g q with launches := [launchT]
                mem := ((⟨[]⟩ : Memory).writeN hw 16 (swPut 0 10 4 false false false 3)).writeBytes hr ([4, 0, 2, 0] ++ List.replicate 60 0 ++ [5]) }
abbrev gS : Gang := g2 .sync

/-- SyncUpdatesPerformed, evaluate and add: a word below its target, at it, and the greatest count. -/
theorem witness_syncWord :
  swPut 0 10 9 false false false 0 < 2 ^ 128 ∧ swCount (swPut 0 10 9 false false false 0) < swTarget (swPut 0 10 9 false false false 0) ∧
  swPut 0 10 10 false false false 0 < 2 ^ 128 ∧ swTarget (swPut 0 10 10 false false false 0) = 10 ∧ swCount (swPut 0 10 10 false false false 0) = 10 ∧
  swTarget (swPut 0 0 (2 ^ 40 - 1) true true true (2 ^ 32 - 1)) = 0 ∧ swCount (swPut 0 0 (2 ^ 40 - 1) true true true (2 ^ 32 - 1)) = 2 ^ 40 - 1 := by
  decide +kernel

/-- SyncUpdatesSent: a word and a ring; a target of an immediate and of a register. -/
theorem witness_updatesSent :
  (onS gS (qS 256 9)).here? = some (gS, qS 256 9) ∧ syncObj (onS gS (qS 256 9)) (qS 256 9) (scr 256) 16 16 = .ok hw ∧
  syncObj (onS gS (qS 512 9)) (qS 512 9) (scr 512) 256 256 = .ok hr ∧
  (guardFieldOk (qS 256 9) c0 && srcOk (qS 256 9) true .uni64 (.uni 2) && targetOk (qS 256 9) (.uni 4)) = true ∧
  (guardFieldOk (qS 256 9) c0 && srcOk (qS 256 9) true .uni64 (.uni 2) && targetOk (qS 256 9) (.imm 255)) = true ∧
  (guardFieldOk (qS 256 9) c0 && srcOk (qS 256 9) true .uni64 (.uni 2)) = true ∧ heldLanes c0 gS (qS 256 9) ≠ 0 ∧
  (onS gS (qS 256 9)).fenceReady (qS 256 9) 3 1 4 = true ∧
  (guardFieldOk (qS 512 1023) c0 && srcOk (qS 512 1023) true .uni64 (.uni 2) && srcOk (qS 512 1023) true .r32 (.uni 4)) = true :=
  ⟨rfl, rfl, rfl, rfl, rfl, rfl, by decide, rfl, rfl⟩

/-- An update of the word or the ring on its way, held or not. -/
def updS (k : UpdKind) (home off : Nat) (held : Option FaultRec) : Upd :=
  { id := 61, kind := k, home := home, va := BitVec.ofNat 64 (scr off), team := 3, core := 0, launch := 7, held := held, retry := held.isSome }
/-- The state of one update. -/
def onU (u : Upd) : State := { onS gS (qS 256 9) with upds := [u] }
def updAdd : Upd := updS (.add 6) hw 256 none
def updHeld : Upd := updS (.add 5) hw 256 (some { code := 0x10 })
def updFlip : Upd := updS (.flip 5) hr 512 none
/-- SyncUpdatesPerformed: an update, a held one, and a phase bit. -/
theorem noEccPieces {s : State} (h : s.errs = []) (xs : List (Nat × Nat)) : s.eccPieces xs = none := by
  induction xs <;> simp_all [State.eccPieces, State.eccDouble]
theorem witness_updatesPerformed :
  ((onU updAdd).upds.find? (fun x => x.id == 61) = some updAdd ∧ (onU updAdd).olderUpd updAdd = false ∧ (onU updAdd).updHome updAdd = .ok (some hw) ∧
    (onU updAdd).ents = [] ∧ (onU updAdd).errs = [] ∧ (onU updAdd).watched = [] ∧ updAdd.held = none) ∧
  ((onU updHeld).upds.find? (fun x => x.id == 61) = some updHeld ∧ (onU updHeld).olderUpd updHeld = false ∧
    (onU updHeld).updHome updHeld = .ok (some hw) ∧ updHeld.held ≠ none ∧ updHeld.retry = true) ∧
  (onU updFlip).olderUpd updFlip = false ∧ (onU updFlip).updHome updFlip = .ok (some hr) :=
  ⟨⟨rfl, rfl, rfl, rfl, rfl, rfl, rfl⟩, ⟨rfl, rfl, rfl, by decide, rfl⟩, rfl, rfl⟩

/-- Updates of the other kinds, with the least and the greatest of their values. -/
def updKinds : List UpdKind :=
  [.init (2 ^ 40 - 1) true true, .arm 0 true, .arrive 5 7, .armTasks 1, .write [1], .add 0]
theorem witness_updateKinds : updKinds.all (fun k => let u := updS k hw 256 none; (onU u).upds.find? (fun x => x.id == 61) == some u &&
    !(onU u).olderUpd u && (match (onU u).updHome u with | .ok (some h) => h == hw | _ => false)) = true := by decide +kernel

/-- A gang that waits at the word of its clause. -/
def waiting (e : Eng) (word : Word) (w : Wait) : Gang := { gn e 3 with wait := w, words := [word] }
def gW1 : Gang := waiting .sync 0x03F8040000000000 (.sync hw (BitVec.ofNat 64 (scr 256)) 3 (some 4))
def gW2 : Gang := waiting .sync 0x05F8040000000000 (.ring hr (BitVec.ofNat 64 (scr 512)) 3 true 3 true)
/-- SyncWaits: the generation 3 of the word against 2 and 3; slot 0 in phase 1 against phases 1 and 0; the last slot of a ring of 4. -/
theorem witness_syncWaits :
  (onS gS (qS 256 2)).here? = some (gS, qS 256 2) ∧ guardFieldOk (qS 256 2) (cm .vec 15) = true ∧
  (srcOk (qS 256 2) true .uni64 (.uni 2) && srcOk (qS 256 2) true .r32 (.uni 4)) = true ∧ heldLanes (cm .vec 15) gS (qS 256 2) ≠ 0 ∧
  (∀ k ∈ lanesOf (heldLanes (cm .vec 15) gS (qS 256 2)), (onS gS (qS 256 2)).writePending (qS 256 2) k hw 16 = false) ∧
  (∀ k ∈ lanesOf (heldLanes (cm .vec 15) gS (qS 512 0)), (onS gS (qS 512 0)).writePending (qS 512 0) k hr 256 = false) ∧
  (onS gS (qS 256 2)).ents = [] ∧ dstOk (qS 256 2) (cm .vec 15) 1 true false = true ∧ dstOk (qS 512 2) (cm .uni 30) 2 true false = true ∧
  swEvaluate ((onS gS (qS 256 2)).mem.readN hw 16) = (onS gS (qS 256 2)).mem.readN hw 16 ∧
  swGen ((onS gS (qS 256 2)).mem.readN hw 16) = 3 ∧ (val32 (qS 256 2) 0 (.uni 4)).toNat = 2 ∧ (val32 (qS 256 3) 0 (.uni 4)).toNat = 3 ∧
  ringSlots ((onS gS (qS 512 0)).mem.readN hr 2) = 4 ∧ ringPhase (onS gS (qS 512 0)).mem hr 0 = true ∧
  (val32 (qS 512 (65536 + 1020)) 0 (.uni 4)).getLsbD 16 = true ∧ (val32 (qS 512 0) 0 (.uni 4)).getLsbD 16 = false ∧
  ringPhase (onS gS (qS 512 0)).mem hr 3 = false ∧
  (onS gW1 (qS 256 2)).here? = some (gW1, qS 256 2) ∧ gW1.wait = .sync hw (BitVec.ofNat 64 (scr 256)) 3 (some 4) ∧
  (onS gW2 (qS 256 2)).here? = some (gW2, qS 256 2) ∧ gW2.wait = .ring hr (BitVec.ofNat 64 (scr 512)) 3 true 3 true := by decide +kernel

/-- The arrivals of lanes 0 and 1 at barrier b, of n threads. -/
def arrS (b n : Nat) : BarArr :=
  { id := 60, team := 3, b := b, gang := 9, squad := 5, lanes := 3, n := n, waits := true, core := 0, pc := 0x1000, pos := 1, hdr := 0, word := 0 }
/-- The team with barrier 15 open, for 5 threads of which 2 have arrived. -/
def teamB : Team := { team0 with bars := List.replicate 15 {} ++ [{ expect := some 5, arrived := 2, isOpen := true, round := 6 }] }
def teamB4 : Team := { team0 with bars := List.replicate 15 {} ++ [{ expect := some 4, arrived := 2, isOpen := true, round := 6 }] }
def gW3 : Gang := waiting .sync 0 (.barrier 2 [] false)
/-- NamedBarriers: barrier 15 of 6144 threads and barrier 0; a round that stays open, one that closes, a new one; a release. -/
theorem witness_barriers :
  (barOk (qS 0 0) (.imm 15) (.uni 4) = true ∧ heldLanes c0 gS (qS 0 6144) ≠ 0 ∧ (val32 (qS 0 6144) 0 (.imm 15)).toNat = 15 ∧
    (val32 (qS 0 6144) 0 (.uni 4)).toNat = 6144 ∧ (onS gS (qS 0 6144)).fenceReady (qS 0 6144) 3 1 2 = true) ∧
  (let s : State := { onS gS (qS 0 0) with arrs := [arrS 15 5], teams := [teamB] }
   s.arrs.find? (fun x => x.id == 60) = some (arrS 15 5) ∧ s.team? 3 = some teamB ∧ (teamB.bar 15).expect = some 5 ∧
   (teamB.bar 15).arrived + (lanesOf (arrS 15 5).lanes).length < 5) ∧
  (let s : State := { onS gS (qS 0 0) with arrs := [arrS 15 4], teams := [teamB4] }
   s.team? 3 = some teamB4 ∧ (teamB4.bar 15).expect = some 4 ∧ (teamB4.bar 15).arrived + (lanesOf (arrS 15 4).lanes).length = 4) ∧
  (teamB.bar 0).isOpen = false ∧ (lanesOf (arrS 0 2).lanes).length = 2 ∧ (arrS 0 2).lanes ≠ 0 ∧
  (let s : State := { onS (waiting .sync 0 (.barrier 0 [] true)) (qS 0 0) with arrs := [arrS 0 0] }
   s.arrs.find? (fun x => x.id == 60) = some (arrS 0 0) ∧ s.team? 3 = some team0 ∧ s.teamLive 3 = 32 ∧ (team0.bar 0).isOpen = false ∧
   (arrS 0 0).waits = true ∧ ∃ g ∈ s.gangs, g.id = (arrS 0 0).gang ∧ g.wait = .barrier 0 [] true) ∧
  (let s : State := { onS gS (qS 0 0) with arrs := [arrS 0 1] }
   s.arrs.find? (fun x => x.id == 60) = some (arrS 0 1) ∧ (lanesOf (arrS 0 1).lanes).length % 1 = 0) ∧
  (onS gW3 (qS 0 0)).here? = some (gW3, qS 0 0) ∧ gW3.wait = .barrier 2 [] false := by decide +kernel

/-- An operation of the matrix engine that has been performed with flags. -/
def opW : EngOp := { id := 80, cls := .mx, squad := 5, core := 0, i := .acz ⟨c0, .vec 0, .vec 0, 0⟩, launch := 7, team := 3, done := true, flags := 9 }
theorem witness_flagsGathered :
  let s : State := { onS gS (qS 0 0) with ops := [opW] }
  s.here? = some (gS, qS 0 0) ∧ s.ops.find? (fun o => o.squad == (qS 0 0).id && o.cls == .mx) = some opW ∧ opW.done = true ∧ opW.upds = 0 ∧ opW.fault = none ∧
  s.squad? (qS 0 0).id = some (qS 0 0) ∧ ({ qS 0 0 with mxFlags := 9 } : Squad).mxFlags ≠ 0 ∧ ({ qS 0 0 with mxFlags := 9 } : Squad).cnt.get .mx ≤ (0 : W32).toNat := by
  decide +kernel

def gW4 : Gang := waiting .sync 0 (.counter .cp 3)
/-- The same squad with the fault of a retired copy held. -/
def qF : Squad := { qS 0 0 with held := [(.cp, { code := 0x28 })] }
/-- CounterWaits: 3 outstanding against 3 and 2; a wait that ends, and one that ends with a fault; a roaming thread. -/
theorem witness_counterWaits :
  (onS gS (qS 0 0)).here? = some (gS, qS 0 0) ∧ (guardFieldOk (qS 0 0) c0 && srcOk (qS 0 0) true .r32 (.imm 3)) = true ∧
  heldLanes c0 gS (qS 0 0) ≠ 0 ∧ classOf 0 = .cp ∧ (qS 0 0).cnt.get .cp = 3 ∧ (val32 (qS 0 0) 0 (.imm 3)).toNat = 3 ∧
  (val32 (qS 0 0) 0 (.imm 2)).toNat < 3 ∧ (qS 0 0).held = [] ∧ (qS 0 0).mxFlags = 0 ∧ (qS 0 0).rwFlags = 0 ∧ (qS 0 0).sgFlags = 0 ∧
  (guardFieldOk (qS 0 0) (cm .vec 15) && destNamed (cm .vec 15) && dstOk (qS 0 0) (cm .vec 15) 1 true false) = true ∧
  (onS gW4 (qS 0 0)).here? = some (gW4, qS 0 0) ∧ gW4.wait = .counter .cp 3 ∧ (qS 0 0).saving = none ∧
  (onS gW4 qF).here? = some (gW4, qF) ∧ qF.held.find? (fun h => h.1 == .cp) = some (.cp, { code := 0x28 }) ∧ (0x28 : Nat) ≠ cPermission ∧
  gW4.handler = false ∧ (onS gW4 qF).launch? qF.launch = some launchT ∧ launchT.r.trapv ≠ 0 ∧
  (onS gS { qS 0 0 with roam := true }).here? = some (gS, { qS 0 0 with roam := true }) := by decide +kernel

/-- The launch of roaming threads, of which all but one live. -/
def launchR : Launch := { launch0 with r := { rec0 with roam := true, extents := [8] }, live := 7 }
/-- A roaming squad. -/
def qG (a b : Nat) : Squad := { qM a b with roam := true }
/-- Its gang at the first word of a MIG clause. -/
def gG : Gang := { gM with hdr := BitVec.ofNat 64 (Eng.mig.code * 2 ^ 60) }
/-- Its state: the pages of onM, and one of the slices of core 1. -/
def onG (g : Gang) (q : Squad) : State :=
  { on g q with launches := [launchR], tlb := [page 0x10000 0x20000 true, page 0x11000 0x21000 false, page 0x14000 (2 ^ 31 + 0x20000) true] }
abbrev wMigr : FA := ⟨c0, .vec 2, 0, 0⟩

/-- MigrationAndPin: a resident thread; lanes at home; lanes whose home is elsewhere. -/
theorem witness_migration :
  (onG gG (qG 0x10000 0x10FFF)).here? = some (gG, qG 0x10000 0x10FFF) ∧ roleFault (qG 0 0) .mig = false ∧ (qG 0 0).roam = true ∧
  (onG gG (qM 0 0)).here? = some (gG, qM 0 0) ∧ roleFault (qM 0 0) .mig = false ∧ (qM 0 0).roam = false ∧
  (qG 0 0).lanes.length = 32 ∧ guardFieldOk (qG 0 0) cp0 = true ∧ (migrDesc wMigr).ok (qG 0 0) = true ∧ gG.pos = 1 ∧
  (let q := qG 0x14000 0x14FFF; let s := onG gG q
   accsOf s gG q (migrDesc wMigr) ≠ [] ∧ ∀ x ∈ accsOf s gG q (migrDesc wMigr), x.spot.home? ≠ none ∧ migrGoes gG q x ≠ none) := by
  decide +kernel
theorem settled_migr :
  Settled (onG gG (qG 0x10000 0x10FFF)) gG (qG 0x10000 0x10FFF) (migrDesc wMigr) migrGoes := by unfold Settled; decide +kernel

/-- RemoteAtomic: from a roaming thread, at another core. -/
theorem settled_ratom :
  Settled (onG gG (qG 0x14000 0x14FFC)) gG (qG 0x14000 0x14FFC) (atomDesc wAtom) (fun _ _ _ => none) := by unfold Settled; decide +kernel
theorem witness_remoteAtomic :
  let q := qG 0x14000 0x14FFC; let s := onG gG q
  s.here? = some (gG, q) ∧ q.lanes.length = 32 ∧ roleFault q .mig = false ∧ s.errs = [] ∧ (atomDesc wAtom).ok q = true ∧ s.portBusy gG q = false ∧
  wAtom.mod.getLsbD 11 = false ∧
  ∀ x ∈ accsOf s gG q (atomDesc wAtom), x.spot = .page (page 0x14000 (2 ^ 31 + 0x20000) true) (2 ^ 31 + 0x20000 + (x.va - 0x14000)) := by
  decide +kernel

/-- And from a resident one, in its scratchpad. -/
def sV : State := { onM (scr 16) (scr 16) with gangs := [gG] }
theorem settled_ratom_vault : Settled sV gG (qM (scr 16) (scr 16)) (atomDesc wAtom) (fun _ _ _ => none) := by unfold Settled; decide +kernel
theorem witness_ratom_vault : AllVault (accsOf sV gG (qM (scr 16) (scr 16)) (atomDesc wAtom)) ∧ Unwatched sV ∧
    sV.here? = some (gG, qM (scr 16) (scr 16)) ∧ sV.ents = [] ∧ sV.errs = [] :=
  ⟨all_vault (by decide +kernel), by unfold Unwatched; decide +kernel, rfl, rfl, rfl⟩

/-- HomesAndSpawn: addresses whose pages are translated, a core number, and clauses to start at. -/
theorem witness_homes :
  (let q := qG 0x10000 0x14FFF; let s := onG gG q
   s.here? = some (gG, q) ∧ (destNamed (cm .vec 15) && operandsOk q (cm .vec 15) [(.r64, .vec 2)] 1 true false) = true ∧
   ∀ l ∈ lanesOf (heldLanes (cm .vec 15) gG q), apertureOf (val64 q l (.vec 2)).toNat = .global → pageSpot s gG q (val64 q l (.vec 2)).toNat ≠ .miss) ∧
  (destNamed (cm .vec 15) && operandsOk (qG 0 0) (cm .vec 15) [(.r32, .imm 255)] 1 true false) = true ∧
  (let q := qG 0x10000 0x14FF8
   (onG gG q).launch? q.launch = some launchR ∧ (operandsOk q (cm .vec 8) [(.r64, .vec 2), (.r64, .vec 6)] 1 true false) = true ∧
   ∀ l ∈ lanesOf (heldLanes (cm .vec 8) gG q), (val64 q l (.vec 2)).toNat % 8 = 0 ∧ apertureOf (val64 q l (.vec 2)).toNat = .global) := by
  decide +kernel

/-! ### Engines: states that the statements admit -/

/-- A whole squad with scratch address a in s2, b in s4, descriptors in d0 to d2 and room in its registers. -/
def qE (a b : Nat) : Squad :=
  { sq [] (pr 2 a ++ pr 4 b ++ [(8, 1), (9, 2), (10, 3), (11, 4)]) with
    lanes := List.replicate 32 { st := .run, p := 3, v := [(2, 7)] }, td := [(0, 0x123456789), (1, 0x77777), (2, 5)], vregs := 64, budget := 55 }
/-- n operations of another squad in the queues of class c. -/
def ops (n : Nat) (c : CounterClass) : List EngOp := (List.range n).map fun k => { id := k + 1, squad := 6, core := 0, cls := c, i := .nop ⟨c0, .vec 0, .vec 0, 0⟩ }
/-- The state of a whole gang of class e, with a queue full or with one place. -/
def onE (e : Eng) (os : List EngOp) : State := { on (gAll e) (qE (scr 256) 3) with ops := os, mem := (⟨[]⟩ : Memory).writeN hw 16 (swPut 0 10 4 false false false 3) }
abbrev qe : Squad := qE (scr 256) 3

/-- CopyRowAndSignatureIssue: each queue with its last place free, and full. -/
theorem witness_copyIssue :
  (onE .copy []).here? = some (gAll .copy, qe) ∧ qe.roam = false ∧ (guardFieldOk qe c0 && srcOk qe true .uni64 (.uni 2)) = true ∧
  roleFault qe .copy = false ∧ roleFault qe .row = false ∧ roleFault qe .sig = false ∧ heldLanes c0 (gAll .copy) qe ≠ 0 ∧
  qe.cnt.cp < 65535 ∧ qe.cnt.rw < 65535 ∧ qe.cnt.sg < 65535 ∧ copySbOk qe (.uni 4) = true ∧ copySbOk qe (.imm 0) = true ∧
  missingLanes (gAll .row) qe = 0 ∧
  (onE .copy (ops 63 .cp)).queueOcc 0 .cp 0 = 63 ∧ (onE .copy (ops 64 .cp)).queueOcc 0 .cp 0 = 64 ∧
  (onE .row (ops 31 .rw)).queueOcc 0 .rw 0 = 31 ∧ (onE .row (ops 32 .rw)).queueOcc 0 .rw 0 = 32 ∧
  (onE .sig (ops 31 .sg)).queueOcc 0 .sg 0 = 31 ∧ (onE .sig (ops 32 .sg)).queueOcc 0 .sg 0 = 32 := by decide +kernel
/-- RSTAT into the last pair of the context, from one too. -/
theorem witness_rstatIssue :
  ((cm .vec 62).dk == .vec && dstOk qe (cm .vec 62) 2 false false && decide (mtxAcc ⟨cm .vec 62, .vec 62, .vec 0, 0x060⟩ < qe.accs) &&
    (rstatOp 0x060 != 3 || match (Src.vec 62) with | .vec n => runOk n.toNat 2 (vecLimit qe) | _ => false)) = true ∧
  ((cm .vec 0).dk == .vec && dstOk qe (cm .vec 0) 2 false false && decide (mtxAcc ⟨cm .vec 0, .vec 0, .vec 0, 1⟩ < qe.accs) &&
    (rstatOp 1 != 3 || match (Src.vec 0) with | .vec n => runOk n.toNat 2 (vecLimit qe) | _ => false)) = true ∧
  (∀ o ∈ (onE .row (ops 31 .rw)).ops, o.id < (onE .row (ops 31 .rw)).nextId) := by decide +kernel

abbrev wMtx : FM := ⟨c0, .vec 3, .vec 2, 0xE43⟩
/-- MatrixIssue: the last descriptors and accumulator of the squad; OPMAP both ways; a gang that is not whole. -/
theorem witness_matrixIssue :
  (onE .mtx []).here? = some (gAll .mtx, qe) ∧ roleFault qe .mtx = false ∧ missingLanes (gAll .mtx) qe = 0 ∧ qe.cnt.mx < 65535 ∧
  (onE .mtx (ops 31 .mx)).queueOcc 0 .mx (engineOf 0) = 31 ∧ mtxAcc { wMtx with mod := 0x021 } < qe.accs ∧ mtxAcc { wMtx with mod := 0 } < qe.accs ∧
  srcOk qe false .tile (.vec 3) = true ∧ srcOk qe false .tile (.vec 2) = true ∧ mtxAux { wMtx with mod := 0 } < qe.tiles ∧
  (((cm .vec 62).dk == .vec || (cm .vec 62).dk == .none) && dstOk qe (cm .vec 62) 2 false false &&
    match (Src.uni 31) with | .uni n => runOk n.toNat 1 (uniLimit qe) | .imm _ => true | _ => false) = true ∧
  runOk 28 4 (uniLimit qe) = true ∧ missingLanes (g2 .mtx) qe ≠ 0 ∧ (on (g2 .mtx) qe).here? = some (g2 .mtx, qe) := by decide +kernel

/-- Groups of products: finite ones whose sum is not zero, is zero with every product −0, and is zero otherwise; a NaN, an infinity times zero, opposite
infinities, and infinities of one sign. -/
theorem witness_groupSum :
  (codeValue .f16 0x3C00 * codeValue .f16 0x3C00 + codeValue .f16 0x4000 * codeValue .f16 0x3C00 ≠ 0) ∧
  FiniteCode .f16 0x3C00 ∧ FiniteCode .e4m3 0x7E ∧ FiniteCode .bf16 0 ∧ (codeNeg .f16 0x8000 != codeNeg .f16 0) = true ∧ codeValue .f16 0x8000 * codeValue .f16 0 = 0 ∧
  codeValue .f16 0x3C00 * codeValue .f16 0x3C00 + codeValue .f16 0xBC00 * codeValue .f16 0x3C00 = 0 ∧ nanCode .f16 0x7C01 = true ∧
  (Fmt.f16 ≠ .e4m3 ∧ 0x7C00 % signBit .f16 = maxFinite .f16 + 1 ∧ 0xFC00 % signBit .f16 = maxFinite .f16 + 1) ∧ 0x8000 % signBit .f16 = 0 ∧
  codeNeg .f16 0xFC00 = true ∧ codeNeg .f16 0x7C00 = false := by unfold FiniteCode; decide +kernel

/-- A team with 1 MiB of scratch, in which the tiles of A and B are zero, row lists stand at 0x10000 and metadata at 0x20000. -/
def teamM : Team := { team0 with scratch := 2 ^ 20 }
def onT (m : Memory) : State := { on (gAll .mtx) qe with teams := [teamM], mem := m }
/-- A descriptor of an element type and kind at a scratch offset. -/
def tdM (ty kind off : Nat) : TileDesc := BitVec.ofNat 128 (ty + 16 * kind + scr off)
def opT (x : TileDesc) : EngOp :=
  { id := 60, squad := 5, core := 0, cls := .mx, i := .mma wMtx, team := 3, launch := 7, td := [tdM 2 0 0, tdM 2 0 0x4000, x] }
def noRows : List Byte := List.replicate 128 0xFF
/-- Row list entries: only row 5 of the output is written, from row 0; of two members the first takes row 1. -/
def memG : Memory := ⟨(List.range 128).map fun k => (vaultHome 0 (0x10080 + k), if k = 0 then 5 else if k = 1 then 0 else 0xFF)⟩
/-- Lane code 4 for every group of the 64 rows. -/
def memS : Memory := ⟨(List.range 64).flatMap fun m => (List.range 16).map fun j => (vaultHome 0 (0x20000 + canonOff 1 m j), 0x44)⟩
def okRun {α β : Type} (r : Except α β) : Bool := match r with | .ok _ => true | .error _ => false
theorem of_okRun {α β : Type} {r : Except α β} (h : okRun r = true) : ∃ x, r = .ok x := by
  cases r with
  | ok x => exact ⟨x, rfl⟩
  | error e => cases h
theorem witness_matrixValues :
  okRun (mmagRun (onT memG) (opT (tdM 2 3 0x10000)) qe wMtx 0) = true ∧ okRun (mmadRun (onT ⟨[]⟩) (opT (tdM 2 3 0x10000)) qe wMtx 0) = true ∧
  okRun (tileRows (onT ⟨[]⟩) (opT 0) (opT 0).td[0]!.addr 2 64) = true ∧ okRun (tileRows (onT memG) (opT 0) (scr 0x4000) 2 64) = true ∧
  okRun (tileObj (onT memG) (opT 0) 6 false (scr 0x10000) 512) = true := by decide +kernel
/-- Every word of metadata reads as eight codes 4, without a walk of the kernel through the list. -/
theorem get_const {d : Byte} {v : Byte} {a : Nat} : ∀ {l : List (Nat × Byte)}, (∀ c ∈ l, c.2 = v) → (a, v) ∈ l → Assoc.get d l a = v
  | [], _, h => by simp at h
  | c :: l, hv, h => by
    by_cases e : c.1 = a
    · simp [Assoc.get, e, hv c]
    · have : (a, v) ∈ l := by
        rcases List.mem_cons.mp h with h | h
        · exact absurd (by rw [← h]) e
        · exact h
      have := get_const (d := d) (fun x hx => hv x (List.mem_cons_of_mem _ hx)) this
      simp_all [Assoc.get]
theorem readS (m j : Nat) (hm : m < 64) (hj : j < 4) : memS.readN (vaultHome 0 0x20000 + canonOff 1 m (j * 4)) 4 = 0x44444444 := by
  have h : ∀ k, k < 4 → memS.read (vaultHome 0 0x20000 + canonOff 1 m (j * 4) + k) = 0x44 := by
    intro k hk
    refine get_const (fun c hc => ?_) ?_
    · simp only [memS, List.mem_flatMap, List.mem_map] at hc
      obtain ⟨_, _, _, _, rfl⟩ := hc
      rfl
    · simp only [memS, List.mem_flatMap, List.mem_map, List.mem_range]
      refine ⟨m, hm, 4 * j + k, by omega, ?_⟩
      have h1 : (4 * j + k) / 128 = 0 := by omega
      have h2 : j * 4 / 128 = 0 := by omega
      have h3 : (4 * j + k) % 128 / 16 = 0 := by omega
      have h4 : j * 4 % 128 / 16 = 0 := by omega
      simp only [vaultHome, canonOff, h1, h2, h3, h4, Prod.mk.injEq, and_true]
      omega
  simp only [Memory.readN, Memory.readBytes, List.range, List.range.loop, List.map_cons, List.map_nil, h _ (by decide : 0 < 4), h _ (by decide : 1 < 4),
    h _ (by decide : 2 < 4), h _ (by decide : 3 < 4)]
  rfl
def pcs (off : Nat) : List (Nat × Nat) := [(vaultHome 0 off, 4096), (vaultHome 0 (off + 4096), 4096)]
theorem objM (off : Nat) (h : off ∈ [0, 0x4000, 0x6000, 0x20000]) :
    tileObj (onT memS) (opT (tdM 2 2 0x20000)) 6 false (scr off) 8192 = .ok (pcs off) := by
  have : (match tileObj (onT memS) (opT (tdM 2 2 0x20000)) 6 false (scr off) 8192 with | .ok ps => ps == pcs off | .error _ => false) = true := by
    revert off
    decide +kernel
  revert this
  cases tileObj (onT memS) (opT (tdM 2 2 0x20000)) 6 false (scr off) 8192 <;> simp
theorem rowsM (off w n : Nat) (h : off ∈ [0, 0x4000, 0x6000, 0x20000]) :
    tileRows (onT memS) (opT (tdM 2 2 0x20000)) (scr off) w n = .ok ((List.range 64).map fun m => tileRow memS (pcs off) w m n) := by
  unfold tileRows
  rw [objM off h]
  rfl
theorem homeS (m j : Nat) (hm : m < 64) (hj : j < 4) : homeOff (pcs 0x20000) (canonOff 1 m (j * 4)) = vaultHome 0 0x20000 + canonOff 1 m (j * 4) := by
  have h2 : j * 4 / 128 = 0 := by omega
  have h4 : j * 4 % 128 / 16 = 0 := by omega
  have : (0 : Nat) ^^^ (m % 8) = m % 8 := Nat.zero_xor _
  simp only [homeOff, pcs, canonOff, vaultHome, h2, h4, this]
  repeat' split
  all_goals omega
theorem codesS (m j : Nat) (hm : m < 64) (hj : j < 4) :
    (((List.range 64).map fun m => tileRow memS (pcs 0x20000) 4 m 4).getD m []).getD j 0 = 0x44444444 := by
  simp [tileRow, List.getD, List.getElem?_range hm, List.getElem?_range hj, homeS m j hm hj, readS m j hm hj]
theorem run1 {s : State} {o : EngOp} {q : Squad} {a ty : Nat} {ra b0 b1 codes : List (List Nat)} (hty : (o.td.getD 0 0).ty = ty ∧ tyClass ty = .float16)
    (h1 : tileRows s o (o.td.getD 0 0).addr (tyWidth ty) (classK .float16) = .ok ra)
    (h2 : tileRows s o (o.td.getD 1 0).addr (tyWidth (o.td.getD 1 0).ty) (classK .float16) = .ok b0)
    (h3 : tileRows s o ((o.td.getD 1 0).addr + 8192) (tyWidth (o.td.getD 1 0).ty) (classK .float16) = .ok b1)
    (h4 : tileRows s o (o.td.getD 2 0).addr 4 4 = .ok codes)
    (h5 : ((List.range 64).map fun m => (List.range 4).map fun j => (List.range 8).filterMap fun n =>
      let c := (codes.getD m []).getD j 0 / 16 ^ n % 16
      if laneCodeOk c then none else some (m, j, n, c)).flatten.flatten = []) : okRun (mmasRun s o q a) = true := by
  unfold mmasRun
  simp only [hty, h1, h2, h3, h4, bind, Except.bind, if_true]
  rw [h5]
  rfl
theorem witness_mmas : okRun (mmasRun (onT memS) (opT (tdM 2 2 0x20000)) qe 0) = true :=
  run1 (ty := 2) (ra := (List.range 64).map fun m => tileRow memS (pcs 0) 2 m 64) (b0 := (List.range 64).map fun m => tileRow memS (pcs 0x4000) 2 m 64)
    (b1 := (List.range 64).map fun m => tileRow memS (pcs 0x6000) 2 m 64) (codes := (List.range 64).map fun m => tileRow memS (pcs 0x20000) 4 m 4)
    (by decide +kernel) (rowsM 0 _ _ (by decide)) (rowsM 0x4000 _ _ (by decide)) (rowsM 0x6000 _ _ (by decide)) (rowsM 0x20000 _ _ (by decide)) <| by
    simp only [List.flatten_eq_nil_iff, List.mem_flatten, List.mem_map, List.mem_range]
    rintro l ⟨_, ⟨m, hm, rfl⟩, hl⟩
    obtain ⟨j, hj, rfl⟩ := List.mem_map.mp hl
    rw [codesS m j hm (List.mem_range.mp hj)]
    rfl
/-- EngineValues: statistics with and without a NaN, candidates and lists, and a run of the bucketed map over two keys. -/
theorem witness_engineValues :
  ((0x060 : BitVec 12).extractLsb' 5 2).toNat = 3 ∧ ((0x120 : BitVec 12).extractLsb' 5 2).toNat = 1 ∧ (0x120 : BitVec 12).getLsbD 8 = true ∧
  nanCode .f32 0x7FC00000 = true ∧ nanCode .f32 0x3F800000 = false ∧ FiniteCode .bf16 0x3F80 ∧ nanCode .bf16 0x7F81 = true ∧
  (0x3F80 : Nat) < 2 ^ 16 ∧ nanCode .bf16 0x3F80 = false ∧ orderCode .bf16 false 0x3F80 ≠ orderCode .bf16 false 0x4000 ∧
  orderCode .f32 false (fAdd .f32 .rn (65536 * 0xC300) (fNeg .f32 (65536 * 0x3F80))).1 < orderCode .f32 false 0xC2B00000 ∧
  (([(3, 0x4000), (1, 0x3F80)] : List (Nat × Nat)).map (·.1)).Nodup ∧ ([0, 2, 3] : List Nat).Pairwise (· < ·) := by unfold FiniteCode; decide +kernel
theorem witness_buckets :
  let b : SigBlk := { src := scr 0, sigs := scr 0x100, map := scr 0x200, bkt := scr 0x300, dst := 0, seed := 0, n := 2, cols := 3, bmask := 0, ty := 2, bw := 0, l := 1 }
  let o : EngOp := { opT 0 with a := BitVec.ofNat 64 (scr 0x400) }
  okRun (vaultArr (onT ⟨[]⟩) o 8 false o.a.toNat 64 64) = true ∧ okRun (sbktRun (onT ⟨[]⟩) o b [(vaultHome 0 0x400, 64)]) = true ∧
  okRun (vaultArr (onT ⟨[]⟩) o 8 false b.src (2 * b.n) 2) = true ∧ okRun (vaultArr (onT ⟨[]⟩) o 8 true (o.a.toNat + 0x3C) 4 4) = true ∧
  okRun (vaultArr (onT ⟨[]⟩) o 8 false b.sigs (2 * b.cols) 2) = true ∧ okRun (vaultArr (onT ⟨[]⟩) o 8 true b.map (4 * b.n * b.l) 4) = true ∧
  okRun (vaultArr (onT ⟨[]⟩) o 8 true b.bkt (4 * b.n) 4) = true := by decide +kernel

/-- ExpertIssue: contexts 3 (in s4) and 7. -/
theorem witness_expertIssue :
  (onE .exp []).here? = some (gAll .exp, qe) ∧ roleFault qe .exp = false ∧ guardFieldOk qe c0 = true ∧ heldLanes c0 (gAll .exp) qe ≠ 0 ∧
  qe.cnt.xp < 65535 ∧ (onE .exp []).routeOcc 0 < 64 ∧ (onE .exp []).cbOcc 0 < 64 ∧ srcOk qe true .uni64 (.uni 2) = true ∧
  (srcOk qe true .r32 (.uni 4) && entryOk (.uni 4)) = true ∧ ctxOk qe (.uni 4) = true ∧ ctxOk qe (.imm 7) = true ∧ tagOk qe (.uni 4) = true ∧
  destNamed (cm .vec 63) = true ∧ dstOk qe (cm .vec 63) 1 true false = true ∧ (val64 qe (lowest (heldLanes c0 (gAll .exp) qe)) (.uni 2)).toNat = scr 256 := by decide +kernel
/-- Objects of each alignment in scratch, in the place of 4 KiB that the team has: the last, and the first. -/
theorem witness_objects :
  ObjAt (onE .exp []) qe (scr (4096 - 128)) 128 128 (fun a => a == .scratch || a == .lateral) ∧
  ObjAt (onE .exp []) qe (scr 0) 32 32 (fun a => a != .stack) ∧ ObjAt (onE .exp []) qe (scr 256) 128 128 vaultOnly ∧
  ObjAt (onE .exp []) qe (scr (4096 - 16)) 16 16 vaultOnly ∧ ObjAt (onE .exp []) qe (scr 256) 64 64 (fun a => a == .scratch || a == .lateral) ∧
  ObjAt (onE .exp []) qe 0x10080 128 128 (fun a => a == .global || a == .scratch) := by
  have h : ∀ va n, apertureOf va = .scratch → va - scrBase + n ≤ 4096 → ∃ t, (onE .exp []).team? qe.team = some t ∧ va - scrBase + n ≤ t.scratch :=
    fun _ _ _ hn => ⟨team0, rfl, hn⟩
  refine ⟨⟨by decide, by decide, by decide, fun e => h _ _ e (by decide), fun e => absurd e (by decide)⟩,
    ⟨by decide, by decide, by decide, fun e => h _ _ e (by decide), fun e => absurd e (by decide)⟩,
    ⟨by decide, by decide, by decide, fun e => h _ _ e (by decide), fun e => absurd e (by decide)⟩,
    ⟨by decide, by decide, by decide, fun e => h _ _ e (by decide), fun e => absurd e (by decide)⟩,
    ⟨by decide, by decide, by decide, fun e => h _ _ e (by decide), fun e => absurd e (by decide)⟩,
    ⟨by decide, by decide, by decide, fun e => absurd e (by decide), fun e => absurd e (by decide)⟩⟩

def gJ (sw : Bool) : Gang := { gAll .task with wait := .join hw 0 3 sw (some 4), words := [if sw then 0x05FB008000000000 else 0x01F8008000000000] }
/-- TaskIssue: a handle to a vector pair and to none, the generation 3 against 2 and 3, waits that end, a budget, and an aligned word. -/
theorem witness_taskIssue :
  (onE .task []).here? = some (gAll .task, qe) ∧ roleFault qe .task = false ∧ guardFieldOk qe (cm .uni 30) = true ∧
  heldLanes (cm .uni 30) (gAll .task) qe ≠ 0 ∧ srcOk qe true .uni64 (.uni 2) = true ∧ launchDst qe (cm .uni 30) = true ∧
  (onE .task []).fenceReady qe 0xFFFFFFFF 1 5 = true ∧ (onE .task []).fenceReady qe 0xFFFFFFFF 1 6 = true ∧ qe.cnt.xp < 65535 ∧
  (∀ l ∈ lanesOf (heldLanes (cm .uni 30) (gAll .task) qe), (onE .task []).readPending qe l hw 16 = false) ∧ (onE .task []).ents = [] ∧ (onE .task []).errs = [] ∧
  (onE .task []).launchFenced (gAll .task) 5000 = false ∧ (onE .task []).launchWaiters 0 = [] ∧ destNamed (cm .vec 63) = true ∧
  (onE .task []).launchQueue 0 < 4 ∧ 0 < (onE .task []).nextHandle ∧ (onE .task []).nextHandle < 2 ^ 64 ∧
  (srcOk qe true .r32 (.uni 4)) = true ∧ swEvaluate ((onE .task []).mem.readN hw 16) = (onE .task []).mem.readN hw 16 ∧
  swGen (((onE .task []).view 0).readN hw 16) = 3 ∧ (val32 qe 0 (.uni 4)).toNat = 3 ∧ (val32 (qE (scr 256) 2) 0 (.uni 4)).toNat = 2 ∧
  dstOk qe (cm .vec 63) 1 true false = true ∧ qe.saving = none ∧
  (on (gJ true) qe).here? = some (gJ true, qe) ∧ (on (gJ false) qe).here? = some (gJ false, qe) ∧
  (onE .task []).launch? qe.launch = some launch0 ∧ srcOk qe true .r64 (.uni 4) = true ∧ (onE .task []).storeBufOcc 0 < 64 := by decide +kernel
theorem witness_taskAccess :
  AccessAt (onE .task []) (gAll .task) qe 0 (scr 256) 16 (fun a => a != .stack) false hw ∧
  AccessAt { onM 0 0 with gangs := [gAll .task], squads := [qE 0x10FF8 3] } (gAll .task) (qE 0x10FF8 3) 0 0x10FF8 8 (fun a => a == .global) true 0x20FF8 := by
  refine ⟨⟨by decide, by decide, by decide, .inl ⟨0, by decide +kernel⟩⟩,
    ⟨by decide, by decide, by decide, .inr ⟨page 0x10000 0x20000 true, by decide +kernel, fun _ => rfl⟩⟩⟩

/-- TaskIssue: another gang of the core has waited for an entry since a later cycle. -/
def gLater : Gang := { gAll .task with id := 10, squad := 6, wait := .queue, since := 5001, words := [0x00FB000102000000] }
theorem witness_launchWaiters :
  let s : State := { onE .task [] with gangs := [gAll .task, gLater], squads := [qe, { qe with id := 6 }] }
  s.here? = some (gAll .task, qe) ∧ s.launchFenced (gAll .task) s.now = false ∧ (s.launchWaiters 0).length = 1 ∧
  ∀ x ∈ s.launchWaiters 0, s.now ≤ x.1.since ∧ x.1.id ≠ (gAll .task).id := by decide +kernel

/-! ### The sequencer's, memory's and the migration engine's events -/

/-- The header of a CTL clause of one word, and of one with NOSW clear and WAITZ of the copies; a NOP word. -/
abbrev hdC : Nat := 0xB000000000000000
abbrev nopW : Nat := 0x00FB000000000000
/-- A page of instructions at 0x1000, and the line of the core's row cache that holds a clause there. -/
def pageX : TlbEntry := { core := 0, asc := ascKey 0 0, va := 0x1000, size := 4096, pa := 0x20000, w := false, x := true, noc := false }
def lineX (h : Nat) : RcLine := { core := 0, pa := 0x20000, asc := ascKey 0 0, va := 0x1000, bytes := toBytes 8 h ++ toBytes 8 nopW ++ List.replicate 112 0 }
/-- A gang at the head of that clause, which has been active for 4,900 cy. -/
def gX : Gang := { gn .ctl 3 with phase := .head, pos := 0, hdr := BitVec.ofNat 64 hdC, words := [BitVec.ofNat 64 nopW], entry := 100, ready := 100 }
def qX : Squad := sq [(2, 5)] []
def onX (g : Gang) : State :=
  { on g qX with tlb := [pageX], lines := [lineX hdC], mem := ((⟨[]⟩ : Memory).writeN 0x20000 8 hdC).writeN 0x20008 8 nopW }
/-- Another gang of the squad, at the same clause. -/
def gX2 : Gang := { gX with id := 10, lanes := 0xC }

theorem witness_fuse :
  let s : State := { onX gX with gangs := [gX, gX2] }
  gX ∈ s.gangs ∧ fusable s gX.squad gX.pc gX = true ∧ fusable s gX.squad gX.pc gX2 = true ∧ gX2.lanes.getLsbD 3 = true := by decide +kernel

abbrev gWait : Gang := { gX with active := false }
abbrev gYield : Gang := { gX with phase := .boundary, yielded := true }
abbrev gBound : Gang := { gX with phase := .boundary, entry := 4000 }
abbrev gFetch : Gang := { gX with wait := .fetch }
/-- The clause again, its header naming WAITZ of copies; and a squad with one copy outstanding. -/
abbrev hdZ : Nat := hdC + 0x10000000000000
/-- SequencerEvents: entering, ageing at 256 cy, the time limit at 4,096 cy, a clause boundary of each kind, a start, a fetch. -/
theorem witness_sequencer :
  ((onX gWait).here? = some (gWait, qX) ∧ (onX gWait).nextEntry 0 0 false = some gWait) ∧
  ((onX gWait).isReady gWait qX = true ∧ gWait.ready + 256 ≤ 5000 ∧ gWait.aged + 256 ≤ 5000 ∧ 0 < classRank gWait qX) ∧
  (let s : State := { onX { gX with entry := 904 } with gangs := [{ gX with entry := 904 }, { gX2 with active := false }] }
   s.here? = some ({ gX with entry := 904 }, qX) ∧ (904 : Nat) + 4096 ≤ s.now ∧ s.othersPend { gX with entry := 904 } qX = true) ∧
  ((onX gYield).here? = some (gYield, qX) ∧ gYield.phase = .boundary ∧ gX.phase ≠ .body) ∧
  ((onX gBound).here? = some (gBound, qX) ∧ gBound.yielded = false ∧ gBound.block = [] ∧
    cachedClause (onX gBound) qX 0x1000 = some (BitVec.ofNat 64 hdC, [BitVec.ofNat 64 nopW]) ∧
    ((onX gBound).gangs.filter fun x => x.id == gBound.id).length = 1 ∧
    (∀ x ∈ (onX gBound).gangs, fusable (onX gBound) gBound.squad gBound.pc x = true → x.id = gBound.id) ∧
    (onX gBound).firstAwaits gBound (Header.ofWord (BitVec.ofNat 64 hdC)) [BitVec.ofNat 64 nopW] (max 1 gBound.resume) = false ∧
    waitzUnmet qX (Header.ofWord (BitVec.ofNat 64 hdC)) = false ∧ (decide (gBound.entry + 4096 ≤ 5000) && (onX gBound).othersPend gBound qX) = false) ∧
  cachedClause ({ onX gBound with lines := [] } : State) qX 0x1000 = none ∧
  ((onX gX).gangReady gX qX = true ∧ gX.words ≠ [] ∧ gX.resume = 0 ∧ gX.pos = 0 ∧ gX.active = true ∧
    (∀ x ∈ (onX gX).gangs, fusable (onX gX) gX.squad gX.pc x = true → x.id = gX.id) ∧ ((onX gX).gangs.filter fun x => x.id == gX.id).length = 1 ∧
    gX.phase = .head ∧ (onX gX).firstAwaits gX gX.header gX.words 1 = false ∧
    gX.header.ok = true ∧ misplaced gX.header gX.words = none ∧ gX.header.waitz = 0 ∧ heldCollective gX qX = false ∧
    (onX gX).matching gX qX gX.pc = [] ∧ ({ gX with hdr := 0xC000000000000000 } : Gang).header.ok = false) := by decide +kernel
/-- A boundary whose next clause reads v2 first, which a load has still to write; and a header that is in another gang's way. -/
def gAwait : Gang := { gBound with pend := [(70, true, 2, 1)] }
theorem witness_boundaryWaits :
  (let r : Req := { id := 70, kind := .load false, gang := 9, squad := 5, launch := 7, core := 0, part := 0, owner := 0, pieces := [], c := c0 }
   let h := BitVec.ofNat 64 0; let w : Word := 0x00F80280017FF003
   let s : State := { onX gAwait with lines := [{ lineX 0 with bytes := toBytes 8 0 ++ toBytes 8 w.toNat ++ List.replicate 112 0 }], reqs := [r] }
   s.here? = some (gAwait, qX) ∧ cachedClause s qX 0x1000 = some (h, [w]) ∧ s.firstAwaits gAwait (Header.ofWord h) [w] 1 = true ∧
   waitzUnmet qX (Header.ofWord h) = false) ∧
  ({ gBound with block := [70] } : Gang).block ≠ [] ∧
  (let g := { gBound with entry := 904 }; let s : State := { onX g with gangs := [g, { gX2 with pc := 0x1008, active := false }] }
   s.here? = some (g, qX) ∧ (decide (g.entry + 4096 ≤ s.now) && s.othersPend g qX) = true ∧ fusable s g.squad g.pc g = true ∧
   ((s.gangs.filter fun x => x.id == g.id).length = 1 ∧ ∀ x ∈ s.gangs, fusable s g.squad g.pc x = true → x.id = g.id)) := by decide +kernel
theorem witness_waitz :
  let q : Squad := { qX with cnt := { cp := 1 } }
  let s : State := { onX gBound with squads := [q], lines := [lineX hdZ] }
  s.here? = some (gBound, q) ∧ cachedClause s q 0x1000 = some (BitVec.ofNat 64 hdZ, [BitVec.ofNat 64 nopW]) ∧
  waitzUnmet q (Header.ofWord (BitVec.ofNat 64 hdZ)) = true ∧ gBound.resume = 0 := by decide +kernel
/-- The clause from the cache and from the clauses that a loop keeps, a bad header, a wait at the last word of a NOSW clause whose time is over, and a
start with WAITZ met, whose class has flags. -/
def hdBad : Nat := 0xC000000000000000
abbrev hdN : Word := 0xB020000000000000
theorem witness_clauses :
  (onX gBound).clauseAt gBound qX = some (BitVec.ofNat 64 hdC, [BitVec.ofNat 64 nopW]) ∧
  (let g : Gang := { gBound with loop := some (0x1000, 0x1010), trail := [(0x1000, 5, [6])] }; ({ onX g with lines := [] } : State).clauseAt g qX = some (5, [6])) ∧
  ({ onX gBound with lines := [] } : State).clauseAt gBound qX = none ∧
  (match ({ onX gBound with lines := [lineX hdBad] } : State).clauseAt gBound qX with | some (h, _) => !(Header.ofWord h).ok | none => false) = true ∧
  (let g : Gang := { gX with phase := .body, pos := 1, entry := 904, hdr := hdN, wait := .fence 2 4 3 }
   let s : State := { onX g with gangs := [g, { gX2 with pc := 0x1008, active := false }] }
   s.here? = some (g, qX) ∧ g.waitsLast = true ∧ (decide (g.entry + 4096 ≤ s.now) && s.othersPend g qX) = true) ∧
  (let z : Word := BitVec.ofNat 64 (hdC + 0x1F800000000000); let g : Gang := { gX with hdr := z }; let q : Squad := { qX with mxFlags := 16 }
   let s : State := { onX g with squads := [q] }
   s.here? = some (g, q) ∧ s.gangReady g q = true ∧ g.header.ok = true ∧ misplaced g.header g.words = none ∧ g.header.waitz ≠ 0 ∧ g.fenced = false ∧
   waitzUnmet q g.header = false ∧ q.held = [] ∧ s.firstAwaits g g.header g.words 1 = false ∧ heldCollective g q = false ∧ s.matching g q g.pc = []) := by
  decide +kernel
theorem witness_clauseFetch :
  ∃ s2 s3, (onX gFetch).here? = some (gFetch, qX) ∧ gFetch.wait = .fetch ∧
    fetchWord (onX gFetch) gFetch qX gFetch.pc.toNat = (s2, .ok (BitVec.ofNat 64 hdC)) ∧ (Header.ofWord (BitVec.ofNat 64 hdC)).ok = true ∧
    fetchWords s2 gFetch qX (gFetch.pc + 8) (Header.ofWord (BitVec.ofNat 64 hdC)).len = (s3, .ok [BitVec.ofNat 64 nopW]) :=
  ⟨_, _, rfl, rfl, rfl, rfl, rfl⟩
theorem witness_fetchMiss :
  ∃ s2, ({ onX gFetch with tlb := [] } : State).here? = some (gFetch, qX) ∧
    fetchWord { onX gFetch with tlb := [] } gFetch qX gFetch.pc.toNat = (s2, .error .miss) := ⟨_, rfl, rfl⟩

def gSfu : Gang := { gn .sfu 3 with wait := .sfu }
def gPort : Gang := { gn .mem 3 with wait := .port }
def gBuf : Gang := { gn .mem 3 with wait := .buffer }
def gFen : Gang := { gn .mem 3 with wait := .fence 2 4 3 }
/-- A gang in a clause with RA = 1, at a load through the address in v2. -/
def gRa : Gang := { gn .mem 3 with hdr := 0x2040000000000000, words := [0x00F8050001004000], pend := [(70, true, 2, 2)] }
def gLim : Gang := { gn .mem 3 with wait := .limit .rm }
def gOut : Gang := { gn .mem 3 with wait := .remote }
/-- A load of the gang that is on its way. -/
def reqR : Req := { id := 70, kind := .load false, gang := 9, squad := 5, launch := 7, core := 0, part := 0, owner := 0, pieces := [], c := c0 }
/-- The same: the function unit, the memory port, the buffers, a fence and a run-ahead. -/
theorem witness_sequencerWaits :
  ((on gSfu qX).here? = some (gSfu, qX) ∧ ((on gSfu qX).part 0 0).sfuFree ≤ (on gSfu qX).now ∧ (on gSfu qX).sfuBefore gSfu qX (gSfu.port.getD 0) = false) ∧
  ((on gPort qX).here? = some (gPort, qX) ∧ (on gPort qX).portBusy gPort qX = false) ∧ (on gBuf qX).here? = some (gBuf, qX) ∧ (on gLim qX).here? = some (gLim, qX) ∧ (on gOut qX).here? = some (gOut, qX) ∧
  ((on gFen qX).here? = some (gFen, qX) ∧ gFen.wait = .fence 2 4 3 ∧ (on gFen qX).fenceReady qX 3 2 4 = true) ∧
  (let s : State := { on gRa qX with reqs := [reqR] }
   s.here? = some (gRa, qX) ∧ gRa.header.classAt gRa.pos = some .mem ∧ gRa.header.ra = true ∧ gRa.ra = [] ∧
   s.stalledOnLoad gRa .mem = true) := by decide +kernel

/-- A page table of two levels for the addresses below 2^30, and the state of a walk, a request or a write in it. -/
def ascP : Asc := { id := 0, root := 0x4000, stack := 4096 }
def fnP : Fn := { Fn.reset0 with ascs := [ascP] }
def qP : Squad := { qX with cnt := { rm := 4 } }
def gP : Gang := { gn .mem 3 with wait := .walk, block := [70], pend := [(70, true, 4, 2)] }
def onP : State :=
  { on gP qP with
    mem := (((⟨[]⟩ : Memory).writeN 0x4000 8 0x5001).writeN 0x5000 8 7).writeN 0x20010 8 0x8877665544332211, fns := [fnP] }
def walkP : Walk := { id := 71, core := 0, asc := 0, va := 0x12345, gang := 9, launch := 7 }
def piece0 : Piece := { lane := 0, home := 0x20010, n := 4, reg := 4, b := 5, val := 0x80 }
def piece1 : Piece := { lane := 1, home := 2 ^ 31 + 0x20010, n := 8, reg := 6, b := 7 }
def reqP (k : ReqKind) (ps : List Piece) : Req := { reqR with kind := k, pieces := ps, c := cm .vec 4, held := 3, active := 3 }
def reqP1 : Req := { reqP (.load true) [piece0] with accepted := true }
def reqP2 : Req := { reqP (.load true) [piece0, piece1] with accepted := true, remote := true, width := 2 }
def reqP3 : Req := { reqP (.load false) [piece0] with host := true }
def reqP4 : Req := { reqP (.atom 0 1) [piece0, piece1] with accepted := true }
def onR (r : Req) : State := { onP with reqs := [r] }
def leafP : TlbEntry := { core := 0, asc := ascKey 0 0, va := 0, size := 2 ^ 30, pa := 0, level := 1, w := true, x := false, noc := false }
def entP (p : Post) : Ent := { id := 50, grp := 50, core := 0, squad := 5, launch := 7, lane := 0, home := 0x20010, post := p }

/-- MemoryEvents: a walk of two levels to a leaf of 1 GiB; a load accepted, returned, from another core, and from the host; an atomic of two
lanes; a store and its acknowledgement. -/
theorem witness_walk :
  let s : State := { onP with walks := [walkP] }
  s.eccPieces (walkReads s (s.spaceOf walkP.launch).1 (s.spaceOf walkP.launch).2 walkP.va.toNat) = none ∧
  s.queued walkP.core walkP.since (walkReads s (s.spaceOf walkP.launch).1 (s.spaceOf walkP.launch).2 walkP.va.toNat) = false ∧
  s.walks.find? (fun x => x.id == walkP.id) = some walkP ∧ walkP ∈ s.walking (dieOf 0) ∧ s.gang? walkP.gang = some gP ∧
  walk s (s.spaceOf walkP.launch).1 (s.spaceOf walkP.launch).2 walkP.core walkP.va.toNat = .leaf leafP := by decide +kernel
theorem witness_walkFault :
  let w := { walkP with va := 2 ^ 40 }; let s : State := { onP with walks := [w] }
  s.eccPieces (walkReads s (s.spaceOf w.launch).1 (s.spaceOf w.launch).2 w.va.toNat) = none ∧
  s.queued w.core w.since (walkReads s (s.spaceOf w.launch).1 (s.spaceOf w.launch).2 w.va.toNat) = false ∧
  s.walks.find? (fun x => x.id == w.id) = some w ∧ w ∈ s.walking (dieOf 0) ∧ w.pref = false ∧ s.gang? w.gang = some gP ∧
  (match walk s (s.spaceOf w.launch).1 (s.spaceOf w.launch).2 w.core w.va.toNat with | .fault _ _ => true | _ => false) = true := by decide +kernel
theorem witness_sliceAccept :
  let r := reqP (.load true) [piece0]
  (onR r).sliceHeads 0 = [r] ∧ (onR r).canAccept r = true ∧ (onR r).errs = [] ∧ r.isAtomic = false ∧ ∀ x ∈ (onR r).reqs, x.accepted = false := by decide +kernel
def reqP5 : Req := { reqP .line [] with accepted := true, fill := some (ascKey 0 0, 0x10000, 0x20000) }
theorem witness_lineReturn :
  (onR reqP5).reqs.find? (fun x => x.id == 70) = some reqP5 ∧ reqP5.accepted = true ∧ reqP5.remote = false ∧ reqP5.host = false ∧
  reqP5.kind = .line ∧ reqP5.fill = some (ascKey 0 0, 0x10000, 0x20000) := by decide +kernel
/-- A load from another chip, which no older one of its core precedes. -/
def reqP6 : Req := { reqP (.load false) [{ piece0 with home := 2 ^ 41 + 0x20010 }] with remote := true }
theorem witness_otherChip :
  (onR reqP6).reqs.find? (fun x => x.id == 70) = some reqP6 ∧ reqP6.remote = true ∧ reqP6.host = false ∧ reqP6.otherChip = true ∧
  (onR reqP6).olderReq reqP6 = false ∧ ({ onR reqP6 with boot := { onP.boot with ports := 0xFF } } : State).canAccept reqP6 = true ∧ (onR reqP6).squad? reqP6.squad = some qP := by decide +kernel
theorem witness_loadReturn :
  (onR reqP1).reqs.find? (fun x => x.id == 70) = some reqP1 ∧ (onR reqP1).squad? 5 = some qP ∧ reqP1.remote = false ∧ reqP1.host = false ∧
  (onR reqP2).reqs.find? (fun x => x.id == 70) = some reqP2 ∧ reqP2.remote = true ∧ reqP2.otherChip = false ∧ reqP2.host = false ∧
  (onR reqP3).reqs.find? (fun x => x.id == 70) = some reqP3 ∧ reqP3.host = true ∧ (onR reqP3).canAccept reqP3 = true ∧ ∀ x ∈ (onR reqP3).reqs, ¬x.id < 70 := by decide +kernel
theorem witness_atomicReturn :
  (onR reqP4).reqs.find? (fun x => x.id == 70) = some reqP4 ∧ reqP4.accepted = true ∧ reqP4.isAtomic = true ∧ reqP4.host = false ∧
  (onR reqP4).errs = [] ∧ (onR reqP4).ents = [] ∧ ∀ x ∈ (onR reqP4).reqs, ¬x.id < 70 := by decide +kernel
theorem witness_atomicReturnMem :
  let p : Piece := { lane := 0, home := 0x20010, n := 4, b := 5 }; let r := { reqP (.atom 0 1) [p] with accepted := true }
  Unwatched (onR r) ∧ (onR r).squad? r.squad = some qP ∧ r.pieces = [p] ∧ p.reg = 0 ∧ p.lane < qP.lanes.length ∧ r.uni = false ∧ r.c.dk = .vec ∧
  r.c.nw = false := by unfold Unwatched; decide +kernel
theorem witness_writes :
  (let e := entP (.store [1, 2, 3]); let s : State := { onP with ents := [e] }
   s.ents.find? (fun x => x.id == e.id) = some e ∧ e.athome = false ∧ s.entFree e = true ∧ s.behind e = false ∧
   e.refused = false ∧ s.errs = [] ∧ s.watched = []) ∧
  (let e := { entP (.store [1]) with rm := true, athome := true }; let s : State := { onP with ents := [e] }
   s.ents.find? (fun x => x.id == e.id) = some e ∧ s.squad? e.squad = some qP ∧
   (∀ x ∈ s.ents, x.rm = true → x.squad = e.squad → e.id ≤ x.id) ∧ ∀ x ∈ s.ents, x.grp = e.grp → x.id = e.id) ∧
  (let e := { entP (.store [1]) with rm := true, athome := true }; let s : State := { onP with ents := [e, { e with id := 51 }] }
   s.ents.find? (fun x => x.id == e.id) = some e ∧ (∀ x ∈ s.ents, x.rm = true → x.squad = e.squad → e.id ≤ x.id) ∧
   ∃ x ∈ s.ents, x.grp = e.grp ∧ x.id ≠ e.id) := by decide +kernel

/-- A leaf for core 0, and a roaming squad whose lane 0 departs. -/
def leafG : Leaf := { kind := 1, dcore := 0, pc := 0x1000, wid := 3, launch := 7, v := (List.range 16).map fun i => BitVec.ofNat 32 (i * 3), pred := 5, ff := 2, hops := 1 }
def qD : Squad :=
  { qX with roam := true, lanes := { st := .departing 2 0 none, v := [(2, 5), (15, 9)], p := 0x105, wid := 3, hops := 4, pc := 0x1008 } :: List.replicate 31 {} }
def onD : State := { on (gn .mig 4) qD with launches := [launchR] }
def coreD : Core := { Core.reset with ringCap := 16 }
def onCore (c : Core) : State := onD.modCore 0 fun _ => c
def bundleD (n : Nat) (sent : Bool) (first : Nat) : OutBundle :=
  { id := 80, die := 0, chip := 3, first := first, leaves := (List.range n).map fun k => { leafG with wid := BitVec.ofNat 64 k }, sent := sent }
def binD (n : Nat) (opened : Nat) : Bin :=
  { id := 82, core := 0, part := 2, launch := 7, pc := 0x1000, opened := opened, leaves := (List.range n).map fun k => { leafG with wid := BitVec.ofNat 64 k }, entered := List.replicate n 5 }
def onB (b : OutBundle) : State := { onD with bundles := [b], boot := { onD.boot with ports := 1 } }
/-- The bundle for chip 3 that BUNDLE_SEND finds. -/
def dueBundle (s : State) : Option OutBundle :=
  s.bundles.find? (fun b => b.die == 0 && b.chip == 3 && !b.sent && (b.leaves.length == 32 || decide (b.first + 64 ≤ s.now)))
def flightD : Flight := { id := 81, leaf := leafG }
def ringD (core : Nat) : RingEnt := { core := core, slot := 1, leaf := { leafG with stamp := 9 } }
def bytesD : Bundle := ⟨[1, 2, 0, 0, 0, 0, 0, 0, 0, 0, 0, 0, 0, 0, 0, 0] ++ leafG.bytes ++ leafG.bytes⟩

/-- MigrationEvents: a departure, a leaf sent on the chip and off it, a bundle that is full and one whose 64 cy are over, bundles that are valid
and not, an arrival, held leaves of the core and of another, a bin with one place, and bins that are due. -/
theorem witness_depart :
  onD.squad? 5 = some qD ∧ (qD.lane 0).st = .departing 2 0 none ∧ onD.laneDrained qD 0 = true ∧ (onD.core 0).depart.length < 64 ∧
  (∀ k, k < 0 → (qD.lane k).pc = (qD.lane 0).pc → ∀ a b c, (qD.lane k).st ≠ .departing a b c) ∧ 3 < onD.dies.length := by
  refine ⟨rfl, rfl, by decide +kernel, by decide, ?_, by decide⟩
  intro k h; omega
theorem witness_send :
  let s := onCore { coreD with depart := [leafG, { leafG with dchip := 3 }] }
  (s.core 0).depart = [leafG, { leafG with dchip := 3 }] ∧ s.launchEnded leafG.launch = false ∧ leafG.dchip = (s.spaceOf leafG.launch).2.chip ∧
  ({ leafG with dchip := 3 } : Leaf).dchip ≠ (s.spaceOf leafG.launch).2.chip := by decide +kernel
theorem witness_bundle :
  dueBundle (onB (bundleD 32 false 5000)) = some (bundleD 32 false 5000) ∧ (onB (bundleD 32 false 5000)).portUp 0 none = true ∧
  (let s : State := { onB (bundleD 32 false 5000) with boot := { onD.boot with ports := 4, ucie := 0xF } }; s.portUp 0 none = false ∧ s.portDie 0 none = some 1) ∧
  dueBundle (onB (bundleD 2 false 4936)) = some (bundleD 2 false 4936) ∧ bundleOk bytesD.bytes = true ∧ bundleOk [1, 2] = false ∧
  (onB (bundleD 1 true 100)).bundles.find? (fun y => y.id == 80 && y.sent) = some (bundleD 1 true 100) ∧
  (bundleD 1 true 100).leaves = [{ leafG with wid := 0 }] ∧ onD.launch? 7 = some launchR ∧ onD.launchEnded 7 = false := by decide +kernel
theorem witness_arrival :
  let s : State := { onCore coreD with flights := [flightD] }
  s.flights.find? (fun x => x.id == 81) = some flightD ∧ s.joined flightD.src 0 = true ∧ flightD.bad = false ∧ leafG.kind = 1 ∧ leafG.transit = false ∧
  s.launchEnded leafG.launch = false ∧ s.inboundRoom 0 = true ∧ s.heldFor 0 = [] ∧ s.creditBefore 0 10 = false ∧
  (∀ y ∈ s.flights, ¬y.id < 81) ∧
  (let f := { flightD with leaf := { leafG with transit := true } }; let z : State := { onCore coreD with flights := [f] }
   z.flights.find? (fun x => x.id == 81) = some f ∧ z.launchEnded leafG.launch = false ∧ z.creditBefore 0 f.leaf.stamp = false) ∧
  (let f := { flightD with bad := true }; let z : State := { onCore coreD with flights := [f] }
   z.flights.find? (fun x => x.id == 81) = some f ∧ z.launch? f.leaf.launch = some launchR ∧ z.launchEnded f.leaf.launch = false) := by decide +kernel
theorem witness_held :
  (let s : State := { onCore coreD with rings := [ringD 0] }
   (∀ x ∈ s.rings, x.core = 0 → s.launchEnded x.leaf.launch = false) ∧ s.nextHeld 0 = some (ringD 0) ∧ s.inboundRoom 0 = true ∧ s.errs = [] ∧
   s.creditBefore 0 (ringD 0).leaf.stamp = false) ∧
  (let s : State := { onCore coreD with rings := [ringD 1] }
   s.errs = [] ∧ s.nextHeld 0 = some (ringD 1) ∧ s.inboundRoom 0 = true) := by
  decide +kernel
theorem witness_bins :
  (let s : State := { onCore { coreD with inbound := [leafG] } with bins := [binD 31 4999] }
   (s.core 0).inbound = [leafG] ∧ s.launchEnded leafG.launch = false ∧ s.canHold 0 2 = true ∧
   s.bins.find? (fun b => b.core == 0 && b.launch == leafG.launch && b.pc == leafG.pc && !b.forced && decide (b.leaves.length < 32)) = some (binD 31 4999)) ∧
  (let s : State := onCore { coreD with inbound := [leafG] }
   (s.core 0).inbound = [leafG] ∧ s.launchEnded leafG.launch = false ∧
   s.bins.find? (fun b => b.core == 0 && b.launch == leafG.launch && b.pc == leafG.pc && !b.forced && decide (b.leaves.length < 32)) = none ∧
   (11 < 12 ∧ s.canHold 0 11 = true ∧ (s.bins.filter fun b => b.core == 0 && b.part == 11).length < 16)) ∧
  (let s : State := { onCore coreD with bins := [binD 32 5000] }
   s.bins.find? (fun x => x.id == 82) = some (binD 32 5000) ∧ s.binDue (binD 32 5000) = true ∧ ∀ x ∈ s.bins, ¬x.id < 82) ∧
  ({ onCore coreD with bins := [binD 1 4000] } : State).binDue (binD 1 4000) = true := by decide +kernel

/-! ### Engines: states in which their events happen -/

/-- A team with 64 KiB of scratch. -/
def teamE : Team := { team0 with scratch := 65536 }
/-- Scratch with fields written: offset, width, value. -/
def scratchMem (l : List (Nat × Nat × Nat)) : Memory := l.foldl (fun m x => m.writeN (vaultHome 0 x.1) x.2.1 x.2.2) ⟨[]⟩
/-- A squad with operation o in its queue, and what its scratch holds; the first GiB of the address space is mapped to the slices. -/
def onO (o : EngOp) (l : List (Nat × Nat × Nat)) : State :=
  { on (gAll .copy) { qE 0 0 with cnt := { cp := 1, mx := 1, rw := 1, sg := 1, xp := 1 } } with
    teams := [teamE], fns := [fnP], ops := [o], tlb := [leafP]
    mem := ((scratchMem l).writeN 0x4000 8 0x5001).writeN 0x5000 8 7 }
def opE (c : CounterClass) (i : Instr) (a b : Nat) : EngOp :=
  { id := 40, squad := 5, core := 0, team := 3, launch := 7, cls := c, i := i, a := BitVec.ofNat 64 a, b := BitVec.ofNat 64 b, lanes := 0xFFFFFFFF }
theorem one_op (o : EngOp) (l : List (Nat × Nat × Nat)) : OneOp (onO o l) o := ⟨by simp [onO], by intro x hx _; simpa [onO] using hx⟩

/-- A TFILL of one row of 16 bytes of scratch. -/
abbrev wFill : FM := ⟨c0, .uni 2, .imm 0, 1⟩
def opFill : EngOp := opE .cp (.tfill wFill) (scr 0x100) 0
def memFill : List (Nat × Nat × Nat) := [(0x100, 8, scr 0x400), (0x110, 4, 16), (0x114, 2, 1), (0x116, 2, 16)]
def opFillRow : EngOp :=
  { opFill with started := true, rows := 1, blk := (scratchMem memFill).readBytes (vaultHome 0 0x100) 64, wr := [(scr 0x400 / 4096, vaultHome 0 0)] }
/-- The same with a sync word. -/
def opFillSync : EngOp := { opFillRow with i := .tfill ⟨c0, .uni 2, .uni 4, 1⟩, b := BitVec.ofNat 64 (scr 256), rows := 2 }
/-- A stream of two items of one row of 16 bytes, its control block at scratch 0x200 and its descriptor at 0x400. -/
def memStream : List (Nat × Nat × Nat) :=
  [(0x200, 2, 2), (0x202, 2, 64), (0x208, 8, scr 0x4000), (0x210, 8, scr 0x400), (0x218, 8, 16), (0x220, 4, 2),
   (0x400, 8, 0x20000), (0x410, 4, 16), (0x414, 2, 1), (0x416, 2, 16)]
def opTsub : EngOp := opE .cp (.tsub ⟨c0, .uni 2, .imm 0, 0⟩) (scr 0x200) 0
def streamE : Stream := { id := 44, core := 0, squad := 5, team := 3, launch := 7, block := BitVec.ofNat 64 (scr 0x200) }
def onStream : State := { onO opTsub memStream with streams := [streamE], ops := [] }
abbrev startedCp (s : State) (o : EngOp) : State :=
  ((s.modCore 0 fun c => { c with cpqdly := c.cpqdly + (if o.started then 0 else s.now - o.arrived) }).modOp o.id fun x =>
    { x with started := true, again := false, setup := false }).wakeEngine 5 fun q => q.core == 0

/-- The result of a computation that succeeds. -/
def okOf {ε α : Type} (x : Except ε α) : Bool := match x with | .ok _ => true | .error _ => false
theorem ok_of {ε α : Type} {x : Except ε α} (h : okOf x = true) : ∃ a, x = .ok a := by
  cases x with
  | ok a => exact ⟨a, rfl⟩
  | error e => simp [okOf] at h

/-- EngineEvents: a copy that starts, one of whose rows are written (the only one; the first of two, with a sync word). -/
theorem witness_copyStart :
  ((onO opFill memFill).waitingTsub 0 = none ∧ (onO opFill memFill).nextCopy 0 = some opFill) ∧ copyWord opFill.i = some wFill ∧ opFill.i ≠ .tsub wFill ∧
  (∃ r, setupOp (startedCp (onO opFill memFill) opFill) opFill wFill = .ok r) ∧
  (opFillRow.inProgress = true ∧ opFillRow.row < opFillRow.rows ∧ opFillRow.syncWord = none ∧ opFillSync.inProgress = true ∧
    opFillSync.syncWord = some (BitVec.ofNat 64 (scr 256)) ∧ opFillRow.rd = [] ∧
    (onO opFillRow memFill).reaches 0 (vaultHome 0 0) = true) :=
  ⟨by decide +kernel, rfl, by decide, ok_of (by decide +kernel), by decide +kernel⟩
/-- A TSUB whose checks hold. -/
theorem witness_tsub :
  ((onO opTsub memStream).waitingTsub 0 = none ∧ (onO opTsub memStream).nextCopy 0 = some opTsub ∧ (onO opTsub memStream).ents = []) ∧
  (onO opTsub memStream).streamsOn opTsub.core < 4 ∧
  engObj (startedCp (onO opTsub memStream) opTsub) opTsub 5 vaults (dieOf 0) true opTsub.a.toNat 256 256 = .ok [(vaultHome 0 0x200, 256)] ∧
  (∃ r, setupStream (startedCp (onO opTsub memStream) opTsub) opTsub false
    (readPieces ((startedCp (onO opTsub memStream) opTsub).view 0) [(vaultHome 0 0x200, 256)]) = .ok r) :=
  ⟨by decide +kernel, by decide, rfl, ok_of (by decide +kernel)⟩
/-- A TSUB that cancels a stream which runs. -/
def opCancel : EngOp := opE .cp (.tsub ⟨c0, .uni 2, .imm 0, 1⟩) (scr 0x200) 0
def onCancel : State := { onO opCancel (memStream ++ [(0x228, 4, 2)]) with streams := [{ streamE with id := 45 }] }
theorem witness_tsubCancel :
  (onCancel.waitingTsub 0 = none ∧ onCancel.nextCopy 0 = some opCancel ∧ onCancel.ents = []) ∧
  engObj (startedCp onCancel opCancel) opCancel 5 vaults (dieOf 0) true opCancel.a.toNat 256 256 = .ok [(vaultHome 0 0x200, 256)] ∧
  (∃ r, setupStream (startedCp onCancel opCancel) opCancel true
    (readPieces ((startedCp onCancel opCancel).view 0) [(vaultHome 0 0x200, 256)]) = .ok r) ∧
  (StreamBlk.ofBytes (readPieces ((startedCp onCancel opCancel).view 0) [(vaultHome 0 0x200, 256)])).active = true ∧
  (∃ y ∈ onCancel.streams, y.block = opCancel.a ∧ y.team = opCancel.team) :=
  ⟨⟨rfl, by decide +kernel, rfl⟩, rfl, ok_of (by decide +kernel), by decide +kernel, by decide⟩
/-- The first item of the stream. -/
theorem witness_streamItem :
  let b := StreamBlk.ofBytes (readPieces (onStream.view 0) [(vaultHome 0 0x200, 256)])
  onStream.streams.find? (fun y => y.id == 44) = some streamE ∧ onStream.team? 3 = some teamE ∧
  onStream.preempting teamE = false ∧ teamE.saved = none ∧ teamE.retired = false ∧ streamE.held = none ∧ (streamE.waiting = false ∧ onStream.walksFor 44 = false) ∧ onStream.ents = [] ∧
  engObj onStream streamE.asOp 5 vaults (dieOf 0) true streamE.block.toNat 256 256 = .ok [(vaultHome 0 0x200, 256)] ∧
  b.done + 1 < b.nitem ∧ b.done + 1 < 2 ^ 32 ∧ ringPhase (onStream.view 0) (vaultHome 0 0x200) (b.done % ringSlots b.nslot) = b.pull ∧
  (∃ h, holdRange onStream streamE.asOp vaults (dieOf 0) false b.sdesc 64 64 {} = .ok h ∧
    descFault b.form (b.item (CopyDesc.ofBytes (readAt (onStream.view 0) h.rd b.sdesc 64)) b.done) (readAt (onStream.view 0) h.rd b.sdesc 64) = none ∧
    ∃ r, setupDesc onStream { streamE.asOp with a := BitVec.ofNat 64 b.sdesc } b.form (b.item (CopyDesc.ofBytes (readAt (onStream.view 0) h.rd b.sdesc 64)) b.done) = .ok r) ∧
  b.sword = 0 :=
  ⟨rfl, rfl, rfl, rfl, rfl, rfl, ⟨rfl, rfl⟩, rfl, rfl, by decide +kernel, by decide +kernel, by decide +kernel,
   ⟨{ rd := [(scr 0x400 / 4096, vaultHome 0 0)], reads := [(vaultHome 0 0x400, 64)] }, rfl, by decide +kernel, ok_of (by decide +kernel)⟩, by decide +kernel⟩

def opAcz : EngOp := opE .mx (.acz ⟨c0, .vec 0, .vec 0, 1⟩) 0 0
def opAcrd : EngOp := opE .mx (.acrd ⟨cm .vec 62, .imm 31, .vec 0, 0⟩) 31 0
abbrev qO : Squad := { qE 0 0 with cnt := { cp := 1, mx := 1, rw := 1, sg := 1, xp := 1 } }
abbrev startedMx (s : State) (o : EngOp) : State :=
  let add (n : Nat) (l : List Nat) : List Nat := (List.range 3).map fun k => l.getD k 0 + if k = engineOf 0 then n else 0
  ((s.modCore 0 fun c => { c with mxqdly := add (s.now - o.arrived) c.mxqdly, mxbusy := add (mtxBusy s o) c.mxbusy }).modOp o.id
    fun x => { x with started := true, done := true }).wakeEngine 6 fun x => x.core == 0 && engineOf x.part == engineOf 0
/-- An ACZ and an ACRD at the head of the matrix queue. -/
theorem witness_matrixStart :
  (onO opAcz []).ops.find? (fun o => o.core == 0 && o.cls == .mx && engineOf o.part == engineOf 0 && !o.started && !o.done) = some opAcz ∧
  (onO opAcz []).mayStart opAcz = true ∧ (onO opAcrd []).mayStart opAcrd = true ∧ qO.accErrs = [] ∧ (∀ x ∈ (onO opAcz []).ops, x.cls ≠ .rw) ∧ (onO opAcz []).squad? 5 = some qO ∧ mtxAcc ⟨c0, .vec 0, .vec 0, 1⟩ < qO.accs ∧
  descChecks opAcz ⟨c0, .vec 0, .vec 0, 1⟩ = none ∧
  (onO opAcrd []).ops.find? (fun o => o.core == 0 && o.cls == .mx && engineOf o.part == engineOf 0 && !o.started && !o.done) = some opAcrd ∧
  qO.lanes.length = 32 ∧ opAcrd.lanes.getLsbD 31 = true := by decide +kernel
theorem witness_matrixRun : ∃ r, mtxRun (startedMx (onO opAcz []) opAcz) opAcz qO ⟨c0, .vec 0, .vec 0, 1⟩ = .ok r := ⟨_, rfl⟩

/-- A PBOUND of one page and one element; an RSTAT; an SBKT of one query and one key; at the heads of their queues. -/
def opPbound : EngOp := opE .rw (.pbound ⟨c0, .uni 2, .vec 0, 0⟩) (scr 0x100) 0
def memPbound : List (Nat × Nat × Nat) :=
  [(0x100, 8, scr 0x400), (0x108, 8, scr 0x410), (0x110, 8, scr 0x420), (0x120, 8, scr 0x430), (0x130, 2, 1), (0x132, 2, 1)]
def opRstat : EngOp := opE .rw (.rstat ⟨cm .vec 62, .vec 0, .vec 0, 0⟩) 0 0
def opSbkt : EngOp := opE .sg (.sbkt ⟨c0, .uni 2, .vec 0, 0⟩) (scr 0x100) 0
def memSbkt : List (Nat × Nat × Nat) :=
  [(0x100, 8, scr 0x400), (0x108, 8, scr 0x410), (0x110, 8, scr 0x420), (0x118, 8, scr 0x430), (0x130, 2, 1), (0x132, 2, 1), (0x138, 4, 1)]
theorem witness_rowStart :
  ((onO opPbound memPbound).mayStart opPbound = true ∧ (onO opRstat []).mayStart opRstat = true ∧
    (onO opSbkt memSbkt).mayStart opSbkt = true ∧ (onO opPbound memPbound).squad? 5 = some qO) ∧
  (onO opPbound memPbound).ops.find? (fun o => o.core == 0 && o.cls == .rw && !o.started && !o.done) = some opPbound ∧
  (∃ r, rowRun (onO opPbound memPbound) opPbound = .ok r) ∧
  (onO opRstat []).ops.find? (fun o => o.core == 0 && o.cls == .rw && !o.started && !o.done) = some opRstat ∧
  (onO opRstat []).mtxBefore opRstat = false ∧ rstatOp 0 ≠ 3 ∧ qO.liveLanes.getLsbD 31 = true ∧
  (onO opSbkt memSbkt).ops.find? (fun o => o.core == 0 && o.cls == .sg && !o.started && !o.done) = some opSbkt ∧
  (∃ r, sigRun (onO opSbkt memSbkt) opSbkt = .ok r) :=
  ⟨⟨rfl, rfl, rfl, rfl⟩, by decide +kernel, ok_of (by decide +kernel), by decide +kernel, rfl, by decide, rfl, by decide +kernel, ok_of (by decide +kernel)⟩

/-- The definition of shape 15, and a pass of one token over two experts with it. -/
def opShape : EngOp := opE .xp (.route ⟨c0, .uni 2, .uni 4, 1⟩) (scr 0x100) 15
def memShape : List (Nat × Nat × Nat) := [(0x100, 2, 1), (0x102, 2, 2), (0x104, 4, 1), (0x10C, 4, 2), (0x110, 2, 64)]
def opPass : EngOp := opE .xp (.route ⟨c0, .uni 2, .vec 0, 0⟩) (scr 0x100) 0
def memPass : List (Nat × Nat × Nat) :=
  [(0x100, 8, scr 0x400), (0x108, 8, scr 0x410), (0x110, 8, scr 0x420), (0x118, 8, scr 0x430), (0x138, 8, scr 0x440), (0x140, 4, 15)]
def shapeE : RouteShape := { t := 1, e := 2, k := 1, tstride := 0, estride := 2, lcap := 64 }
def onPass : State := (onO opPass memPass).modDie 0 fun d => { d with shapes := [(shapeKey 0 15, shapeE)] }
abbrev startedRt (s : State) (o : EngOp) : State :=
  ((s.modDie 0 fun d => { d with rtqdly := d.rtqdly + if o.again then 0 else s.now - routeArrival o }).modOp o.id fun x =>
    { x with started := true, again := false }).wakeExp 0 true
theorem witness_routeStart :
  (onO opShape memShape).nextRoute 0 = some opShape ∧ 0 < (onO opShape memShape).dies.length ∧
  Machine.shapeOf (startedRt (onO opShape memShape) opShape) opShape = .ok (shapeKey 0 15, shapeE) ∧ onPass.nextRoute 0 = some opPass ∧
  ∃ p, passPlan (startedRt onPass opPass) opPass = .ok p ∧ p.sync = some (vaultHome 0 0x440, scr 0x440) :=
  ⟨by decide +kernel, by decide, rfl, by decide +kernel, ⟨_, rfl, by decide +kernel⟩⟩

/-- A complete operation with a fault. -/
def opDone : EngOp := { opAcz with done := true, fault := some { code := 0x28 }, flags := 3 }
theorem witness_retire :
  (onO opDone []).ops.find? (fun o => o.squad == 5 && o.cls == .mx) = some opDone ∧ opDone.done = true ∧ opDone.upds = 0 ∧
  ({ opPass with done := true } : EngOp).isRoute = true ∧ (onO opPass []).ents = [] ∧ (onO opDone []).squad? 5 = some qO ∧ qO.place = .resident := by
  decide +kernel

/-- The last item of a stream with a sync word. -/
def memStream1 : List (Nat × Nat × Nat) := memStream ++ [(0x220, 4, 1), (0x230, 8, scr 256)]
def onStream1 : State := { onO opTsub memStream1 with streams := [streamE], ops := [] }
theorem witness_streamEnd :
  let b := StreamBlk.ofBytes (readPieces (onStream1.view 0) [(vaultHome 0 0x200, 256)])
  engObj onStream1 streamE.asOp 5 vaults (dieOf 0) true streamE.block.toNat 256 256 = .ok [(vaultHome 0 0x200, 256)] ∧
  b.done + 1 = b.nitem ∧ b.sword ≠ 0 ∧ ringPhase (onStream1.view 0) (vaultHome 0 0x200) (b.done % ringSlots b.nslot) = b.pull ∧
  (∃ w, engSyncWord onStream1 streamE.asOp 5 b.sword = .ok w) ∧
  ∃ h, holdRange onStream1 streamE.asOp vaults (dieOf 0) false b.sdesc 64 64 {} = .ok h ∧
    descFault b.form (b.item (CopyDesc.ofBytes (readAt (onStream1.view 0) h.rd b.sdesc 64)) b.done) (readAt (onStream1.view 0) h.rd b.sdesc 64) = none ∧
    ∃ r, setupDesc onStream1 { streamE.asOp with a := BitVec.ofNat 64 b.sdesc } b.form
      (b.item (CopyDesc.ofBytes (readAt (onStream1.view 0) h.rd b.sdesc 64)) b.done) = .ok r :=
  ⟨rfl, by decide +kernel, by decide +kernel, by decide +kernel, ok_of (by decide +kernel),
   { rd := [(scr 0x400 / 4096, vaultHome 0 0)], reads := [(vaultHome 0 0x400, 64)] }, rfl, by decide +kernel, ok_of (by decide +kernel)⟩

/-! ### The combine buffer: states in which its events happen -/

/-- A CBOPEN of context 7 for two tokens of one rank, rows of 256 elements, one slot and one ring entry. -/
def opOpen : EngOp := opE .xp (.cbopen ⟨c0, .uni 2, .imm 7, 0⟩) (scr 0x100) 7
def memOpen : List (Nat × Nat × Nat) :=
  [(0x100, 8, scr 0x400), (0x108, 8, scr 0x410), (0x110, 8, scr 0x800), (0x120, 8, 0x30000), (0x140, 2, 2), (0x142, 2, 256), (0x144, 4, 1),
   (0x148, 4, 100), (0x14C, 4, 100), (0x150, 4, 512), (0x158, 2, 1), (0x15A, 2, 1), (0x15C, 2, 1)]
theorem witness_contextOpen :
  0 < (onO opOpen memOpen).dies.length ∧ (onO opOpen memOpen).headCb 0 = some opOpen ∧
  ∃ c, cbPlan ((onO opOpen memOpen).startCb 0 opOpen) opOpen = .ok c := ⟨by decide, by decide +kernel, ok_of (by decide +kernel)⟩

/-- An open context of two tokens; the tokens and the ring as given. -/
def ctxE (toks : List Token) (ring : List (Nat × Nat)) : CbCtx :=
  { isOpen := true, launch := 7, fn := 0, asc := 0, team := 3, block := scr 0x100, out := scr 0x800, ring := 0x30000, t := 2, d := 256, k := 1
    timeout := 100, blockT := 100, ostride := 512, nslot := 1, ringn := 1, logn := 1, snapI := [0, 1], snapW := [0x3F800000, 0x3F800000]
    toks := toks, rtags := ring, trans := [(0x30, 0x30000)], tag := 90, region := 4096 }
def tokNew : Token := { expect := 1 }
def tokSlot (admitted : Nat) (bits flight : BitVec 8) : Token := { expect := 1, slot := some { admitted := admitted, bits := bits, flight := flight } }
def tokDone : Token := { expect := 1, released := true }
def onCb (o : EngOp) (c : CbCtx) : State := (onO o []).modDie 0 fun d => { d with ctxs := [(ctxKey 0 7, c)] }
def opPut : EngOp := opE .xp (.cbput ⟨c0, .uni 2, .imm 1, 7⟩) (scr 0x400) 1
def opClose : EngOp := opE .xp (.cbclose ⟨c0, .imm 7, .vec 0, 0⟩) 0 7
def ctxFree : CbCtx := ctxE [tokNew, tokNew] []
def ctxLate : CbCtx := ctxE [tokNew, tokDone] []
def ctxRinged : CbCtx := ctxE [tokSlot 4900 0 1, tokNew] []
def ctxFull : CbCtx := ctxE [tokSlot 4900 0 1, tokNew] [(1, 0)]
/-- CombineEvents: the row of token 1 has a slot, comes late, or is held with the slots and the ring full. -/
theorem witness_rowAdmission :
  (onCb opPut ctxFree).headCb 0 = some opPut ∧ (onCb opPut ctxFree).readmitting 0 = false ∧ (onCb opPut ctxFree).overdue 0 opPut = false ∧
  ((onCb opPut ctxFree).die 0).ctx ((onCb opPut ctxFree).opCtx opPut) = ctxFree ∧ opPut.ctxNum < (onCb opPut ctxFree).ctxShare 0 ∧
  opPut.b.toNat % 65536 = 1 ∧ opPut.b.toNat / 65536 % 8 = 0 ∧ ctxFree.fate 1 0 false = .slot true ∧ ctxLate.fate 1 0 false = .discard 0 ∧
  (onCb opPut ctxRinged).errs = [] ∧ ctxRinged.fate 1 0 false = .ring ∧ (onCb opPut ctxRinged).readmitting 0 = false ∧ okOf (putPieces (onCb opPut ctxRinged) opPut false ctxRinged) = true ∧
  ctxFull.fate 1 0 false = .hold ∧ (onCb opPut ctxFull).readmitting 0 = false ∧
  okOf (putPieces (onCb opPut ctxFree) opPut false ctxFree) = true := by decide +kernel

/-- The row of token 0 on its way into its slot, and the operation whose it is. -/
def flightE : RowFlight := { id := 45, ctx := ctxKey 0 7, token := 0, rank := 0, op := some 40, core := 0, pieces := [(vaultHome 0 0x400, 512)] }
def onRow : State := (onCb opPut (ctxE [tokSlot 4950 0 1, tokNew] [])).modDie 0 fun d => { d with rowsIn := [flightE] }
def ctxRing : CbCtx := ctxE [tokNew, tokNew] [(1, 0)]
def ctxWhole : CbCtx := ctxE [tokSlot 4950 1 0, tokNew] []
def ctxLapse : CbCtx := ctxE [tokNew, tokSlot 4900 0 0] []
/-- A row that is complete; a ring's head that has a slot; a token that is complete, and one at its timeout of 100 cy. -/
theorem witness_rows :
  ((onRow.die 0).rowsIn.find? (fun y => y.id == 45) = some flightE ∧ (∃ y ∈ onRow.ops, y.id = 40) ∧ flightE.token < ((onRow.die 0).ctx flightE.ctx).toks.length ∧
    (((onRow.die 0).ctx flightE.ctx).tok 0).released = false ∧ (((onRow.die 0).ctx flightE.ctx).tok 0).slot = some { admitted := 4950, flight := 1 } ∧
    ((onRow.die 0).ctx flightE.ctx).timedOut 0 onRow.now = false) ∧
  (ctxRing.rtags = [(1, 0)] ∧ ctxRing.fate 1 0 true = .slot true ∧ ((onCb opPut ctxRing).die 0).ctx (ctxKey 0 7) = ctxRing) ∧
  (0 < ctxWhole.t ∧ (ctxWhole.tok 0).released = false ∧ (ctxWhole.tok 0).complete = true) ∧ ctxLapse.timedOut 1 5000 = true ∧
  ctxLapse.timedOut 1 4999 = false ∧ ctxLapse.policy ≠ 3 := by decide +kernel

/-- A close; a held row whose 100 cy are over; an answered CBPUT; a CBSTAT of context 7. -/
def onHeld : State := (onCb opPut ctxFull).modDie 0 fun d => { d with heldPut := some (40, 4900) }
def gPut : Gang := { gAll .exp with wait := .cbput true }
def statE : Cbstat := { id := 41, lanes := 0xFFFFFFFF, word := 0x04F8008000000005, sel := 5, ctx := 7, pc := 0x1000, pos := 1, since := 4990 }
def gStat : Gang := { gAll .exp with stats := [statE], block := [41], words := [0x04F8008000000005] }
theorem witness_combineEnds :
  ((onCb opClose ctxFree).headCb 0 = some opClose ∧ opClose.ctxNum < (onCb opClose ctxFree).ctxShare 0 ∧
    (((onCb opClose ctxFree).die 0).ctx ((onCb opClose ctxFree).opCtx opClose)).isOpen = true ∧
    (onCb opClose ctxFree).ctxQuiet 0 ((onCb opClose ctxFree).opCtx opClose) = true) ∧
  ((onHeld.die 0).heldPut = some (40, 4900) ∧ ctxFull.fate (opPut.b.toNat % 65536) (opPut.b.toNat / 65536 % 8) false = .hold ∧ onHeld.headCb 0 = some opPut ∧ 4900 + ctxFull.blockT ≤ onHeld.now ∧ onHeld.readmitting 0 = false ∧
    onHeld.launch? opPut.launch = some launch0) ∧
  (on gPut qe).here? = some (gPut, qe) ∧ (on gStat qe).here? = some (gStat, qe) ∧ (on gStat qe).ops = [] ∧ gStat.stats = [statE] ∧ ctxFree.policy ≠ 2 ∧ (onCb opClose ctxFree).errs = [] ∧
  7 < (on gStat qe).ctxShare (dieOf qe.core) := by decide +kernel

/-! ### Launches: states in which their events happen -/

/-- A launch record at offset n of the scratch: one team of 32 threads, 16 and 32 registers, entry 0x1000. -/
def recMem (n : Nat) : List (Nat × Nat × Nat) :=
  [(n, 8, 0x1000), (n + 0xC, 4, 32), (n + 0x10, 8, 5 + 2 ^ 36 + 2 ^ 39), (n + 0x18, 4, 32), (n + 0x1C, 4, 1), (n + 0x20, 4, 1), (n + 0x24, 4, 1),
   (n + 0x28, 4, 1), (n + 0x2C, 4, 1), (n + 0x38, 2, 16), (n + 0x3A, 2, 32)]
def recBytes : List Byte := (scratchMem (recMem 0x400)).readBytes (vaultHome 0 0x400) 128
/-- A pending launch, its record read or not. -/
def pendL (bytes : Option (List Byte)) : PendLaunch :=
  { id := 46, core := 0, die := 0, op := none, fn := 0, asc := 0, addr := BitVec.ofNat 64 (scr 0x400), handle := 8, parent := 7, team := some 3, bytes := bytes }
def onPend (p : PendLaunch) : State := { onO opAcz (recMem 0x400) with pendLaunch := [p], ops := [] }
/-- A TSPAWN of two experts with 65 tokens and none, and with the record as its template. -/
def opSpawn : EngOp := opE .xp (.tspawn ⟨c0, .uni 2, .vec 0, 0⟩) (scr 0x100) 0
def onSpawn : State := onO opSpawn (recMem 0x400 ++ [(0x100, 8, scr 0x400), (0x108, 8, scr 0x500), (0x120, 2, 2), (0x500, 4, 65)])
/-- LaunchEvents: a record in the parent's scratch, and a TSPAWN. -/
theorem witness_recordRead :
  (onPend (pendL none)).pendLaunch.find? (fun x => x.id == 46) = some (pendL none) ∧
  taskRange (onPend (pendL none)) 7 (some 3) 0 { lateral := false } false (pendL none).addr.toNat 128 = .ok [(vaultHome 0 0x400, 128)] ∧
  onSpawn.pendLaunch = [] ∧ onSpawn.ents = [] ∧ onSpawn.ops.find? (fun x => x.id == 40) = some opSpawn ∧ opSpawn.started = false ∧ opSpawn.held = none ∧
  ∃ p, taskPlan onSpawn opSpawn false = .ok p := ⟨rfl, rfl, rfl, rfl, rfl, rfl, rfl, ok_of (by decide +kernel)⟩

def pendGood : PendLaunch := pendL (some recBytes)
/-- The same record with a reserved flag. -/
def pendBad : PendLaunch := pendL (some (recBytes.take 8 ++ [0x10] ++ recBytes.drop 9))
/-- The launch of a pending entry, and the state in which its record is checked. -/
def launchOf (s : State) (p : PendLaunch) : Launch :=
  { handle := p.handle, die := 0, fn := p.fn, asc := p.asc, r := LaunchRec.ofBytes (p.bytes.getD []), parent := p.parent
    pteam := p.team, task := p.task, cmd := p.cmd, accepted := s.now, pc := p.pc, addr := p.addr }
def accepting (s : State) (p : PendLaunch) : State :=
  let s1 : State := { s.modDie 0 (fun d => { d with intakeSince := none, intakeReported := false }) with
    pendLaunch := s.pendLaunch.filter fun x => x.id != p.id }
  let s2 := if p.queued then (s1.entryOp p).serveLaunches p.core 4 else s1.entryOp p
  { s2 with launches := s2.launches ++ [launchOf s p] }
theorem witness_accept :
  (onPend pendGood).nextAccept 0 = some pendGood ∧ (onPend pendGood).tableOcc 0 < 4096 ∧ pendGood.ended = false ∧
  (onPend pendGood).launch? 8 = none ∧ recordFault (accepting (onPend pendGood) pendGood) (launchOf (onPend pendGood) pendGood) recBytes = none ∧
  (readsOf (accepting (onPend pendGood) pendGood) (launchOf (onPend pendGood) pendGood)).fault = none ∧
  (onPend pendBad).nextAccept 0 = some pendBad ∧ (onPend pendBad).ents = [] ∧
  (let p := { pendGood with ended := true }; (onPend p).nextAccept 0 = some p ∧ (onPend p).tableOcc 0 < 4096 ∧ (onPend p).launch? 8 = none) ∧
  recordFault (accepting (onPend pendBad) pendBad) (launchOf (onPend pendBad) pendBad) (pendBad.bytes.getD []) = some (8, 0) := by decide +kernel

/-- A launch with its only team to place; one of 8 roaming threads to admit. -/
def launchP : Launch := { launch0 with st := .placing, next := 0 }
def onPlace : State := { onO opAcz [] with launches := [launchP], squads := [], gangs := [], teams := [], ops := [] }
theorem some_of {α : Type} {x : Option α} (h : x.isSome = true) : ∃ a, x = some a := Option.isSome_iff_exists.mp h
theorem witness_place :
  onPlace.firstIn 0 = some launchP ∧ onPlace.returning launchP.handle 0 = none ∧ ∃ t, onPlace.placeTeam launchP 0 = some t :=
  ⟨by decide +kernel, by decide +kernel, some_of rfl⟩
def launchA : Launch := { launchR with st := .admitting, live := 0 }
def onAdmit : State := { (onPlace.modCore 0 fun c => { c with ringCap := 8 }) with launches := [launchA] }
theorem witness_admission :
  onAdmit.launch? (BitVec.ofNat 64 7) = some launchA ∧
  ((onAdmit.launches.filter fun x => x.fn == launchA.fn && x.admitted).map Launch.demand).foldl (· + ·) 0 + launchA.demand ≤
    onAdmit.poolCapacity (onAdmit.spaceOf launchA.handle).1 ∧ (onAdmit.spaceOf launchA.handle).2.nchip ≤ 1 ∧
  1 < (({ onAdmit with fns := [{ fnP with ascs := [{ ascP with nchip := 2 }] }] } : State).spaceOf launchA.handle).2.nchip := by decide +kernel

/-- A squad whose lanes have all exited, without and with a held fault. -/
def qZ : Squad := { sq [] [] with lanes := List.replicate 32 { st := .exited } }
def qZF : Squad := { qZ with held := [(.cp, { code := 0x28 })] }
theorem witness_retireSquad :
  (on gX qZ).squad? 5 = some qZ ∧ qZ.roam = false ∧ qZ.place = .resident ∧ qZ.liveLanes = 0 ∧ qZ.cnt.drained = true ∧
  (on gX qZ).squadPosts qZ = false ∧ (on gX qZ).lastBusy qZ = false ∧ qZ.held = [] ∧
  (∀ x ∈ (on gX qZ).squads, x.id ≠ 5 → x.team = 3 → x.roam = true) ∧ (∀ c ∈ (on gX qZ).cmds, 3 ∉ c.waits) ∧
  (on gX qZF).squad? 5 = some qZF ∧ (on gX qZF).squadPosts qZF = false ∧ (on gX qZF).lastBusy qZF = false := by decide +kernel

/-- A launch with nothing left, before and after its completion update; one with a host command; one that failed. -/
def launchW : Launch := { launch0 with donewHome := some hw, live := 0 }
def launchC : Launch := { launch0 with cmd := some 47, live := 0 }
def cmdL : Cmd := { id := 47, fn := 0, q := 0, op := 1, tag := 9, irq := true, asc := 0, p := [], head := 1 }
def onOver (l : Launch) : State := { on gX qZ with squads := [], gangs := [], teams := [], launches := [l] }
theorem witness_complete :
  (onOver launchW).launch? (BitVec.ofNat 64 7) = some launchW ∧ (onOver launchW).launchOver launchW = true ∧ (onOver launchW).openCtxs 7 = false ∧
  launchW.donewHome = some hw ∧ launchW.doneUpd = false ∧
  (onOver { launchW with doneUpd := true }).launchOver { launchW with doneUpd := true } = true ∧ (onOver launchW).upds = [] ∧
  (let s : State := { onOver launchC with cmds := [cmdL] }
   s.launchOver launchC = true ∧ launchC.donewHome = none ∧ launchC.cmd = some cmdL.id ∧ s.cmd? 47 = some cmdL ∧ cmdL.parent = none ∧
   ∀ x ∈ s.cmds, x.op ≠ 0x08 ∧ x.op ≠ 0x11) ∧
  (onOver { launch0 with st := .failed }).launchOver { launch0 with st := .failed } = true := by decide +kernel

/-- A spent budget of 2^32 - 1; an intake that has waited for 1,000,000 cy. -/
def launchB : Launch := { launch0 with r := { rec0 with budget := 2 ^ 32 - 1 } }
def onIntake : State := { (on gX qX).modDie 3 (fun d => { d with intakeSince := some 5000 }) with now := 1005000 }
theorem witness_budget :
  (let s : State := { on gX qX with launches := [launchB] }
   s.squad? 5 = some qX ∧ s.launch? qX.launch = some launchB ∧ qX.roam = false ∧ launchB.r.budget ≠ 0 ∧ qX.budget = 0 ∧ qX.place = .resident ∧
   gX ∈ s.gangs ∧ gX.squad = 5) ∧
  (onIntake.die 3).intakeSince = some 5000 ∧ (onIntake.die 3).intakeReported = false ∧ 5000 + 1000000 ≤ onIntake.now := by decide +kernel

/-! ### Saved contexts: states in which their events happen -/

/-- The state that an event leaves. -/
def nextOf (r : Result) (s : State) : State := match r with | .next t => t | _ => s
/-- A squad with lane 0 parked and the others exited; refused once; and one that waits in a SWAPOUT. -/
def qK : Squad := { sq [(2, 5)] [] with vregs := 8, sregs := 16, accs := 0, tiles := 0, lanes := { st := .parked, p := 1, v := [(2, 5), (7, 9)], pc := 0x1008, ff := 3, frec := { code := 0x10, addr := 0x70000 } } ::
                                         List.replicate 31 { st := .exited } }
def qKR : Squad := { qK with refused := true, retry := true }
def qW : Squad := { qK with lanes := { st := .run, p := 1, v := [(2, 5)] } :: List.replicate 31 { st := .exited } }
def qWR : Squad := { qW with refused := true, retry := true }
def gK : Gang := { gn .task 1 with wait := .join hw 0 3 true none, since := 100, active := false }
def ascF : Asc := { id := 0, root := 0x4000, frameBase := 0x100000, frameLen := 0x10000 }
def recK : LaunchRec := { rec0 with tthreads := 1, extents := [1], vregs := 8, sregs := 16 }
def onK (gs : List Gang) (q : Squad) : State :=
  { onO opAcz [] with gangs := gs, squads := [q], ops := [], fns := [{ Fn.reset0 with ascs := [ascF] }]
                      teams := [{ team0 with scratch := 0, threads := 1, bars := List.replicate 16 {} }], launches := [{ launch0 with r := recK }] }

/-- FrameEvents: a partition whose urgent squad may run, and one whose urgent squads have exited. -/
def onUrgent : State := { onK [] qZ with squads := [{ qW with shadow := true }] }
theorem witness_shadow :
  (onUrgent.part 0 0).shadow = false ∧ onUrgent.bankQuiet 0 0 false = true ∧ (onUrgent.part 0 0).swapAt ≤ onUrgent.now ∧
  (∃ q ∈ onUrgent.squads, q.core = 0 ∧ q.part = 0 ∧ q.shadow = true ∧ q.place = .resident ∧ q.liveLanes ≠ 0) ∧
  (let s := (onK [] { qZ with shadow := true }).modPart 0 0 fun p => { p with shadow := true }
   (s.part 0 0).shadow = true ∧ ∀ q ∈ s.squads, q.core = 0 → q.part = 0 → q.shadow = true → q.place = .resident → q.liveLanes = 0) := by decide +kernel

/-- A save that is due begins: first, and again after a refusal. -/
theorem witness_saveBegins :
  ((onK [] qK).squad? 5 = some qK ∧ qK.roam = false ∧ qK.place = .resident ∧ qK.saving = none ∧ qK.refused = false ∧ ({ qK with refused := true, refKind := 3 } : Squad).refKind ≠ 2 ∧
    (onK [] qK).faultSaveDue qK = true ∧ okOf ((onK [] qK).allocFrame qK.launch qK.layout.size (some qK.id) none) = true) ∧
  ((onK [gK] qW).swapOutDue qW = true ∧ qW.refused = false ∧ okOf ((onK [gK] qW).allocFrame qW.launch qW.layout.size (some qW.id) none) = true) ∧
  (qKR.refused = true ∧ qKR.retry = true ∧ (onK [] qKR).faultSaveDue qKR = true) ∧
  ((onK [gK] qWR).swapOutDue qWR = true ∧ (onK [gK] qWR).faultSaveDue qWR = false) := by decide +kernel

/-- The states in which those saves are written. -/
def onK1 : State := nextOf (exec (.faultSave 5) (onK [] qK)) State.reset
def onW1 : State := nextOf (exec (.swapOut 5) (onK [gK] qW)) State.reset
def squadOf (s : State) : Squad := (s.squad? 5).getD qK
theorem witness_saveWritten :
  (onK1.squad? 5 = some (squadOf onK1) ∧ (squadOf onK1).saving = some 2 ∧ onK1.quiesced (squadOf onK1) = true ∧ (squadOf onK1).accErrs = [] ∧
    onK1.frameOf (squadOf onK1) = some 0x100000 ∧ okOf (onK1.writeSquad (squadOf onK1)) = true) ∧
  (onW1.squad? 5 = some (squadOf onW1) ∧ (squadOf onW1).saving = some 3 ∧ onW1.quiesced (squadOf onW1) = true ∧
    onW1.frameOf (squadOf onW1) = some 0x100000 ∧ okOf (onW1.writeSquad (squadOf onW1)) = true) := by decide +kernel

/-- A frame at 0x100000 for a squad of 8 vector and 16 uniform registers, field by field where R26 puts them: KIND, FVER, masks of existing
and parked lanes, the launch, register counts, the areas, the exited lanes, the PCs and V2 of lane 0, V7 of lane 0, U1, the predicates. -/
def frameMem (m : Memory) (kind parked : Nat) : Memory :=
  [(0x00, 1, kind), (0x01, 1, 1), (0x04, 4, 0xFFFFFFFF), (0x08, 4, parked), (0x10, 8, 7), (0x24, 2, 8), (0x26, 2, 16), (0x50, 1, 3),
   (0x90, 4, 0x200), (0x94, 4, 0x600), (0x98, 4, 0x640), (0x9C, 4, 0x6C0), (0xA0, 4, 0x700), (0xA4, 4, 0x700), (0xA8, 4, 0xB00),
   (0xAC, 4, 0xF00), (0xB4, 4, 0xB00), (0xB8, 4, 0xFFFFFFFE), (0x100, 8, 0x1008), (0x300, 4, 5), (0x580, 4, 9), (0x604, 4, 77),
   (0x640, 4, 1)].foldl (fun (m : Memory) (x : Nat × Nat × Nat) => m.writeN (0x100000 + x.1) x.2.1 x.2.2) m
def savedOf (q : Squad) (kind : Nat) : Squad :=
  { q with place := .saved kind 0x100000, eligible := true, lanes := q.lanes.map fun x => { x with covered := true } }
def onSaved (q : Squad) (kind parked : Nat) : State :=
  let s := onK [] (savedOf q kind)
  { s with mem := frameMem s.mem kind parked, frames := [{ launch := 7, fn := 0, asc := 0, va := 0x100000, len := 0xF00, squad := some 5 }] }
def onK2 : State := onSaved qK 2 1
def onW2 : State := onSaved qW 3 0
/-- The state whose frame a restore reads. -/
def chosen (s : State) : Option State := (s.chooseFrom (s.partsFor 0 3 false recK.footprint 0)).map (·.2)
theorem witness_restore :
  ((squadOf onK2).place = .saved 2 0x100000 ∧ (squadOf onK2).restorable = true ∧ onK2.eventHeld (squadOf onK2) = false ∧ (onK2.team? 3).map (·.saved) = some none ∧
    (onK2.team? 3).map onK2.preempting = some false ∧ (chosen onK2).map (fun z => okOf (z.readSquad (squadOf onK2))) = some true) ∧
  ((squadOf onW2).place = .saved 3 0x100000 ∧ (squadOf onW2).restorable = true ∧ onW2.eventHeld (squadOf onW2) = false ∧
    (chosen onW2).map (fun z => okOf (z.readSquad (squadOf onW2))) = some true) := by decide +kernel

/-- A team that is pre-empted, with its squad stopped. -/
def onT0 : State := { onK [] qW with
  squads := [{ qW with vregs := 0, sregs := 0 }]
  teams := [{ team0 with scratch := 0, threads := 1, bars := List.replicate 16 {}, preempt := some (48, false) }], cmds := [] }
def onT1 : State := onT0.beginTeam 3
def teamOf (s : State) : Team := (s.team? 3).getD team0
def qT : Squad := squadOf onT1
/-- The frame of its squad. -/
def frameT : List Byte := frameBytes qT (teamOf onT1) 1 0 (0, (0, 0)) ((List.range 32).map fun l => onT1.laneFrame qT l)
/-- The state when that frame is written: memory m, and the squad saved. -/
def onTm (m : Memory) : State :=
  { onT1 with mem := m, squads := onT1.squads.map fun (x : Squad) => if x.id = 5 then x.put 1 0x100000 ((List.range 32).map fun l => onT1.laneFrame qT l) else x }

theorem swapHome_none {s : State} {q : Squad} (h : q.swapWord = none) : s.swapHome q = none := by simp [State.swapHome, h]
theorem writeHome_quiet (s : State) (home : Nat) (bs : List Byte) (hg : s.gangs = []) (hq : ∀ q ∈ s.squads, q.swapWord = none) (he : s.errs = []) :
    s.writeHome home bs false = { s with mem := s.mem.writeBytes home bs } := by
  have hw : s.watched = [] := by
    simp only [State.watched, hg, List.filterMap_nil, List.nil_append]
    rw [List.filterMap_eq_nil_iff.2 fun q h => swapHome_none (hq q h)]; rfl
  unfold State.writeHome State.commit
  simp only [hw, hg, List.filter_nil, List.filterMap_nil, List.map_nil]
  congr 1
  case e_errs => simp [State.wholeWords, he]
  refine (List.map_congr_left (g := id) fun q h => ?_).trans (List.map_id _)
  simp [swapHome_none (hq q h)]

theorem writeSquad_quiet (s : State) (q : Squad) (t : Team) (va home : Nat) (ls : List LaneFrame) (hg : s.gangs = [])
    (hq : ∀ q ∈ s.squads, q.swapWord = none) (hk : q.saving = some 1) (hl : ls = (List.range 32).map fun l => s.laneFrame q l)
    (hh : q.held = []) (hf : s.frameOf q = some va) (ht : s.team? q.team = some t) (hw : s.frameWait q 1 = none)
    (hs : s.squad? q.id = some q) (hwalk : s.walks = []) (he : s.errs = []) (bs : List Byte) (hb : bs = frameBytes q t 1 (s.waitingLanes q false) (0, (0, 0)) ls)
    (hr : frameRange s q.launch true va bs.length = .ok [(home, bs.length)]) :
    s.writeSquad q = .ok { s with mem := s.mem.writeBytes home bs, squads := (s.modSquad q.id fun x => x.put 1 va ls).squads } := by
  have hw1 : s.frameWrite q.launch va bs = .ok { s with mem := s.mem.writeBytes home bs } := by
    simp [State.frameWrite, hr, writeHome_quiet s home bs hg hq he]
  unfold State.writeSquad
  simp [hk, hw, hg, hh, placeFaults, hf, ht, hs, ← hl, ← hb, hw1, hwalk, pure, Except.pure]
  rfl

theorem writeBytes_append (m : Memory) (a : Nat) (xs ys : List Byte) :
    m.writeBytes a (xs ++ ys) = (m.writeBytes a xs).writeBytes (a + xs.length) ys := by
  induction xs generalizing m a with
  | nil => rfl
  | cons x xs ih => simp [Memory.writeBytes, ih, Nat.add_assoc, Nat.add_comm 1]

/-- The fields of that frame that are not zero, as R26 and R27 place them for a squad without vector and uniform registers. -/
def memT : Memory :=
  [(0x00, 1, 1), (0x01, 1, 1), (0x04, 4, 0xFFFFFFFF), (0x10, 8, 7), (0x22, 1, 0xFF), (0x90, 4, 0x200), (0x94, 4, 0x200),
   (0x98, 4, 0x200), (0x9C, 4, 0x280), (0xA0, 4, 0x2C0), (0xA4, 4, 0x2C0), (0xA8, 4, 0x700), (0xAC, 4, 0xB00), (0xB4, 4, 0x700),
   (0xB8, 4, 0xFFFFFFFE), (0x200, 4, 1)].foldl (fun (m : Memory) (x : Nat × Nat × Nat) => m.writeN (0x100000 + x.1) x.2.1 x.2.2) onT0.mem
theorem frameT_length : frameT.length = 2816 := by decide +kernel
theorem frameT_front : onT0.mem.writeBytes 0x100000 (frameT.take 1400) = memT := by decide +kernel
theorem frameT_back : memT.writeBytes (0x100000 + 1400) (frameT.drop 1400) = memT := by decide +kernel
theorem memT_eq : onT1.mem.writeBytes 0x100000 frameT = memT := by
  have h : (frameT.take 1400).length = 1400 := by simp [frameT_length]
  rw [← List.take_append_drop 1400 frameT, writeBytes_append, h, show onT1.mem = onT0.mem from rfl, frameT_front, frameT_back]
theorem writeSquad_T : onT1.writeSquad qT = .ok (onTm memT) := by
  rw [writeSquad_quiet onT1 qT (teamOf onT1) 0x100000 0x100000 _ (by decide +kernel) (by decide +kernel) (by decide +kernel) rfl
    (by decide +kernel) (by decide +kernel) (by decide +kernel) (by decide +kernel) (by decide +kernel) (by decide +kernel) (by decide +kernel) frameT rfl
    (by rw [frameT_length]; rfl), memT_eq]
  rfl
theorem witness_teamSave :
  onT1.team? 3 = some (teamOf onT1) ∧ (teamOf onT1).saved = none ∧ (teamOf onT1).retired = false ∧
  (teamOf onT1).preempt.isSome = true ∧ onT1.ents = [] ∧ qT.accErrs = [] ∧ onT1.teamBusy 3 = false ∧ onT1.residents 3 = [qT] ∧
  (∀ q ∈ onT1.residents 3, q.saving = some 1 ∧ onT1.quiesced q = true) ∧ (onT1.squad? qT.id).getD qT = qT := by decide +kernel
theorem witness_teamWritten : okOf ((onTm memT).writeTeam (((onTm memT).team? 3).getD (teamOf onT1))) = true := by decide +kernel

/-- That team and its squad saved: the squad's frame at 0x100000 and the team's at 0x100B00, with the fields of R30 that are not zero. -/
def onT2 : State :=
  { onTm ([(0x00, 1, 1), (0x04, 4, 1), (0x08, 8, 7), (0x1C, 4, 1), (0x20, 4, 0x700), (0x24, 4, 0x780), (0x28, 4, 0x800), (0x2C, 1, 1),
      (0x100, 8, 0x100000)].foldl (fun (m : Memory) (x : Nat × Nat × Nat) => m.writeN (0x100B00 + x.1) x.2.1 x.2.2) memT) with
    teams := [{ teamOf onT0 with preempt := none, saved := some 0x100B00 }] }
/-- The part of a restore that finds places for the squads. -/
def seated (s : State) : Option (List (Squad × Nat × Nat × Nat) × State) := do
  let l ← s.launch? 7
  let x ← s.teamBases (s.teamCores 0 1) 0
  x.2.seats l (s.teamCores 0 1) s.squads
theorem witness_teamRestore :
  onT2.mayReturn (teamOf onT2) = true ∧ onT2.firstIn 0 = onT2.launch? 7 ∧ onT2.returning 7 0 = some (teamOf onT2) ∧ onT2.heldInTeam 3 = false ∧
  (onT2.squads.map (·.id)).Nodup ∧ (seated onT2).isSome = true ∧ onT2.errs = [] ∧
  (match (teamOf onT2).saved with
   | some frame =>
     (match onT2.frameRead 7 frame.toNat 0x700, onT2.frameRead 7 (frame.toNat + 0x700) 128 with
      | some head, some bars => teamFault (teamOf onT2) head bars ((stackMarks onT2 7 (frame.toNat + 0x780) 1).2 - frame.toNat) == none
      | _, _ => false)
   | none => false) = true ∧
  (match seated onT2 with
   | some x => okOf (x.1.foldlM (fun (acc : List (List Byte)) x => (onT2.readSquad x.1).map fun bs => acc ++ [bs]) [])
   | none => false) = true := by decide +kernel

/-- A refused team whose squads are all saved. -/
theorem witness_teamRetry :
  let t : Team := { teamOf onT0 with refused := true, retry := true }
  let s : State := { onT0 with squads := [savedOf qW 3], teams := [t] }
  s.squad? 99 = none ∧ s.team? 3 = some t ∧ t.saved = none ∧ t.retired = false ∧ s.residents 3 = [] := by decide +kernel

/-- A partition whose only gang has waited for 1,000,000 cy. -/
def onStuck : State := { onK [{ gK with since := 5000 }] qW with now := 1005000 }
theorem witness_noProgress :
  onStuck.residentGangs 0 0 ≠ [] ∧ (onStuck.part 0 0).reported = false ∧ (onStuck.part 0 0).issued + 1000000 ≤ onStuck.now ∧
  (∀ x ∈ onStuck.residentGangs 0 0, x.1.waits = true ∧ (x.1.wait ≠ .none → x.1.since + 1000000 ≤ onStuck.now)) ∧
  (onStuck.fns.find? (fun f => f.owns 0)).map (·.id) = some 0 := by decide +kernel
/-- And one whose only gang stands in a clause behind a remote load that has not returned. -/
def onBlocked : State := { onK [{ gK with wait := .none, block := [70] }] qW with now := 1005000 }
theorem witness_noProgressBlocked :
  onBlocked.residentGangs 0 0 ≠ [] ∧ (onBlocked.part 0 0).issued + 1000000 ≤ onBlocked.now ∧
  (∀ x ∈ onBlocked.residentGangs 0 0, x.1.waits = true ∧ (x.1.wait ≠ .none → x.1.since + 1000000 ≤ onBlocked.now)) := by decide +kernel

/-! ### The host -/

def qH : Queue := { q := 0, ring := 0x100000, cring := 0x180000, log := 4, head := 3, tail := 4 }
def q2 : Queue := { q := 2, ring := 0x200000, cring := 0x280000, log := 16 }
def fnH : Fn :=
  { Fn.reset0 with
    enable := true, ready := true, aqbase := 0x100000, acbase := 0x180000, aqlog := 4, evbase := 0x300000, evlog := 4, queues := [qH, q2], ascs := [ascF] }
def bootH : Boot := { step := 5, pcie := true, portsTrained := true, ports := 0xFF, ucie := 15 }
/-- The 64 bytes of an entry: OP, flags, TAG, ASC, and its arguments from byte 8 (R413). -/
def entry (op flags : Nat) (args : List Nat) : List Byte :=
  toBytes 1 op ++ toBytes 1 flags ++ toBytes 2 0x1234 ++ toBytes 4 0 ++ ((List.range 7).map fun k => toBytes 8 (args.getD k 0)).flatten
/-- Bring-up has ended, queue 0 of function 0 holds that entry, and the first GiB of its context is mapped to the slices. -/
def host (op : Nat) (args : List Nat) : State :=
  { State.reset with
    boot := bootH, fns := [fnH], now := 5000, nextId := 100, nextHandle := 9
    mem := (((⟨[]⟩ : Memory).writeN 0x4000 8 0x5001).writeN 0x5000 8 7).writeBytes (hostHome (0x100000 + 64 * 3)) (entry op 1 args) }
def startsHere (op : Nat) (args : List Nat) : Prop := Starts (host op args) op fnH qH (entry op 1 args)
/-- The command of that entry, and the state in which it runs. -/
def cmdOf (op : Nat) (args : List Nat) : Cmd := entryCmd (host op args) fnH qH (entry op 1 args)
def begunOf (op : Nat) (args : List Nat) : State := begun (host op args) fnH qH (entry op 1 args)
def rangeOk (op : Nat) (args : List Nat) (write : Bool) (va n align : Nat) : Bool := okOf (cmdRange (begunOf op args) (cmdOf op args) write va n align)

/-- Starts, as a check; sufficient where no command of the entry's own queue runs. -/
def startsB (s : State) (op : Nat) (f : Fn) (bs : List Byte) : Bool :=
  decide (s.headEntry? = some (f, qH, bs)) && decide (f.id = 0) && decide (fieldAt bs 0 1 = op) && decide (fieldAt bs 1 1 < 4) && decide (fieldAt bs 4 4 < 64) &&
  s.cmds.all fun (x : Cmd) => decide (x.id < s.nextId) && decide (x.op ≠ 0x11) && decide (x.q ≠ 0)
theorem starts_of {s : State} {op : Nat} {f : Fn} {bs : List Byte} (h : startsB s op f bs = true) : Starts s op f qH bs := by
  simp only [startsB, Bool.and_eq_true, decide_eq_true_eq, List.all_eq_true] at h
  obtain ⟨⟨⟨⟨⟨h1, h0⟩, h2⟩, h3⟩, h4⟩, h5⟩ := h
  exact ⟨h1, h2, h3, h4, fun _ => rfl, fun _ => h0, fun _ x hx _ hq => absurd hq (h5 x hx).2, fun x hx => (h5 x hx).1⟩

/-- HostRegisters: function 0 disabled and enabled; its queue 0 before a doorbell, at either end of what the ring holds and past it; an event
that has room. -/
theorem witness_registers :
  (host 0 []).hostSees 0 = true ∧ (host 0 []).fn? 0 = some fnH ∧ fnH.enable = true ∧
  (({ host 0 [] with fns := [{ fnH with enable := false }] } : State).fn? 0).map (·.enable) = some false ∧
  (4 ≤ fnH.aqlog.toNat ∧ fnH.aqlog.toNat ≤ 16) ∧ ¬(4 ≤ (3 : BitVec 5).toNat) ∧ ¬((17 : BitVec 5).toNat ≤ 16) := by decide +kernel
theorem witness_doorbell :
  (host 0 []).queue? 0 0 = some qH ∧ qH.stopped = false ∧
  (let back (v : W32) := (v - BitVec.ofNat 32 qH.tail).msb
   let past (v : W32) := decide (2 ^ qH.log < (v - BitVec.ofNat 32 qH.head).toNat)
   back 4 = false ∧ past 4 = false ∧ back 19 = false ∧ past 19 = false ∧ past 20 = true ∧ back 3 = true) := by decide +kernel
def evH : Event := { fn := 0, kind := 6, die := 1, frame := 2 }
theorem witness_eventWrite :
  (let s : State := { host 0 [] with events := [evH] }
   s.events.find? (fun (e : Event) => e.fn == 0) = some evH ∧ 1 + evH.more ≤ fnH.evFree) := by decide +kernel

/-- HostCommands: entries that no command names, with a reserved flag or an address-space context above 63. -/
theorem witness_refused :
  (host 0x0B []).headEntry? = some (fnH, qH, entry 0x0B 1 []) ∧ (host 0x0B []).cmds = [] ∧ opListed (fieldAt (entry 0x0B 1 []) 0 1) = false ∧
  opListed (fieldAt (entry 0x00 1 []) 0 1) = false ∧ opListed (fieldAt (entry 0x15 1 []) 0 1) = false ∧
  4 ≤ fieldAt (entry 0x14 4 []) 1 1 := by decide +kernel
theorem starts_plain :
  startsHere 0x01 [0x10000, 0] ∧ startsHere 0x01 [0x10080, 0x20008] ∧ startsHere 0x02 [0x10000, 0] ∧ startsHere 0x03 [0x10000, 0x20000, 16] ∧
  startsHere 0x04 [0x10008, 5, 0] ∧ startsHere 0x04 [0x10010, 5, 1] ∧ startsHere 0x05 [0x10008, 0, 1] ∧ startsHere 0x05 [0x10008, 1, 1] :=
  ⟨starts_of (by decide +kernel), starts_of (by decide +kernel), starts_of (by decide +kernel), starts_of (by decide +kernel), starts_of (by decide +kernel), starts_of (by decide +kernel), starts_of (by decide +kernel), starts_of (by decide +kernel)⟩
theorem witness_plain :
  (cmdOf 0x01 [0x10000, 0]).arg 1 = 0 ∧ rangeOk 0x01 [0x10000, 0] false 0x10000 128 128 = true ∧
  rangeOk 0x01 [0x10080, 0x20008] true 0x20008 8 8 = true ∧ rangeOk 0x01 [0x10080, 0x20008] false 0x10080 128 128 = true ∧
  rangeOk 0x02 [0x10000, 0] false 0x10000 0 64 = true ∧ graphOk [] 0 = true ∧
  rangeOk 0x03 [0x10000, 0x20000, 16] false 0x10000 16 1 = true ∧ rangeOk 0x03 [0x10000, 0x20000, 16] true 0x20000 16 1 = true ∧
  rangeOk 0x04 [0x10008, 5, 0] true 0x10008 8 8 = true ∧ rangeOk 0x04 [0x10010, 5, 1] true 0x10010 16 16 = true ∧
  rangeOk 0x05 [0x10008, 0, 1] false 0x10008 8 8 = true ∧
  waitValue (host 0x05 [0x10008, 0, 1]).mem (cmdOf 0x05 [0x10008, 0, 1]) 0x10008 = some 0 ∧
  waitValue (host 0x05 [0x10008, 1, 1]).mem (cmdOf 0x05 [0x10008, 1, 1]) 0x10008 = none := by decide +kernel

/-- Words of SIGNAL and WAIT: of the global aperture and of a vault. -/
def wordOk (op : Nat) (args : List Nat) (write : Bool) (va n : Nat) : Bool := okOf (cmdWord (begunOf op args) (cmdOf op args) write va n)
theorem witness_words :
  wordOk 0x04 [0x10008, 5, 0] true 0x10008 8 = true ∧ wordOk 0x04 [latBase + 0x100, 5, 1] true (latBase + 0x100) 16 = true ∧
  wordOk 0x05 [latBase + 0x100, 0, 0] false (latBase + 0x100) 16 = true ∧ wordOk 0x05 [0x10008, 0, 1] false 0x10008 8 = true ∧
  (host 0x04 []).errs = [] := by decide +kernel
theorem starts_words : startsHere 0x04 [latBase + 0x100, 5, 1] ∧ startsHere 0x05 [latBase + 0x100, 0, 0] :=
  ⟨starts_of (by decide +kernel), starts_of (by decide +kernel)⟩

/-- A graph of one node without edges, of the kind given, with its parameters. -/
def graph1 (kind : Nat) (p : List Nat) : List Byte :=
  toBytes 8 kind ++ ((List.range 3).map fun k => toBytes 8 (p.getD k 0)).flatten ++ toBytes 32 (2 ^ 256 - 1)
def onGraph (kind : Nat) : State :=
  { host 0x02 [0x10000, 1] with mem := (host 0x02 [0x10000, 1]).mem.writeBytes 0x10000 (graph1 kind []) }
theorem starts_graph : Starts (onGraph 0) 0x02 fnH qH (entry 0x02 1 [0x10000, 1]) ∧ Starts (onGraph 6) 0x02 fnH qH (entry 0x02 1 [0x10000, 1]) :=
  ⟨starts_of (by decide +kernel), starts_of (by decide +kernel)⟩
theorem witness_graph :
  okOf (cmdRange (begun (onGraph 0) fnH qH (entry 0x02 1 [0x10000, 1])) (cmdOf 0x02 [0x10000, 1]) false 0x10000 64 64) = true ∧
  (onGraph 0).mem.readBytes 0x10000 64 = graph1 0 [] ∧ graphOk (graph1 0 []) 1 = true ∧ graphOk (graph1 6 []) 1 = false := by decide +kernel

theorem starts_admin :
  startsHere 0x10 [1, 0x400000, 0x500000, 4] ∧ startsHere 0x10 [31, 0x400000, 0x500000, 16] ∧ startsHere 0x10 [0, 0, 0, 4] ∧
  startsHere 0x10 [1, 0, 0, 17] ∧ startsHere 0x11 [2] ∧ startsHere 0x12 [1, 0x4000, 0x100000, 0, 0, 0x100000, 0x1000] ∧
  startsHere 0x12 [1, 0x4000, 0, 0x20001, 0x700000] ∧ startsHere 0x13 [0, 0xFFFF, 256, 1, 64, 0, 256] ∧ startsHere 0x13 [16, 1, 0, 32, 1, 1, 0] ∧ startsHere 0x14 [1] :=
  ⟨starts_of (by decide +kernel), starts_of (by decide +kernel), starts_of (by decide +kernel), starts_of (by decide +kernel), starts_of (by decide +kernel), starts_of (by decide +kernel), starts_of (by decide +kernel), starts_of (by decide +kernel), starts_of (by decide +kernel), starts_of (by decide +kernel)⟩
theorem witness_queues :
  (cmdOf 0x10 [1, 0x400000, 0x500000, 4]).arg 3 = 4 ∧ (host 0x10 []).queue? 0 1 = none ∧ (host 0x10 []).queue? 0 31 = none ∧
  (cmdOf 0x11 [2]).arg 0 = 2 ∧ (host 0x11 [2]).queue? 0 2 = some q2 ∧ (host 0x11 [2]).cmds = [] := by decide +kernel
/-- A DELETE of a queue that a command of its own still uses. -/
def cmdH : Cmd := { id := 50, fn := 0, q := 2, op := 0x05, tag := 0, irq := false, asc := 0, p := [], head := 0 }
def onDelete : State := { host 0x11 [2] with mem := (host 0x11 [2]).mem.writeBytes (hostHome (0x100000 + 64 * 3)) (entry 0x11 0 [2]), cmds := [cmdH] }
theorem witness_deleteWaits : Starts onDelete 0x11 fnH qH (entry 0x11 0 [2]) ∧ ∃ x ∈ onDelete.cmds, x.fn = 0 ∧ x.q = 2 :=
  ⟨starts_of (by decide +kernel), by decide⟩

/-- SETASC and CONFIG at the ends of their ranges. -/
theorem witness_setasc :
  (host 0x12 []).inFlight (fun x a => x == 0 && a == 1) = false ∧
  (let c := cmdOf 0x12 [1, 0x4000, 0x100000, 0, 0, 0x100000, 0x1000]
   (c.arg 2).toNat ≤ 2 ^ 20 ∧ (c.arg 2).toNat % 256 = 0 ∧ (c.arg 5).toNat % 4096 = 0 ∧ (c.arg 6).toNat % 4096 = 0) ∧
  (let c := cmdOf 0x12 [1, 0x100000, 0, 0x20001, 0x700000]
   (c.arg 1).toNat % 2 ^ 20 = 0 ∧ (c.arg 3).toNat % 1024 = 1 ∧ (c.arg 3).toNat / 2 ^ 16 % 1024 = 2) := by decide +kernel
def configArgs (n : Nat) : List Nat := [n, 1, 256, 1, 64, 0, 256]
/-- The function with its admin queue alone, which CONFIG may change. -/
def fn1 : Fn := { fnH with queues := [qH] }
def onConfig : State := { host 0x13 (configArgs 0) with fns := [fn1] }
theorem witness_config :
  let z := begun onConfig fn1 qH (entry 0x13 1 (configArgs 0))
  let z' : State := { z with fns := configFns z 0 1 64 false }
  startsB onConfig 0x13 fn1 (entry 0x13 1 (configArgs 0)) = true ∧ onConfig.inFlight (fun x _ => x == 0) = false ∧
  (∀ y ∈ onConfig.fns, ∀ x ∈ y.queues, x.q = 0) ∧ onConfig.fn? 0 = some fn1 ∧
  256 * 2 ^ 20 + 128 * 256 ≤ 2 ^ 31 ∧ (∀ d, d < 4 → z'.slotRegion d ≤ 256 * 2 ^ 20 ∧ z'.slotRegion d = z.slotRegion d) ∧
  (∀ y ∈ onConfig.fns, y.id = 0) ∧ onConfig.launches = [] ∧ onConfig.fn? 16 = none := by decide +kernel

/-- CommandsGoOn: a WAIT, and graphs with one node of each kind that is ready. -/
def cmdWt : Cmd := { id := 60, fn := 0, q := 2, op := 0x05, tag := 0, irq := false, asc := 0, p := [0x10008, 7, 1], head := 0, waits := [0x10008] }
def onWait : State := { host 0 [] with cmds := [cmdWt], mem := (host 0 []).mem.writeN 0x10008 8 7 }
theorem witness_wait :
  onWait.cmd? 60 = some cmdWt ∧ cmdWt.waits = [0x10008] ∧ cmdWt.parent = none ∧ waitValue onWait.mem cmdWt 0x10008 = some 7 := by decide +kernel
def cmdG (kind : Nat) (p : List Nat) : Cmd :=
  { id := 61, fn := 0, q := 2, op := 0x02, tag := 0, irq := false, asc := 0, p := [0x10000, 1], head := 0, graph := graph1 kind p, nodes := [(.waiting, 0, 0)] }
def onReady (kind : Nat) (p : List Nat) : State := { host 0 [] with cmds := [cmdG kind p] }
theorem witness_ready :
  (∀ k ∈ [0, 1, 2, 3, 4, 5], (onReady k [0x10008]).cmd? 61 = some (cmdG k [0x10008]) ∧ (cmdG k [0x10008]).nodes[0]? = some (.waiting, 0, 0) ∧
    nodePreds (cmdG k [0x10008]).graph 0 = 0 ∧ nodeKind (cmdG k [0x10008]).graph 0 = k) ∧
  okOf (cmdRange ((onReady 2 [0x10008]).modCmd 61 fun x => x.setNode 0 .running) (cmdG 2 [0x10008]) false 0x10008 8 8) = true ∧
  (((cmdG 0 []).setNode 0 .running).nodeDone 0 true false).graphDone = true ∧ (cmdG 0 []).failed = none := by decide +kernel

/-- SchedulingCommands. -/
def cmdInv : Cmd := { id := 62, fn := 0, q := 0, op := 0x06, tag := 0, irq := false, asc := 0, p := [0, 0x1000], head := 0 }
def onInv : State := { host 0 [] with cmds := [cmdInv] }
theorem witness_invalidateEnds :
  onInv.cmds.find? (fun (x : Cmd) => x.op == 0x06 && x.fn == onInv.cmdSel.1 && x.q == onInv.cmdSel.2 && !x.waits.any onInv.lives) = some cmdInv ∧
  onInv.cmd? 62 = some cmdInv ∧ cmdInv.parent = none := by decide +kernel
/-- A RESUME that waits for a squad, and the end of one whose items have gone on. -/
def cmdRes : Cmd := { id := 63, fn := 0, q := 0, op := 0x07, tag := 0, irq := false, asc := 0, p := [0x70000, 1], head := 0, waits := [5], count := 1 }
theorem witness_resumeEnds :
  let s : State := { host 0 [] with cmds := [cmdRes] }
  s.cmds.find? (fun (x : Cmd) => x.op == 0x07 && x.fn == s.cmdSel.1 && x.q == s.cmdSel.2 && !x.waits.any s.resuming) = some cmdRes ∧
  s.cmd? 63 = some cmdRes ∧ cmdRes.parent = none ∧ (∀ x ∈ s.cmds, x.op ≠ 0x11) ∧
  ({ s with squads := [{ qK with lanes := qK.lanes.map fun x => { x with covered := true } }] } : State).resuming 5 = true := by decide +kernel
/-- A host whose function has launch 7 with one squad, which the entry concerns. -/
def hostK (op : Nat) (args : List Nat) (q : Squad) : State :=
  { host op args with squads := [q], teams := [{ team0 with scratch := 0, threads := 1, bars := List.replicate 16 {} }], launches := [{ launch0 with r := recK }] }
theorem starts_sched :
  Starts (hostK 0x06 [0x70000, 1] qK) 0x06 fnH qH (entry 0x06 1 [0x70000, 1]) ∧ Starts (hostK 0x07 [0x70000, 1] qK) 0x07 fnH qH (entry 0x07 1 [0x70000, 1]) ∧
  Starts (hostK 0x08 [7, 1] qW) 0x08 fnH qH (entry 0x08 1 [7, 1]) ∧ Starts (hostK 0x09 [7] qW) 0x09 fnH qH (entry 0x09 1 [7]) ∧
  Starts (hostK 0x0A [0x10000, 46] qW) 0x0A fnH qH (entry 0x0A 1 [0x10000, 46]) :=
  ⟨starts_of (by decide +kernel), starts_of (by decide +kernel), starts_of (by decide +kernel), starts_of (by decide +kernel), starts_of (by decide +kernel)⟩
theorem witness_resume :
  let s := hostK 0x07 [0x70000, 1] qK
  (∀ x ∈ s.squads, x.refused = false) ∧ (s.squads.map (·.id)).Nodup ∧ s.inSpace 0 0 7 = true ∧ 0 ∈ lanesOf qK.parkedLanes ∧ (qK.lane 0).covered = false ∧
  (qK.lane 0).frec.addr.toNat = 0x70000 ∧ (∀ x ∈ s.cmds, x.op ≠ 0x07) ∧ s.ops = [] ∧ s.upds = [] ∧ s.walks = [] ∧ s.reqs = [] ∧ s.ents = [] ∧
  (∀ d ∈ s.dies, ∀ x ∈ d.ctxs, x.2.isOpen = false) ∧ (savedOf qK 2).place ≠ .resident := by decide +kernel
theorem witness_preempt :
  let s := hostK 0x08 [7, 1] qW
  s.launch? 7 = some { launch0 with r := recK } ∧ recK.roam = false ∧
  (∀ x ∈ s.teams, x.launch = 7 → x.retired = false → x.saved = none → x.preempt = none) ∧ s.teams.length = 1 ∧
  (∀ x ∈ ({ s with teams := [] } : State).teams, x.launch = 7 → x.retired = true ∨ x.saved.isSome = true) := by decide +kernel
theorem witness_summary : 0x10000 % 4096 = 0 ∧ 0x10001 % 4096 ≠ 0 := by decide

/-! ### Bring-up and the module -/

def onBoot (step : Nat) (flash : Nat) : State := { host 0 [] with boot := { step := step, flash := flash, pcie := false } }
theorem witness_bringup :
  (onBoot 0 2).boot.step = 0 ∧ (onBoot 1 2).dies.length = 4 ∧ ((onBoot 1 2).die 3).clock0 = none ∧
  (onBoot 2 2).boot.recovery = false ∧ (onBoot 2 0).boot.flash = 0 ∧ (onBoot 2 1).boot.flash = 1 ∧ (onBoot 3 2).boot.step = 3 ∧
  (onBoot 4 2).boot.portsTrained = false ∧ (host 0 []).boot.ports.getLsbD 7 = true ∧ (host 0 []).hostSees 0 = true ∧
  (host 0 []).launches = [] ∧ (onK [] qK).launches ≠ [] ∧ (host 0 []).boot.imglen.toNat ≤ 2 ^ 26 ∧ ¬(4097 % 4096 = 0) := by decide +kernel
/-- A launch whose request is on its way from die 0 to die 1, whose link is up and down, and one whose leaf crosses to the opposite die. -/
def reqX : Req := { reqR with pieces := [{ lane := 0, home := 96 * 2 ^ 31, n := 4 }] }
def onLinks (ucie : BitVec 4) : State := { on gX qX with reqs := [reqX], boot := { bootH with ucie := ucie } }
theorem witness_links :
  (∀ u ∈ [(0xF : BitVec 4), 0xE], (onLinks u).traffic 7 = [(0, 1)]) ∧ (List.range 4).any (fun k => (onLinks 0xF).onLink k 7) = true ∧
  (List.range 4).any (fun k => (onLinks 0xF).takesLink k 0 1 == some false) = true ∧
  ((onLinks 0xF).squads.map (·.id)).Nodup ∧ (List.range 4).all (fun k => (onLinks 0xF).takesLink k 0 3 == none) = true := by decide +kernel

/-! ### The step -/

/-- A gang that is about to issue word w of class e, as the next item of the agenda. -/
def gI (e : Eng) (w : Word) : Gang := { gn e 3 with words := [w] }
def issuing (e : Eng) (w : Word) : State := { on (gI e w) qL with agenda := [.issue 0 9] }
def issued (e : Eng) (w : Word) : State := { ({ issuing e w with agenda := [] } : State).tick 0 with cur := 9 }

/-- StepRunsDecoded: a LANE and an SFU word that decode, and a word with a reserved bit. -/
theorem witness_step :
  (∀ x ∈ [(Eng.lane, (0x00F80280017FF003 : Word)), (.sfu, 0x00F8008001000000), (.lane, 0x00F8008204002000)],
    (issuing x.1 x.2).boot.powered = true ∧ (issuing x.1 x.2).agenda = [.issue 0 9] ∧ (issued x.1 x.2).here? = some (gI x.1 x.2, qL) ∧
    (issued x.1 x.2).chosen (gI x.1 x.2) qL = true ∧ (gI x.1 x.2).header.classAt 1 = some x.1 ∧ (gI x.1 x.2).misplaced = false ∧
    (∀ y ∈ (issued x.1 x.2).gangs, y.squad = qL.id → y.id = 9) ∧ qL.us = {} ∧ ((issued x.1 x.2).part 0 0).sfuFree ≤ (issued x.1 x.2).now ∧
    (issued x.1 x.2).sfuBefore (gI x.1 x.2) qL ((issued x.1 x.2).portOf (gI x.1 x.2) qL) = false ∧
    (issued x.1 x.2).matching (gI x.1 x.2) qL ((gI x.1 x.2).pc + 8) = []) ∧
  (decodeWord .lane false 0x00F80280017FF003).toOption.isSome = true ∧ (decodeWord .sfu false 0x00F8008001000000).toOption.isSome = true ∧
  (decodeWord .lane false 0x00F8008204002000).toOption.isSome = false := by decide +kernel

/-- A branch in a place that is not its clause's last. -/
def gMis : Gang := { gn .ctl 3 with hdr := BitVec.ofNat 64 (Eng.ctl.code * 2 ^ 60 + 2 ^ 56), words := [0x01FB000000000000, BitVec.ofNat 64 nopW] }
theorem witness_misplaced :
  let s : State := { ({ on gMis qL with agenda := [] } : State).tick 0 with cur := 9 }
  s.here? = some (gMis, qL) ∧ s.chosen gMis qL = true ∧ gMis.header.classAt 1 = some .ctl ∧ gMis.misplaced = true ∧ gMis.header.len = 2 ∧
  s.matching gMis qL (gMis.pc + 8) = [] := by decide +kernel

/-- Events as items of each kind, and a module without power. -/
theorem witness_stepEvents :
  (Instr.partReset).isEvent = true ∧ (Instr.graph).isEvent = true ∧ (Instr.teamSave 3).isEvent = true ∧
  ({ State.reset with agenda := [.event 5 .powerGood] } : State).boot.powered = true ∧
  ({ State.reset with boot := { powered := false } } : State).agenda = [] := by decide +kernel

/-- StepKeepsMemoryForm: a safe state whose step answers a next state. -/
theorem witness_memoryForm : Safe State.reset ∧ ∃ t, step { State.reset with agenda := [.event 5 .powerGood] } = .next t :=
  ⟨rfl, _, rfl⟩

/-- DecodeEncode: well-formed instructions of an FM, an FC and an FA row. -/
theorem witness_encode :
  (Instr.iadd ⟨cm .vec 511, .vec 511, .imm (-256), 3⟩).opcode = some (.lane, 0) ∧ (Instr.iadd ⟨cm .vec 511, .vec 511, .imm (-256), 3⟩).wf = true ∧
  (Instr.bra ⟨c0, -33554432, 0⟩).wf = true ∧ (Instr.ld ⟨cm .vec 511, .vec 510, 6, (-2048)⟩).wf = true ∧
  (Instr.powerGood).opcode = none := by decide

/-- The two clauses of the encoded example of spec/03_encoding_and_assembly.md; and what R120 rejects: a terminal instruction that is not
last, a TAIL that is no CTL instruction, and an empty clause. -/
def hdrL (tail : Bool) : Header := ⟨0, 0, tail, false, false, 0, 0⟩
theorem test_encodedExample :
  encodeClause (hdrL false) [.iadd ⟨⟨31, false, .vec, 2, false, true, 0⟩, .vec 0, .imm (-3), 0⟩,
      .shl ⟨⟨5, true, .vec, 3, false, false, 0⟩, .lat 0, .uni 7, 0⟩] = some [0x0100000000000000, 0x00F80120007FD000, 0x0E2C018200207000] ∧
  encodeClause (hdrL true) [.iadd ⟨cm .vec 0, .vec 0, .imm 1, 0⟩, .bra ⟨⟨3, false, .none, 0, false, false, 0⟩, -3, 0⟩] =
    some [0x0180000000000000, 0x00F8000000601000, 0x011B0003FFFFFD00] ∧
  encodeClause ⟨11, 0, false, false, false, 0, 0⟩ [.bra ⟨c0, 1, 0⟩, .nop ⟨c0, .vec 0, .vec 0, 0⟩] = none ∧
  encodeClause (hdrL true) [.iadd ⟨cm .vec 0, .vec 0, .imm 1, 0⟩] = none ∧ encodeClause (hdrL false) [] = none := by decide +kernel

/-- R410: what the host reads at reset and after bring-up. -/
theorem test_registers :
  State.reset.readRegister 0 0 = none ∧ (host 0 []).readRegister 0 0 = some 0x10000 ∧ (host 0 []).readRegister 0 0x20 = some 4 ∧
  (host 0 []).readRegister 0 0x40 = some 3 ∧ (host 0 []).readRegister 0 0x38 = some 0 ∧ (host 0 []).readRegister 0 0x48 = some 0 := by decide +kernel

/-! ### Results of single instructions, from the rules' own tables and examples -/

/-- R132: a sum that wraps, one that saturates, a high product, and IABS of 0x80000000. -/
theorem test_integer :
  after .lane qL (.iadd ⟨cm .vec 5, .vec 2, .vec 2, 0⟩) 5 = some 0 ∧
  after .lane qL (.iadd ⟨cm .vec 5, .vec 2, .vec 2, 3⟩) 5 = some 0xFFFFFFFF ∧
  after .lane qL (.iadd ⟨cm .vec 5, .vec 2, .vec 2, 2⟩) 5 = some 0x80000000 ∧
  after .lane qL (.isub ⟨cm .vec 5, .vec 4, .vec 3, 0⟩) 5 = some 0xFFFFFFFE ∧
  after .lane qL (.imulh ⟨cm .vec 5, .vec 2, .vec 2, 0⟩) 5 = some 0x40000000 ∧
  after .lane qL (.imulh ⟨cm .vec 5, .vec 2, .vec 3, 0⟩) 5 = some 0xFFFFFFFE ∧
  after .lane qL (.imulh ⟨cm .vec 5, .vec 2, .vec 3, 1⟩) 5 = some 1 ∧
  after .lane qL (.imin ⟨cm .vec 5, .vec 2, .vec 3, 1⟩) 5 = some 3 ∧
  after .lane qL (.iabs ⟨cm .vec 5, .vec 2, .vec 0, 0⟩) 5 = some 0x80000000 ∧
  after .lane qL (.iabs ⟨cm .vec 5, .vec 2, .vec 0, 2⟩) 5 = some 0x7FFFFFFF := by decide +kernel

/-- R133 to R135: IMAD, the carry of IADD64 into the high register, and the address of an element of 8 bytes. -/
theorem test_wide :
  after .lane qL (.imad ⟨cm .vec 5, .vec 3, .vec 3, .vec 4⟩) 5 = some 10 ∧
  after .lane qL (.iadd64 ⟨cm .vec 8, .vec 2, .vec 2, 0⟩) 9 = some 7 ∧ after .lane qL (.iadd64 ⟨cm .vec 8, .vec 2, .vec 2, 0⟩) 8 = some 0 ∧
  after .lane qL (.iadd64 ⟨cm .vec 8, .vec 2, .imm (-1), 0⟩) 8 = some 0x7FFFFFFF ∧
  after .lane qL (.lea ⟨cm .vec 8, .vec 2, .vec 4, 3⟩) 8 = some 0x80000008 := by decide +kernel

/-- R136 to R141. -/
theorem test_bits :
  after .lane qL (.andn ⟨cm .vec 5, .imm (-1), .vec 2, 0⟩) 5 = some 0x7FFFFFFF ∧
  after .lane qL (.shl ⟨cm .vec 5, .vec 3, .imm 32, 0⟩) 5 = some 0 ∧ after .lane qL (.sar ⟨cm .vec 5, .vec 2, .imm 40, 0⟩) 5 = some 0xFFFFFFFF ∧
  after .lane qL (.shr ⟨cm .vec 5, .vec 2, .imm 31, 0⟩) 5 = some 1 ∧ after .lane qL (.rotl ⟨cm .vec 5, .vec 2, .imm 33, 0⟩) 5 = some 1 ∧
  after .lane qL (.fshr ⟨cm .vec 5, .vec 2, .vec 3, .imm 31⟩) 5 = some 7 ∧
  after .lane (sq [(2, 0x80000000), (3, 0x11F)] []) (.bfx ⟨cm .vec 5, .vec 2, .vec 3, 1⟩) 5 = some 0xFFFFFFFF ∧
  after .lane (sq [(2, 0x80000000), (3, 0x804)] []) (.bfi ⟨cm .vec 5, .vec 2, .imm (-1), .vec 3⟩) 5 = some 0x80000FF0 ∧
  after .lane qL (.clz ⟨cm .vec 5, .vec 4, .vec 0, 0⟩) 5 = some 31 ∧ after .lane qL (.brev ⟨cm .vec 5, .vec 2, .vec 0, 0⟩) 5 = some 1 ∧
  after .lane qL (.prmt ⟨cm .vec 5, .vec 2, .vec 3, 0xFAC⟩) 5 = some 3 := by decide +kernel

/-- R142, R143: a signed and an unsigned comparison, and a selection. -/
theorem test_compare :
  after .lane qL (.icmp ⟨cm .vec 5, .vec 2, .vec 3, 2⟩) 5 = some 1 ∧ after .lane qL (.icmp ⟨cm .vec 5, .vec 2, .vec 3, 10⟩) 5 = some 0 ∧
  after .lane qL (.sel ⟨cm .vec 5, .vec 3, .vec 4, .vec 0⟩) 5 = some 3 ∧ after .lane qL (.sel ⟨cm .vec 5, .vec 3, .vec 4, .vec 1⟩) 5 = some 1 ∧
  after .lane qL (.movi ⟨cm .vec 5, 3735928559⟩) 5 = some 0xDEADBEEF := by decide +kernel

/-- 1.0, 2^-24, a signalling NaN and +infinity in v2 to v5, 464.0 and 465.0 in v6 and v7. -/
def qFp : Squad := sq [(2, 0x3F800000), (3, 0x33800000), (4, 0x7F800001), (5, 0x7F800000), (6, 0x43E80000), (7, 0x43E88000)] []
/-- R145 to R149: roundings, flags, saturation, NaNs, and classes. -/
theorem test_float :
  after .lane qFp (.fadd ⟨cm .vec 8, .vec 2, .vec 3, 0⟩) 8 = some 0x3F800000 ∧ flagsAfter .lane qFp (.fadd ⟨cm .vec 8, .vec 2, .vec 3, 0⟩) = some 1 ∧
  after .lane qFp (.fadd ⟨cm .vec 8, .vec 2, .vec 3, 3⟩) 8 = some 0x3F800001 ∧ after .lane qFp (.fadd ⟨cm .vec 8, .vec 2, .vec 2, 0x20⟩) 8 = some 0x3F800000 ∧
  after .lane qFp (.fadd ⟨cm .vec 8, .vec 2, .vec 2, 0x12⟩) 8 = some 0x80000000 ∧
  after .lane qFp (.fmul ⟨cm .vec 8, .vec 0, .vec 5, 0⟩) 8 = some 0x7FC00000 ∧ flagsAfter .lane qFp (.fmul ⟨cm .vec 8, .vec 0, .vec 5, 0⟩) = some 16 ∧
  after .lane qFp (.ffmaRn ⟨cm .vec 8, .vec 2, .vec 2, .vec 2⟩) 8 = some 0x40000000 ∧
  after .lane qFp (.fmin ⟨cm .vec 8, .vec 4, .vec 2, 0⟩) 8 = some 0x3F800000 ∧
  after .lane qFp (.fclass ⟨cm .vec 8, .vec 5, .imm (-1), 0⟩) 8 = some 0x80 ∧ after .lane qFp (.fclass ⟨cm .vec 8, .vec 4, .imm (-1), 0⟩) 8 = some 0x100 ∧
  after .lane qFp (.fscale ⟨cm .vec 8, .vec 2, .imm (-149), 0⟩) 8 = some 1 := by decide +kernel

/-- R152 to R154, with their examples, and packed elements (R150). -/
theorem test_convert :
  after .lane qFp (.cvt ⟨cm .vec 8, .vec 6, .vec 0, 0x0B8⟩) 8 = some 0x7E ∧ flagsAfter .lane qFp (.cvt ⟨cm .vec 8, .vec 6, .vec 0, 0x0B8⟩) = some 1 ∧
  after .lane qFp (.cvt ⟨cm .vec 8, .vec 7, .vec 0, 0x0B8⟩) 8 = some 0x7F ∧ flagsAfter .lane qFp (.cvt ⟨cm .vec 8, .vec 7, .vec 0, 0x0B8⟩) = some 20 ∧
  after .lane (sq [(2, 0x3F804000), (3, 0xBFFF)] []) (.cvtsr ⟨cm .vec 8, .vec 2, .vec 3, 0⟩) 8 = some 0x3F80 ∧
  after .lane (sq [(2, 0x3F804000), (3, 0xC000)] []) (.cvtsr ⟨cm .vec 8, .vec 2, .vec 3, 0⟩) 8 = some 0x3F81 ∧
  after .lane (sq [(2, 0x3C004000), (3, 0x3C003C00)] []) (.hadd2 ⟨cm .vec 8, .vec 2, .vec 3, 0⟩) 8 = some 0x40004200 ∧
  after .lane qFp (.pack2 ⟨cm .vec 8, .vec 2, .vec 5, 0⟩) 8 = some 0x7C003C00 := by decide +kernel

/-- R159 to R162, over lanes 0 and 1, of which lane 0 has v3 = 3 and p0. -/
theorem test_crossLane :
  after .lane qL (.vote ⟨cm .vec 5, .vec 0, .vec 0, 2⟩) 5 = some 1 ∧ after .lane qL (.vote ⟨cm .vec 5, .vec 0, .vec 0, 1⟩) 5 = some 0 ∧
  after .lane qL (.rduc ⟨cm .vec 5, .vec 3, .vec 0, 0⟩) 5 = some 3 ∧ after .lane qL (.rduc ⟨cm .vec 5, .vec 3, .vec 0, 0x24⟩) 5 = some 0xFFFFFFFF ∧
  after .lane qL (.shfl ⟨cm .vec 5, .vec 3, .imm 1, 3⟩) 5 = some 0 ∧ after .lane qL (.shfl ⟨cm .vec 5, .vec 3, .imm 1, 1⟩) 5 = some 3 ∧
  after .lane qL (.plop ⟨cm .pred 1, .vec 0, .vec 0, 8⟩) 2 = some 0x80000000 := by decide +kernel

/-- R166: the check value of CRC-32C, whose last byte one HCRC takes; R167, R168: the quads v0:3 and v4:7. -/
theorem test_hash :
  after .lane (sq [(2, BitVec.ofNat 32 (hcrcFn 4 (BitVec.ofNat 32 (hcrcFn 4 0xFFFFFFFF 0x34333231)) 0x38373635))] [])
    (.hcrc ⟨cm .vec 5, .vec 2, .imm 0x39, 1⟩) 5 = some (0xE3069283 ^^^ 0xFFFFFFFF) ∧
  after .lane qL (.bcmp ⟨cm .vec 8, .vec 0, .vec 4, 2⟩) 8 = some 0 ∧ after .lane qL (.bcmp ⟨cm .vec 8, .vec 0, .vec 4, 1⟩) 8 = some 0xFFFFFFFF ∧
  after .lane qL (.bfind ⟨cm .vec 8, .vec 0, .imm 3, 0⟩) 8 = some 12 ∧ after .lane qL (.bfind ⟨cm .vec 8, .vec 0, .imm 255, 1⟩) 8 = some 16 := by decide +kernel

/-- R173 to R177: correctly rounded results, and the flags of a quotient, a division by zero and a domain error. -/
theorem test_sfu :
  after .sfu (sq [(2, 0x40000000)] []) (.rcpAcc ⟨cm .vec 5, .vec 2, .vec 0, 0⟩) 5 = some 0x3F000000 ∧
  after .sfu (sq [(2, 0x3F800000), (3, 0x40400000)] []) (.fdivAcc ⟨cm .vec 5, .vec 2, .vec 3, 0⟩) 5 = some 0x3EAAAAAB ∧
  flagsAfter .sfu (sq [(2, 0x3F800000), (3, 0x40400000)] []) (.fdivAcc ⟨cm .vec 5, .vec 2, .vec 3, 0⟩) = some 1 ∧
  after .sfu qL (.rcp ⟨cm .vec 5, .vec 2, .vec 0, 0⟩) 5 = some 0xFF800000 ∧ flagsAfter .sfu qL (.rcp ⟨cm .vec 5, .vec 2, .vec 0, 0⟩) = some 8 ∧
  after .sfu (sq [(2, 0xBF800000)] []) (.sqrtAcc ⟨cm .vec 5, .vec 2, .vec 0, 0⟩) 5 = some 0x7FC00000 ∧
  flagsAfter .sfu (sq [(2, 0xBF800000)] []) (.sqrtAcc ⟨cm .vec 5, .vec 2, .vec 0, 0⟩) = some 16 := by decide +kernel

/-- R113 to R116: a user trap goes to the vector with its registers set. -/
theorem test_trap :
  (nextOf (exec (.trap ⟨cp0, .vec 0, 0x7FFFFF⟩) { on { g2 .ctl with words := [encode (.trap ⟨cp0, .vec 0, 0x7FFFFF⟩)] } qC with launches := [launchT] }) State.reset).gangs.map
      (fun (g : Gang) => (g.pc, g.handler, g.trap.regs.xcode, g.trap.regs.xpc, g.trap.regs.ximm, g.trap.regs.xmask)) =
    [(0x8000, true, 8, 0x1008, 0xFFFFFFFFFFFFFFFF, 1)] := by decide +kernel

/-- R261: the addition that reaches the target of a sync word passes to the next generation, with the count at 0. -/
theorem test_syncWord :
  (let w := swPut 0 2 1 false false false 0
   swGen (swAdd w 1) = 1 ∧ swCount (swAdd w 1) = 0 ∧ swTarget (swAdd w 1) = 2 ∧ swGen (swAdd (swPut 0 2 0 false false false 7) 1) = 7) := by decide +kernel

end Sys2Proof.Tests
end

section
/-!
PROOFS. Special registers, hashing and byte search (R8, R163 to R168, R228): what a write of a comparator changes and leaves, CRC-32C on words
against the model's on numbers, and the searches of a quad as `find?` and `filter` over its byte positions.
-/
namespace Sys2Proof.Machine

/-! ### The lanes of a set -/

theorem mem_lanesOf {m : Lanes} {l : Nat} : l ∈ lanesOf m ↔ m.getLsbD l = true := by
  simpa [lanesOf] using BitVec.lt_of_getLsbD

theorem lanesOf_ne_nil {m : Lanes} (h : m ≠ 0) : lanesOf m ≠ [] := by
  intro hn
  refine h (BitVec.eq_of_getLsbD_eq fun i _ => ?_)
  have hi : i ∉ lanesOf m := by simp [hn]
  simpa [mem_lanesOf] using hi

/-! ### The gang past its word -/

@[simp] theorem Gang.past_id (g : Gang) : g.past.id = g.id := by
  unfold Gang.past
  dsimp only
  split <;> rfl

@[simp] theorem State.advance_squads (s : State) (n : Nat) : (s.advance n).squads = s.squads := rfl
@[simp] theorem State.advance_cmp (s : State) (n c k : Nat) : (s.advance n).cmp c k = s.cmp c k := rfl

/-- Where the gang that issues stands in the table, moving past its word leaves it there, past its word. -/
theorem State.passed_advance {s : State} {g : Gang} (h : s.gang? g.id = some g) : Passed (s.advance g.id) g := by
  rw [Passed, State.advance, State.gang_modGang_same _ _ _ Gang.past_id, h, Option.map_some]

theorem State.here_self {s : State} {g : Gang} {q : Squad} (h : s.here? = some (g, q)) : s.gang? g.id = some g := by
  obtain ⟨hg, -⟩ := State.here_gang h
  rwa [State.gang_id hg]

/-! ### Comparators (R228) -/

@[simp] theorem State.modCmp_squads (s : State) (c k : Nat) (f : Comparator → Comparator) : (s.modCmp c k f).squads = s.squads := rfl
@[simp] theorem State.modCmp_mem (s : State) (c k : Nat) (f : Comparator → Comparator) : (s.modCmp c k f).mem = s.mem := rfl
@[simp] theorem State.modCmp_gang (s : State) (c k n : Nat) (f : Comparator → Comparator) : (s.modCmp c k f).gang? n = s.gang? n := rfl
@[simp] theorem State.draw_gang (s : State) (n : Nat) : s.draw.2.gang? n = s.gang? n := rfl
@[simp] theorem State.draw_cmp (s : State) (c k : Nat) : s.draw.2.cmp c k = s.cmp c k := rfl
@[simp] theorem State.draw_core (s : State) (c : Nat) : s.draw.2.core c = s.core c := rfl

theorem State.cmp_modCmp_same {s : State} {c k : Nat} (f : Comparator → Comparator) (h : k < (s.core c).cmp.length) :
    (s.modCmp c k f).cmp c k = f (s.cmp c k) := by
  simp [State.cmp, State.modCmp, List.getD_eq_getElem?_getD, h]

theorem State.cmp_modCmp_other {s : State} {c j k : Nat} (f : Comparator → Comparator) (h : j ≠ k) :
    (s.modCmp c k f).cmp c j = s.cmp c j := by
  simp [State.cmp, State.modCmp, List.getD_eq_getElem?_getD, h]

/-- The three numbers of a comparator name it, can be written, and only %bpa has 64 bits. -/
theorem sreg_comparator : ∀ k < 8, ∀ n ∈ [0x110 + k, 0x118 + k, 0x120 + k],
    sregCmp n = some k ∧ sregRW n = true ∧ sregWide n = decide (n < 0x118) := by decide

theorem cmpForeign_iff (c : Comparator) (h : Word) : cmpForeign c h = true ↔ c.bpc.getLsbD 0 = true ∧ c.owner ≠ h := by
  simp [cmpForeign, Comparator.en]

theorem cmpForeign_false_iff (c : Comparator) (h : Word) : cmpForeign c h = false ↔ c.bpc.getLsbD 0 = false ∨ c.owner = h := by
  rw [← Bool.not_eq_true, cmpForeign_iff, Decidable.not_and_iff_not_or_not, Decidable.not_not, Bool.not_eq_true]

/-- What SWRITE puts into a comparator: the source as wide as the register. -/
def swriteValue (q : Squad) (w : FM) (l : Nat) : Word :=
  if w.mod.toNat < 0x118 then val64 q l w.sa else (val32 q l w.sa).setWidth 64

/-- A comparator takes the value of some held lane, which the drawn value picks. -/
theorem sregWrite_comparator {s : State} {g : Gang} {q : Squad} {w : FM} {k : Nat} (hk : sregCmp w.mod.toNat = some k)
    (hh : heldLanes w.c g q ≠ 0) :
    ∃ l, (heldLanes w.c g q).getLsbD l = true ∧
      sregWrite s g q w = s.draw.2.modCmp q.core k (cmpWrite w.mod.toNat (swriteValue q w l) q.launch) := by
  obtain ⟨l0, ls, hl⟩ := List.exists_cons_of_ne_nil (lanesOf_ne_nil hh)
  have hlt : s.draw.1.toNat % (ls.length + 1) < (l0 :: ls).length := Nat.mod_lt _ (by simp)
  refine ⟨(l0 :: ls).getD (s.draw.1.toNat % (ls.length + 1)) l0, ?_, ?_⟩
  · rw [← mem_lanesOf, hl, List.getD_eq_getElem?_getD, List.getElem?_eq_getElem hlt, Option.getD_some]
    exact List.getElem_mem hlt
  · simp only [sregWrite, hk, hl]
    rfl

/-- SWRITE of a comparator of another launch traps, of any other writes it. -/
theorem exec_swrite_comparator {s : State} {g : Gang} {q : Squad} {w : FM} {k : Nat} (h : s.here? = some (g, q))
    (hk : sregCmp w.mod.toNat = some k) (hrw : sregRW w.mod.toNat = true)
    (hok : (guardFieldOk q w.c && srcOk q false (if sregWide w.mod.toNat then .r64 else .r32) w.sa) = true) :
    exec (.swrite w) s = .next
      (if cmpForeign (s.cmp q.core k) q.launch then s.decodeTrap g cIllegalOperand else (sregWrite s g q w).advance g.id) := by
  obtain ⟨hg, hs⟩ := Bool.and_eq_true_iff.mp hok
  have hx : exec (.swrite w) s = execSwrite w s := rfl
  simp only [hx, execSwrite, onGang_eq h, hk, hrw, hg, hs, Bool.true_and]
  cases cmpForeign (s.cmp q.core k) q.launch with
  | true => simp [checked]
  | false => simp [checked, roleFault_lane]

/-- SWRITE of %fflags writes the flags of the held lanes. -/
theorem exec_swrite_fflags {s : State} {g : Gang} {q : Squad} {w : FM} (h : s.here? = some (g, q)) (hm : w.mod = 0x010)
    (hok : (guardFieldOk q w.c && srcOk q false .r32 w.sa) = true) :
    exec (.swrite w) s = .next ((s.modSquad q.id fun _ => q.modLanes (heldLanes w.c g q) fun l x =>
      { x with ff := (val32 q l w.sa).setWidth 5 }).advance g.id) := by
  obtain ⟨hg, hs⟩ := Bool.and_eq_true_iff.mp hok
  have hn : w.mod.toNat = 0x010 := by rw [hm]; rfl
  have hc : sregCmp 0x010 = none := by decide
  have hrw : sregRW 0x010 = true := by decide
  have hwide : sregWide 0x010 = false := by decide
  have hx : exec (.swrite w) s = execSwrite w s := rfl
  simp only [hx, execSwrite, onGang_eq h, hn, hc, hrw, hwide, hg]
  rw [checked_ok (by simpa using hs) (roleFault_lane q)]
  simp only [sregWrite, hn, hc]

theorem cmpWrite_bpa {n : Nat} (v h : Word) (c : Comparator) (hn : n < 0x118) :
    cmpWrite n v h c = { c with bpa := v &&& 0xFFFFFFFFFFFFFFF8#64 } := by
  rw [cmpWrite, if_pos hn]
  rfl

theorem cmpWrite_bpc {n : Nat} (v : W32) (h : Word) (c : Comparator) (h1 : 0x118 ≤ n) (h2 : n < 0x120) :
    cmpWrite n (v.setWidth 64) h c =
      { c with bpc := v &&& 0xFFFF0003#32, owner := if v.getLsbD 0 then h else c.owner } := by
  simp [cmpWrite, Nat.not_lt.mpr h1, h2]

theorem cmpWrite_bpn {n : Nat} (v : W32) (h : Word) (c : Comparator) (hn : 0x120 ≤ n) :
    cmpWrite n (v.setWidth 64) h c = { c with bpn := v } := by
  simp [cmpWrite, show ¬ n < 0x118 by omega, Nat.not_lt.mpr hn]

/-! ### CRC-32C (R166) -/

/-- One bit of CRC-32C, least significant first. -/
def crcBit (c : W32) : W32 := (c >>> 1) ^^^ (if c.getLsbD 0 then 0x82F63B78#32 else 0)

/-- One byte of CRC-32C. -/
def crcWord (c : W32) (b : BitVec 8) : W32 :=
  crcBit (crcBit (crcBit (crcBit (crcBit (crcBit (crcBit (crcBit (c ^^^ b.setWidth 32))))))))

theorem crcBit_toNat (c : W32) :
    (crcBit c).toNat = if c.toNat % 2 = 1 then (c.toNat / 2) ^^^ 0x82F63B78 else c.toNat / 2 := by
  have hb : c.getLsbD 0 = decide (c.toNat % 2 = 1) := by simp [BitVec.getLsbD]
  rw [crcBit, hb, BitVec.toNat_xor, BitVec.toNat_ushiftRight, Nat.shiftRight_eq_div_pow, Nat.pow_one]
  by_cases h : c.toNat % 2 = 1 <;> simp [h]

theorem crcByte_toNat (c : W32) (b : BitVec 8) : crcByte c.toNat b.toNat = (crcWord c b).toNat := by
  have h0 : c.toNat ^^^ b.toNat = (c ^^^ b.setWidth 32).toNat := by
    rw [BitVec.toNat_xor, BitVec.toNat_setWidth_of_le (by decide)]
  simp only [crcByte, crcWord, h0, List.range_succ, List.range_zero, List.nil_append, List.foldl_append, List.foldl_cons, List.foldl_nil,
    ← crcBit_toNat]

/-- Byte i of a word. -/
theorem byte_toNat (d : Word) (i : Nat) : d.toNat / 256 ^ i % 256 = ((d >>> (8 * i)).setWidth 8).toNat := by
  simp [Nat.shiftRight_eq_div_pow, Nat.pow_mul]

theorem hcrcFn_toNat (bytes : Nat) (c : W32) (d : Word) :
    hcrcFn bytes c d.toNat = ((List.range bytes).foldl (fun c i => crcWord c ((d >>> (8 * i)).setWidth 8)) c).toNat :=
  List.foldl_hom BitVec.toNat fun x i => by rw [byte_toNat, crcByte_toNat]

/-! ### Byte search in a quad (R167, R168) -/

theorem bcmpFn_of_equal {a b : Nat} (mode : Nat) (h : (List.range 16).find? (fun i => a / 256 ^ i % 256 != b / 256 ^ i % 256) = none) :
    bcmpFn mode a b = if mode = 0 then 1 else if mode = 1 then 0 else 16 := by
  have hf : firstByte (fun i => a / 256 ^ i % 256 != b / 256 ^ i % 256) = 16 := by rw [firstByte, h]; rfl
  match mode with
  | 0 => simp [bcmpFn, hf, boolNat]
  | 1 => simp [bcmpFn, hf]
  | _ + 2 => simp [bcmpFn, hf]

theorem bcmpFn_of_differ {a b i : Nat} (mode : Nat) (h : (List.range 16).find? (fun i => a / 256 ^ i % 256 != b / 256 ^ i % 256) = some i) :
    bcmpFn mode a b =
      if mode = 0 then 0 else if mode = 1 then (if a / 256 ^ i % 256 < b / 256 ^ i % 256 then 0xFFFFFFFF else 1) else i := by
  have hf : firstByte (fun i => a / 256 ^ i % 256 != b / 256 ^ i % 256) = i := by rw [firstByte, h]; rfl
  have hi : i < 16 := List.mem_range.mp (List.mem_of_find?_eq_some h)
  match mode with
  | 0 => simp [bcmpFn, hf, boolNat, Nat.ne_of_lt hi]
  | 1 => simp [bcmpFn, hf, Nat.ne_of_lt hi]
  | _ + 2 => simp [bcmpFn, hf]

theorem firstByte_eq_head (f : Nat → Bool) : firstByte f = ((List.range 16).filter f).head?.getD 16 := by
  rw [firstByte, List.head?_filter]

theorem lastByte_eq_getLast (f : Nat → Bool) : lastByte f = ((List.range 16).filter f).getLast?.getD 16 := by
  rw [lastByte, List.getLast?_eq_head?_reverse, ← List.filter_reverse, List.head?_filter]

theorem sum_map_ite_eq_sum_filter (f : Nat → Bool) (g : Nat → Nat) (l : List Nat) :
    (l.map fun i => if f i then g i else 0).sum = ((l.filter f).map g).sum := by
  induction l with
  | nil => rfl
  | cons x rest ih =>
    rw [List.map_cons, List.sum_cons, ih]
    cases h : f x with
    | false => rw [List.filter_cons_of_neg (by rw [h]; exact Bool.false_ne_true), if_neg Bool.false_ne_true, Nat.zero_add]
    | true => rw [List.filter_cons_of_pos h, List.map_cons, List.sum_cons, if_pos rfl]

/-- The three results of BFIND, over the positions that hold the byte. -/
theorem bfindFn_eq (mode a x : Nat) :
    let hit := (List.range 16).filter fun i => a / 256 ^ i % 256 == x
    bfindFn mode a x = if mode = 0 then hit.head?.getD 16 else if mode = 1 then hit.getLast?.getD 16 else (hit.map fun i => 2 ^ i).sum := by
  match mode with
  | 0 => exact firstByte_eq_head _
  | 1 => exact lastByte_eq_getLast _
  | _ + 2 => exact sum_map_ite_eq_sum_filter _ _ _

/-! ### The instructions -/

theorem exec_sread {s : State} {g : Gang} {q : Squad} {w : FM} (h : s.here? = some (g, q))
    (hok : (guardFieldOk q w.c && dstOk q w.c (if sregWide w.mod.toNat then 2 else 1) true false) = true) :
    exec (.sread w) s = .next (laneDone s g q w.c (if sregWide w.mod.toNat then 2 else 1) fun l => (sregRead s g q l w.mod.toNat, 0)) := by
  have hx : exec (.sread w) s = execSread w s := rfl
  rw [hx, execSread]
  exact laneOp_next h hok (roleFault_lane q)

/-- An SWRITE that may write comparator k gives it the value of a held lane, and changes nothing else. -/
theorem does_swrite_comparator {s : State} {g : Gang} {q : Squad} {w : FM} {k : Nat} (h : s.here? = some (g, q))
    (hk : sregCmp w.mod.toNat = some k) (hrw : sregRW w.mod.toNat = true) (hlen : k < (s.core q.core).cmp.length)
    (hok : (guardFieldOk q w.c && srcOk q false (if sregWide w.mod.toNat then .r64 else .r32) w.sa) = true)
    (hown : cmpForeign (s.cmp q.core k) q.launch = false) (hh : heldLanes w.c g q ≠ 0) :
    Does (.swrite w) s fun t => ∃ l, (heldLanes w.c g q).getLsbD l = true ∧ Passed t g ∧ SameRegs t s ∧ SameMem t s ∧
      (∀ j, j ≠ k → t.cmp q.core j = s.cmp q.core j) ∧
      t.cmp q.core k = cmpWrite w.mod.toNat (swriteValue q w l) q.launch (s.cmp q.core k) := by
  obtain ⟨l, hl, hw⟩ := sregWrite_comparator hk hh
  have hx := exec_swrite_comparator h hk hrw hok
  rw [hown, if_neg Bool.false_ne_true, hw] at hx
  refine ⟨_, hx, l, hl, State.passed_advance (by simpa using State.here_self h), by simp [SameRegs], by simp [SameMem], fun j hj => ?_, ?_⟩
  · rw [State.advance_cmp, State.cmp_modCmp_other _ hj, State.draw_cmp]
  · rw [State.advance_cmp, State.cmp_modCmp_same _ (by simpa using hlen), State.draw_cmp]

/-- The three registers of a comparator, each with what a write leaves in it. -/
theorem cmpWrite_swriteValue {q : Squad} {w : FM} (l : Nat) (h : Word) (c : Comparator) :
    let n := w.mod.toNat
    let v := val32 q l w.sa
    let d := cmpWrite n (swriteValue q w l) h c
    (n < 0x118 → d = { c with bpa := val64 q l w.sa &&& 0xFFFFFFFFFFFFFFF8#64 }) ∧
    (0x118 ≤ n → n < 0x120 → d = { c with bpc := v &&& 0xFFFF0003#32, owner := if v.getLsbD 0 then h else c.owner }) ∧
    (0x120 ≤ n → d = { c with bpn := v }) := by
  dsimp only
  refine ⟨fun hn => ?_, fun h1 h2 => ?_, fun hn => ?_⟩
  · rw [swriteValue, if_pos hn, cmpWrite_bpa _ _ _ hn]
  · rw [swriteValue, if_neg (by omega), cmpWrite_bpc _ _ _ h1 h2]
  · rw [swriteValue, if_neg (by omega), cmpWrite_bpn _ _ _ hn]

/-- Settles O9: SREAD, HASH64, HCRC, BCMP and BFIND are lane operations whose functions are the stated ones; SWRITE draws the lane whose value a
comparator takes. -/
theorem specialRegistersAndHashing : Obligations.SpecialRegistersAndHashing := by
  unfold Obligations.SpecialRegistersAndHashing
  refine ⟨fun _ => rfl, by decide, fun s g q w h => ?_⟩
  extract_lets size wide byte kr
  refine ⟨exec_sread h, exec_swrite_fflags h, ?_, ?_, ?_, ?_, ?_⟩
  · intro k n hk hn hm hlen hok
    subst hm
    obtain ⟨hc, hrw, hwide⟩ := sreg_comparator k hk _ hn
    have hok' : (guardFieldOk q w.c && srcOk q false (if sregWide w.mod.toNat then .r64 else .r32) w.sa) = true := by
      simpa [hwide] using hok
    refine ⟨fun hf => ?_, fun hown hh => ?_⟩
    · rw [exec_swrite_comparator h hc hrw hok', if_pos ((cmpForeign_iff _ _).mpr hf)]
    · obtain ⟨t, ht, l, hl, hp, hr, hmem, hother, hd⟩ :=
        does_swrite_comparator h hc hrw hlen hok' ((cmpForeign_false_iff _ _).mpr hown) hh
      refine ⟨t, ht, l, hl, hp, hr, hmem, hother, ?_⟩
      simpa only [hd] using cmpWrite_swriteValue l q.launch (s.cmp q.core k)
  · exact pureOp_gives rfl rfl
  · refine pureOp_gives rfl (funext fun q => funext fun l => ?_)
    have hdata : (if hcrcBytes w.mod == 8 then (val64 q l w.sb).toNat else (val32 q l w.sb).toNat) =
        (if hcrcBytes w.mod == 8 then val64 q l w.sb else (val32 q l w.sb).setWidth 64).toNat := by
      cases hcrcBytes w.mod == 8 with
      | true => rfl
      | false => exact (BitVec.toNat_setWidth_of_le (by decide)).symm
    rw [hdata, hcrcFn_toNat]
    rfl
  · refine pureOp_gives rfl (funext fun q => funext fun l => ?_)
    dsimp only
    cases hf : (List.range 16).find? fun i => byte (valQuad q l w.sa) i != byte (valQuad q l w.sb) i with
    | none =>
      rw [bcmpFn_of_equal _ hf]
      match (w.mod.extractLsb' 0 2).toNat with
      | 0 | 1 | _ + 2 => rfl
    | some i =>
      rw [bcmpFn_of_differ _ hf]
      match (w.mod.extractLsb' 0 2).toNat with
      | 0 | 1 | _ + 2 => rfl
  · refine pureOp_gives rfl (funext fun q => funext fun l => ?_)
    rw [bfindFn_eq]
    match (w.mod.extractLsb' 0 2).toNat with
    | 0 | 1 | _ + 2 => rfl

end Sys2Proof.Machine
end

section
/-!
PROOFS. Integer arithmetic of the lane engine (R132 to R135).
-/
namespace Sys2Proof.Machine

/-- An instruction whose meaning is a pure lane operation gives what it gives in each lane. -/
theorem pureOp_gives_of_eq {i : Instr} {s : State} {c : Common} {ok : Squad → Bool} {k : Nat} {f f' : Squad → Nat → Nat × Flags}
    (h : exec i s = pureOp s c ok k f') (hf : ∀ q l, f' q l = f q l) : Gives i s ok c k f :=
  pureOp_gives h (funext fun q => funext fun l => hf q l)

/-! ### Words of one, two and three 32-bit sources -/

theorem int1_gives {i : Instr} {s : State} {w : FM} {f : W32 → Nat} {r : Squad → Nat → Nat} (h : exec i s = int1 s w f)
    (hf : ∀ q l, f (val32 q l w.sa) = r q l) : Gives i s (okFM1 w) w.c 1 fun q l => (r q l, 0) :=
  pureOp_gives_of_eq h fun q l => congrArg (·, 0) (hf q l)

theorem int2_gives {i : Instr} {s : State} {w : FM} {f : W32 → W32 → Nat} {r : Squad → Nat → Nat} (h : exec i s = int2 s w f)
    (hf : ∀ q l, f (val32 q l w.sa) (val32 q l w.sb) = r q l) : Gives i s (okFM w) w.c 1 fun q l => (r q l, 0) :=
  pureOp_gives_of_eq h fun q l => congrArg (·, 0) (hf q l)

theorem int3_gives {i : Instr} {s : State} {w : F3} {f : W32 → W32 → W32 → Nat} {r : Squad → Nat → Nat} (h : exec i s = int3 s w f)
    (hf : ∀ q l, f (val32 q l w.sa) (val32 q l w.sb) (val32 q l w.sc) = r q l) : Gives i s (okF3 w) w.c 1 fun q l => (r q l, 0) :=
  pureOp_gives_of_eq h fun q l => congrArg (·, 0) (hf q l)

/-- Settles O1: each form is a lane operation on its sources, whose exact result is wrapped or saturated. -/
theorem integerArithmetic : Obligations.IntegerArithmetic := by
  unfold Obligations.IntegerArithmetic
  intro s w t
  extract_lets u sat d x y
  have hd (v : Int) : wrapOrSat 32 sat u v = d v := wrapOrSat_eq 32 sat u v
  refine ⟨?iadd, ?isub, ?imul, ?imulh, ?imin, ?imax, ?iabs, ?imad, ?iadd64, ?lea⟩
  case iadd => exact int2_gives rfl fun q l => hd (x q l + y q l)
  case isub => exact int2_gives rfl fun q l => hd (x q l - y q l)
  case imul => exact int2_gives rfl fun q l => hd (x q l * y q l)
  case imulh => exact int2_gives rfl fun _ _ => rfl
  case imin => exact int2_gives rfl fun _ _ => rfl
  case imax => exact int2_gives rfl fun _ _ => rfl
  case iabs =>
    intro hu
    rw [hu] at hd
    exact int1_gives rfl fun q l => hd (val32 q l w.sa).toInt.natAbs
  case imad => exact int3_gives rfl fun _ _ => rfl
  case iadd64 => exact pureOp_gives_of_eq rfl fun q l => congrArg (·, 0) (wrapOrSat_eq 64 sat u _)
  case lea => exact pureOp_gives rfl rfl

end Sys2Proof.Machine
end

section
/-!
PROOFS. Logic, shifts and bit fields of the lane engine (R136 to R141): the model's arithmetic on numbers, said as operations on words.
-/
namespace Sys2Proof.Machine

/-! ### Words of 32 or, with B64, 64 bits -/

theorem logic2_gives_of_narrow {i : Instr} {s : State} {w : FM} {f : Word → Word → Word} {r : W32 → W32 → W32} (h : exec i s = logic2 s w f)
    (hm : w.mod.getLsbD 0 = false) (hf : ∀ a b : W32, (f (a.setWidth 64) (b.setWidth 64)).setWidth 32 = r a b) :
    Gives i s (okFM w) w.c 1 fun q l => ((r (val32 q l w.sa) (val32 q l w.sb)).toNat, 0) := by
  rw [logic2, hm, if_neg Bool.false_ne_true] at h
  exact int2_gives h fun q l => congrArg BitVec.toNat (hf _ _)

theorem logic2_gives_of_wide {i : Instr} {s : State} {w : FM} {f : Word → Word → Word} (h : exec i s = logic2 s w f)
    (hm : w.mod.getLsbD 0 = true) :
    Gives i s (fun q => operandsOk q w.c [(.r64, w.sa), (.r64, w.sb)] 2 true false) w.c 2 fun q l =>
      ((f (val64 q l w.sa) (val64 q l w.sb)).toNat, 0) := by
  rw [logic2, hm, if_pos rfl] at h
  exact pureOp_gives h rfl

theorem shift2_gives_of_narrow {i : Instr} {s : State} {w : FM} {f : Nat → Nat → Nat → Nat} {r : W32 → Nat → W32} (h : exec i s = shift2 s w f)
    (hm : w.mod.getLsbD 0 = false) (hf : ∀ a n, f 32 a.toNat n = (r a n).toNat) :
    Gives i s (okFM w) w.c 1 fun q l => ((r (val32 q l w.sa) ((val32 q l w.sb).toNat % 256)).toNat, 0) := by
  rw [shift2, hm, if_neg Bool.false_ne_true] at h
  exact int2_gives h fun q l => hf _ _

theorem shift2_gives_of_wide {i : Instr} {s : State} {w : FM} {f : Nat → Nat → Nat → Nat} {r : Word → Nat → Word} (h : exec i s = shift2 s w f)
    (hm : w.mod.getLsbD 0 = true) (hf : ∀ a n, f 64 a.toNat n = (r a n).toNat) :
    Gives i s (fun q => operandsOk q w.c [(.r64, w.sa), (.r32, w.sb)] 2 true false) w.c 2 fun q l =>
      ((r (val64 q l w.sa) ((val32 q l w.sb).toNat % 256)).toNat, 0) := by
  rw [shift2, hm, if_pos rfl] at h
  exact pureOp_gives_of_eq h fun q l => congrArg (·, 0) (hf _ _)

theorem setWidth_widened (a : W32) : (a.setWidth 64).setWidth 32 = a := by
  rw [BitVec.setWidth_setWidth_of_le _ (by decide), BitVec.setWidth_eq]

/-- ANDN of extended words. -/
theorem setWidth_and_not (a b : W32) : (a.setWidth 64 &&& ~~~b.setWidth 64).setWidth 32 = a &&& ~~~b := by
  rw [BitVec.setWidth_and, BitVec.setWidth_not (by decide), setWidth_widened, setWidth_widened]

/-! ### Shifts and rotates (R137, R138) -/

theorem shlFn_toNat {w : Nat} (a : BitVec w) (n : Nat) : shlFn w a.toNat n = (a <<< n).toNat := by
  rw [BitVec.toNat_shiftLeft, Nat.shiftLeft_eq, shlFn]
  split
  next => rfl
  next h => exact (Nat.mod_eq_zero_of_dvd (Nat.dvd_mul_left_of_dvd (Nat.pow_dvd_pow 2 (Nat.le_of_not_lt h)) _)).symm

theorem shrFn_toNat {w : Nat} (a : BitVec w) (n : Nat) : shrFn w a.toNat n = (a >>> n).toNat := by
  rw [BitVec.toNat_ushiftRight, Nat.shiftRight_eq_div_pow, shrFn]
  split
  next => rfl
  next h => exact (Nat.div_eq_of_lt (Nat.lt_of_lt_of_le a.isLt (Nat.pow_le_pow_right (by decide) (Nat.le_of_not_lt h)))).symm

theorem encodeInt_eq_toNat (w : Nat) (i : Int) : encodeInt w i = (BitVec.ofInt w i).toNat := (BitVec.toNat_ofInt i).symm

theorem signedOf_toNat {w : Nat} (hw : 0 < w) (a : BitVec w) : signedOf w a.toNat = a.toInt := by
  have h2 : 2 ^ w = 2 * 2 ^ (w - 1) := by rw [← Nat.pow_succ', Nat.succ_eq_add_one, Nat.sub_add_cancel hw]
  rw [signedOf, Nat.mod_eq_of_lt a.isLt, BitVec.toInt_eq_toNat_cond]
  split <;> split <;> omega

/-- Once only the sign is left, a longer shift changes nothing. -/
theorem ediv_two_pow_of_le {i : Int} {k n : Nat} (hlo : -2 ^ k ≤ i) (hhi : i < 2 ^ k) (h : k ≤ n) : i / 2 ^ n = i / 2 ^ k := by
  have hkn : (2 : Int) ^ k ≤ 2 ^ n := by exact_mod_cast Nat.pow_le_pow_right (by decide : 0 < 2) h
  have hk : (0 : Int) < 2 ^ k := Int.pow_pos (by decide)
  rcases Int.lt_or_le i 0 with hi | hi
  · rw [Int.ediv_eq_neg_one_of_neg_of_le hi (by omega), Int.ediv_eq_neg_one_of_neg_of_le hi (by omega)]
  · rw [Int.ediv_eq_zero_of_lt hi (by omega), Int.ediv_eq_zero_of_lt hi hhi]

theorem sarFn_toNat {w : Nat} (hw : 0 < w) (a : BitVec w) (n : Nat) : sarFn w a.toNat n = (a.sshiftRight n).toNat := by
  have hdiv : a.toInt / (2 ^ (min n (w - 1)) : Nat) = a.toInt >>> n := by
    rw [Int.shiftRight_eq_div_pow, Int.natCast_pow, Int.natCast_pow]
    rcases Nat.le_total n (w - 1) with h | h
    · rw [Nat.min_eq_left h]
    · rw [Nat.min_eq_right h]
      exact (ediv_two_pow_of_le (BitVec.le_toInt a) BitVec.toInt_lt h).symm
  rw [sarFn, signedOf_toNat hw, hdiv, encodeInt_eq_toNat, BitVec.sshiftRight]

theorem rotlFn_toNat {w : Nat} (hw : 0 < w) (a : BitVec w) (n : Nat) : rotlFn w a.toNat n = (a.rotateLeft n).toNat := by
  have hk : n % w < w := Nat.mod_lt _ hw
  rw [rotlFn, BitVec.toNat_rotateLeft]
  generalize n % w = k at hk
  have hpow : 2 ^ w = 2 ^ k * 2 ^ (w - k) := by rw [← Nat.pow_add, Nat.add_sub_cancel' (Nat.le_of_lt hk)]
  have hlow : a.toNat / 2 ^ (w - k) < 2 ^ k := by
    rw [Nat.div_lt_iff_lt_mul (Nat.two_pow_pos _), ← hpow]
    exact a.isLt
  have hhigh : a.toNat * 2 ^ k % 2 ^ w = 2 ^ k * (a.toNat % 2 ^ (w - k)) := by rw [hpow, Nat.mul_comm, Nat.mul_mod_mul_left]
  rw [Nat.shiftLeft_eq, Nat.shiftRight_eq_div_pow, hhigh, Nat.two_pow_add_eq_or_of_lt hlow]

/-- Two words joined, as a number. -/
theorem toNat_append_eq_add {m n : Nat} (x : BitVec m) (y : BitVec n) : (x ++ y).toNat = x.toNat * 2 ^ n + y.toNat := by
  rw [BitVec.toNat_append, ← Nat.shiftLeft_add_eq_or_of_lt y.isLt, Nat.shiftLeft_eq]

theorem fshrFn_toNat (a b c : W32) : fshrFn a b c = (((b ++ a : Word) >>> (c.toNat % 32)).setWidth 32).toNat := by
  rw [BitVec.toNat_setWidth, BitVec.toNat_ushiftRight, Nat.shiftRight_eq_div_pow, toNat_append_eq_add, fshrFn]

/-! ### Bit fields (R139) -/

theorem nat_beq_eq_decide (a b : Nat) : (a == b) = decide (a = b) := rfl

theorem bitOf_toNat {w : Nat} (a : BitVec w) (k : Nat) : bitOf a.toNat k = a.getLsbD k := by
  rw [← BitVec.testBit_toNat, Nat.testBit_eq_decide_div_mod_eq, bitOf, nat_beq_eq_decide]

/-- The mask of the n low bits. -/
def lowMask (n : Nat) : W32 := (1#32 <<< n) - 1#32

theorem lowMask_toNat {n : Nat} (h : n ≤ 32) : (lowMask n).toNat = 2 ^ n - 1 := by
  have hpos : 0 < 2 ^ n := Nat.two_pow_pos n
  rw [lowMask, BitVec.toNat_sub, BitVec.toNat_shiftLeft, Nat.shiftLeft_eq]
  rcases Nat.lt_or_eq_of_le h with h | rfl
  · have hlt : 2 ^ n < 2 ^ 32 := Nat.pow_lt_pow_right (by decide) h
    simp only [BitVec.toNat_ofNat]
    omega
  · rfl

theorem toNat_and_lowMask {n : Nat} (h : n ≤ 32) (a : W32) : (a &&& lowMask n).toNat = a.toNat % 2 ^ n := by
  rw [BitVec.toNat_and, lowMask_toNat h, Nat.and_two_pow_sub_one_eq_mod]

theorem toNat_or_not_lowMask {n : Nat} (h : n ≤ 32) (a : W32) :
    (a &&& lowMask n ||| ~~~lowMask n).toNat = (a &&& lowMask n).toNat + (2 ^ 32 - 2 ^ n) := by
  have hpos : 0 < 2 ^ n := Nat.two_pow_pos n
  have hle : 2 ^ n ≤ 2 ^ 32 := Nat.pow_le_pow_right (by decide) h
  have hlt : a.toNat % 2 ^ n < 2 ^ n := Nat.mod_lt _ hpos
  rw [← BitVec.add_eq_or_of_and_eq_zero _ _ (by rw [BitVec.and_assoc, BitVec.and_not_self]; exact BitVec.and_zero),
    BitVec.toNat_add, BitVec.toNat_not, lowMask_toNat h, toNat_and_lowMask h]
  omega

theorem fieldLen_le (p : W32) : fieldLen p ≤ 32 := by unfold fieldLen; omega

theorem bfxFn_toNat (m : BitVec 12) (a p : W32) :
    let len := fieldLen p
    let f := (a >>> fieldPos p) &&& lowMask len
    bfxFn m a p = (if m.getLsbD 0 && decide (0 < len) && f.getLsbD (len - 1) then f ||| ~~~lowMask len else f).toNat := by
  intro len f
  have hf : a.toNat / 2 ^ fieldPos p % 2 ^ len = f.toNat := by
    rw [toNat_and_lowMask (fieldLen_le p), BitVec.toNat_ushiftRight, Nat.shiftRight_eq_div_pow]
  simp only [bfxFn]
  rw [hf, bitOf_toNat, apply_ite BitVec.toNat, toNat_or_not_lowMask (fieldLen_le p)]

theorem bfiFn_toNat (a b p : W32) :
    let m := lowMask (fieldLen p) <<< fieldPos p
    bfiFn a b p = ((a &&& ~~~m) ||| ((b <<< fieldPos p) &&& m)).toNat := by
  intro m
  have hm : BitVec.ofNat 32 ((2 ^ fieldLen p - 1) * 2 ^ fieldPos p) = m := BitVec.eq_of_toNat_eq (by
    rw [BitVec.toNat_ofNat, BitVec.toNat_shiftLeft, lowMask_toNat (fieldLen_le p), Nat.shiftLeft_eq])
  simp only [bfiFn, hm]

/-! ### Counts and permutations (R140, R141) -/

theorem popcFn_eq (a : W32) : popcFn a = ((List.range 32).filter fun k => a.getLsbD k).length := by
  simp only [popcFn, popCount, bitOf_toNat]

theorem clzFn_eq (a : W32) : clzFn a = ((List.range 33).find? fun k => k == 32 || a.getLsbD (31 - k)).getD 32 := by
  have hlog : a.toNat ≠ 0 → a.toNat.log2 < 32 := fun h => (Nat.log2_lt h).mpr a.isLt
  have hfind : ((List.range 33).find? fun k => k == 32 || a.getLsbD (31 - k)) = some (clzFn a) := by
    rw [List.find?_range_eq_some, clzFn, floorLog2]
    split
    next h =>
      obtain rfl : a = 0 := BitVec.eq_of_toNat_eq h
      exact ⟨rfl, by decide, by decide⟩
    next h =>
      have hl := hlog h
      refine ⟨?_, List.mem_range.mpr (by omega), fun j hj => ?_⟩
      · rw [show 31 - (31 - a.toNat.log2) = a.toNat.log2 by omega, ← BitVec.testBit_toNat, Nat.testBit_log2 h, Bool.or_true]
      · have hz : a.getLsbD (31 - j) = false := by
          rw [← BitVec.testBit_toNat]
          exact Nat.testBit_lt_two_pow ((Nat.log2_lt h).mp (by omega))
        rw [hz, Bool.or_false, Bool.not_eq_true', beq_eq_false_iff_ne]
        omega
  rw [hfind, Option.getD_some]

/-- A number from its low bits. -/
theorem sum_bits_eq_mod (a n : Nat) : ((List.range n).map fun k => if a.testBit k then 2 ^ k else 0).sum = a % 2 ^ n := by
  induction n with
  | zero => exact (Nat.mod_one a).symm
  | succ n ih =>
    rw [List.range_succ, List.map_append, List.sum_append, List.map_singleton, List.sum_singleton, ih, Nat.pow_succ, Nat.mod_mul,
      Nat.testBit_eq_decide_div_mod_eq]
    rcases Nat.mod_two_eq_zero_or_one (a / 2 ^ n) with h | h
    · rw [if_neg (by rw [h]; decide), h, Nat.mul_zero]
    · rw [if_pos (decide_eq_true h), h, Nat.mul_one]

theorem brevFn_toNat (a : W32) : brevFn a = a.reverse.toNat := by
  have hbit : ∀ k < 32, a.getLsbD (31 - k) = a.reverse.toNat.testBit k := fun k hk => by
    rw [BitVec.testBit_toNat, BitVec.getLsbD_reverse, BitVec.getMsbD, decide_eq_true hk, Bool.true_and]
  have hrev : (List.range 32).reverse = (List.range 32).map (31 - ·) := by decide
  calc brevFn a = (((List.range 32).reverse).map fun k => if a.getLsbD k then 2 ^ (31 - k) else 0).sum := by
        rw [List.map_reverse, List.sum_reverse, brevFn]
    _ = ((List.range 32).map fun k => if a.reverse.toNat.testBit k then 2 ^ k else 0).sum := by
        rw [hrev, List.map_map]
        refine congrArg List.sum (List.map_congr_left fun k hk => ?_)
        have hk : k < 32 := List.mem_range.mp hk
        rw [Function.comp_apply, hbit k hk, show 31 - (31 - k) = k by omega]
    _ = a.reverse.toNat := by rw [sum_bits_eq_mod, Nat.mod_eq_of_lt a.reverse.isLt]

theorem prmtFn_toNat (m : BitVec 12) (a b : W32) :
    let byte (i : Nat) : BitVec 8 := (b ++ a : Word).extractLsb' (8 * (m.extractLsb' (3 * i) 3).toNat) 8
    prmtFn m a b = (byte 3 ++ byte 2 ++ byte 1 ++ byte 0).toNat := by
  intro byte
  have hb (i : Nat) : (b.toNat * 2 ^ 32 + a.toNat) / 256 ^ (m.extractLsb' (3 * i) 3).toNat % 256 = (byte i).toNat := by
    rw [← toNat_append_eq_add, show byte i = (b ++ a : Word).extractLsb' (8 * (m.extractLsb' (3 * i) 3).toNat) 8 from rfl,
      BitVec.extractLsb'_toNat _ _ (b ++ a), Nat.shiftRight_eq_div_pow, Nat.pow_mul]
  have hsum (f : Nat → Nat) : ((List.range 4).map f).sum = f 0 + (f 1 + (f 2 + f 3)) := rfl
  rw [prmtFn, hsum, hb, hb, hb, hb, toNat_append_eq_add, toNat_append_eq_add, toNat_append_eq_add]
  omega

/-- Settles O3: the narrow and the wide forms, then the field and permutation forms, each by the lemma for its function. -/
theorem logicShiftsAndFields : Obligations.LogicShiftsAndFields := by
  unfold Obligations.LogicShiftsAndFields
  intro s w t
  extract_lets pos len wide n ok2 okS
  refine ⟨fun hn => ⟨?and, ?or, ?xor, ?andn, ?shl, ?shr, ?sar, ?rotl⟩, fun hw => ⟨?and64, ?or64, ?xor64, ?andn64, ?shl64, ?shr64, ?sar64, ?rotl64⟩,
    ?fshr, ?bfi, ?bfx, ?popc, ?clz, ?brev, ?prmt⟩
  case and =>
    exact logic2_gives_of_narrow (f := (· &&& ·)) (r := (· &&& ·)) rfl hn fun a b => by
      rw [BitVec.setWidth_and, setWidth_widened, setWidth_widened]
  case or =>
    exact logic2_gives_of_narrow (f := (· ||| ·)) (r := (· ||| ·)) rfl hn fun a b => by
      rw [BitVec.setWidth_or, setWidth_widened, setWidth_widened]
  case xor =>
    exact logic2_gives_of_narrow (f := (· ^^^ ·)) (r := (· ^^^ ·)) rfl hn fun a b => by
      rw [BitVec.setWidth_xor, setWidth_widened, setWidth_widened]
  case andn => exact logic2_gives_of_narrow (f := fun a b => a &&& ~~~b) (r := fun a b => a &&& ~~~b) rfl hn setWidth_and_not
  case shl => exact shift2_gives_of_narrow (r := (· <<< ·)) rfl hn shlFn_toNat
  case shr => exact shift2_gives_of_narrow (r := (· >>> ·)) rfl hn shrFn_toNat
  case sar => exact shift2_gives_of_narrow (r := BitVec.sshiftRight) rfl hn (sarFn_toNat (by decide))
  case rotl => exact shift2_gives_of_narrow (r := BitVec.rotateLeft) rfl hn (rotlFn_toNat (by decide))
  case and64 => exact logic2_gives_of_wide (f := (· &&& ·)) rfl hw
  case or64 => exact logic2_gives_of_wide (f := (· ||| ·)) rfl hw
  case xor64 => exact logic2_gives_of_wide (f := (· ^^^ ·)) rfl hw
  case andn64 => exact logic2_gives_of_wide (f := fun a b => a &&& ~~~b) rfl hw
  case shl64 => exact shift2_gives_of_wide (r := (· <<< ·)) rfl hw shlFn_toNat
  case shr64 => exact shift2_gives_of_wide (r := (· >>> ·)) rfl hw shrFn_toNat
  case sar64 => exact shift2_gives_of_wide (r := BitVec.sshiftRight) rfl hw (sarFn_toNat (by decide))
  case rotl64 => exact shift2_gives_of_wide (r := BitVec.rotateLeft) rfl hw (rotlFn_toNat (by decide))
  case fshr => exact int3_gives rfl fun _ _ => fshrFn_toNat _ _ _
  case bfi => exact int3_gives rfl fun _ _ => bfiFn_toNat _ _ _
  case bfx => exact int2_gives rfl fun _ _ => bfxFn_toNat _ _ _
  case popc => exact int1_gives rfl fun _ _ => popcFn_eq _
  case clz => exact int1_gives rfl fun _ _ => clzFn_eq _
  case brev => exact int1_gives rfl fun _ _ => brevFn_toNat _
  case prmt => exact int2_gives rfl fun _ _ => prmtFn_toNat _ _ _

end Sys2Proof.Machine
end

section
/-!
PROOFS. Comparisons, selection and moves of the lane engine (R142 to R144, R148), and the values of floating-point codes of every format (R123):
what a code stands for, and the order of codes as the order of numbers.
-/
namespace Sys2Proof.Machine

/-! ### Floating-point codes -/

theorem signBit_pos (f : Fmt) : 0 < signBit f := Nat.two_pow_pos _

theorem maxFinite_lt_signBit (f : Fmt) : maxFinite f + 1 < signBit f := by cases f <;> decide

theorem infBits_lt_signBit (f : Fmt) : infBits f < signBit f := by cases f <;> decide

/-- Infinity has the highest exponent and no fraction; the format without infinities has its largest number there. -/
theorem maxFinite_succ_eq (f : Fmt) (h : f ≠ .e4m3) : maxFinite f + 1 = (2 ^ expBits f - 1) * 2 ^ fracBits f := by
  cases f with
  | e4m3 => exact absurd rfl h
  | f32 | f16 | bf16 | e5m2 => rfl

/-- A code below twice the sign bit is a magnitude with or without the sign bit. -/
theorem code_eq (f : Fmt) {b : Nat} (hb : b < 2 * signBit f) : b = b % signBit f + if codeNeg f b then signBit f else 0 := by
  by_cases h : signBit f ≤ b
  · rw [codeNeg, decide_eq_true h, if_pos rfl, Nat.mod_eq_sub_mod h, Nat.mod_eq_of_lt (by omega)]
    omega
  · rw [codeNeg, decide_eq_false h, if_neg Bool.false_ne_true, Nat.mod_eq_of_lt (by omega), Nat.add_zero]

/-- A sign and a magnitude. -/
def signed (neg : Bool) (mag : Nat) : Int := if neg then -(mag : Int) else mag

/-- Of unequal magnitudes the greater one's sign decides. -/
theorem signed_lt_of_gt (n n' : Bool) {x x' : Nat} (h : x' < x) : signed n x < signed n' x' ↔ n = true := by
  cases n <;> cases n' <;> simp only [signed, if_true, if_false, Bool.false_eq_true, iff_true, iff_false] <;> omega

theorem signed_lt_of_lt (n n' : Bool) {x x' : Nat} (h : x < x') : signed n x < signed n' x' ↔ n' = false := by
  cases n <;> cases n' <;> simp only [signed, if_true, if_false, Bool.false_eq_true, reduceCtorEq, iff_true, iff_false] <;> omega

theorem signed_lt_same (n n' : Bool) {x : Nat} (h : 0 < x) : signed n x < signed n' x ↔ (n && !n') = true := by
  cases n <;> cases n' <;> simp only [signed, Bool.not_true, Bool.not_false, Bool.and_self, Bool.and_false, Bool.false_and, Bool.false_eq_true,
    if_true, if_false, iff_true, iff_false] <;> omega

/-- Magnitudes in the same order, and zero together, have the same order with signs. -/
theorem signed_lt_congr (n n' : Bool) {x x' y y' : Nat} (hlt : x < x' ↔ y < y') (hgt : x' < x ↔ y' < y) (hz : x = 0 ↔ y = 0)
    (hz' : x' = 0 ↔ y' = 0) : signed n x < signed n' x' ↔ signed n y < signed n' y' := by
  cases n <;> cases n' <;> simp only [signed, if_true, if_false, Bool.false_eq_true] <;> omega

/-- The order of codes is that of signed magnitudes. -/
theorem orderCode_eq (f : Fmt) {b : Nat} (hb : b < 2 * signBit f) : orderCode f false b = signed (codeNeg f b) (b % signBit f) := by
  have h := code_eq f hb
  generalize b % signBit f = mag at h ⊢
  rw [orderCode, signed]
  cases hn : codeNeg f b with
  | true =>
    rw [hn, if_pos rfl] at h
    rw [if_pos rfl, if_pos rfl, if_neg Bool.false_ne_true, h]
    omega
  | false =>
    rw [hn, if_neg Bool.false_ne_true] at h
    rw [if_neg Bool.false_ne_true, if_neg Bool.false_ne_true, h, Nat.add_zero]

theorem bitOf_sign (f : Fmt) {b : Nat} (hb : b < 2 * signBit f) : bitOf b (expBits f + fracBits f) = codeNeg f b := by
  have hlt : b / signBit f < 2 := Nat.div_lt_of_lt_mul (by omega)
  have hle : 1 ≤ b / signBit f ↔ signBit f ≤ b := by rw [Nat.le_div_iff_mul_le (signBit_pos f), Nat.one_mul]
  rw [bitOf, codeNeg, ← signBit, nat_beq_eq_decide, decide_eq_decide, ← hle]
  generalize b / signBit f = d at hlt ⊢
  omega

/-- A magnitude is its exponent field and its fraction. -/
theorem mod_signBit_eq (f : Fmt) (b : Nat) :
    b % signBit f = b / 2 ^ fracBits f % 2 ^ expBits f * 2 ^ fracBits f + b % 2 ^ fracBits f := by
  rw [signBit, Nat.add_comm (expBits f), Nat.pow_add, Nat.mod_mul, Nat.add_comm, Nat.mul_comm]

/-- The significand m and the exponent e above the least one of a finite magnitude: together they are the magnitude's code, and the leading 1 of m
is missing at the least exponent only. -/
structure Significand (f : Fmt) (mag m e : Nat) : Prop where
  code : mag = e * 2 ^ fracBits f + m
  lt : m < 2 ^ (fracBits f + 1)
  leading : 2 ^ fracBits f ≤ m ∨ e = 0

/-- Of two significands the one of the higher exponent is the larger, as a code and as a number. -/
theorem Significand.lt_of_exp_lt {f : Fmt} {mag m e mag' m' e' : Nat} (h : Significand f mag m e) (h' : Significand f mag' m' e') (he : e < e') :
    mag < mag' ∧ m < m' * 2 ^ (e' - e) := by
  have hlead : 2 ^ fracBits f ≤ m' := h'.leading.resolve_right (by omega)
  have hm := h.lt
  rw [Nat.pow_succ] at hm
  constructor
  · have hcode : (e + 1) * 2 ^ fracBits f ≤ e' * 2 ^ fracBits f := Nat.mul_le_mul_right _ he
    rw [Nat.add_mul, Nat.one_mul] at hcode
    rw [h.code, h'.code]
    omega
  · have htwo : 2 ^ 1 ≤ 2 ^ (e' - e) := Nat.pow_le_pow_right (by decide) (by omega)
    exact Nat.lt_of_lt_of_le hm (Nat.mul_le_mul hlead htwo)

/-- Magnitudes stand in the order of their codes. -/
theorem Significand.lt_iff {f : Fmt} {mag m e mag' m' e' : Nat} (h : Significand f mag m e) (h' : Significand f mag' m' e') :
    m * 2 ^ (e - min e e') < m' * 2 ^ (e' - min e e') ↔ mag < mag' := by
  rcases Nat.lt_trichotomy e e' with he | rfl | he
  · obtain ⟨hc, hv⟩ := h.lt_of_exp_lt h' he
    rw [Nat.min_eq_left (Nat.le_of_lt he), Nat.sub_self, Nat.pow_zero, Nat.mul_one]
    exact iff_of_true hv hc
  · rw [Nat.min_self, Nat.sub_self, Nat.pow_zero, Nat.mul_one, Nat.mul_one, h.code, h'.code, Nat.add_lt_add_iff_left]
  · obtain ⟨hc, hv⟩ := h'.lt_of_exp_lt h he
    rw [Nat.min_eq_right (Nat.le_of_lt he), Nat.sub_self, Nat.pow_zero, Nat.mul_one]
    exact iff_of_false (Nat.lt_asymm hv) (Nat.lt_asymm hc)

/-- Only the zero code has no significand. -/
theorem Significand.eq_zero_iff {f : Fmt} {mag m e : Nat} (h : Significand f mag m e) : m = 0 ↔ mag = 0 := by
  have hpos := Nat.two_pow_pos (fracBits f)
  rw [h.code]
  rcases h.leading with hl | rfl
  · exact iff_of_false (by omega) (by omega)
  · rw [Nat.zero_mul, Nat.zero_add]

theorem Significand.mul_two_pow_eq_zero_iff {f : Fmt} {mag m e : Nat} (h : Significand f mag m e) (k : Nat) : m * 2 ^ k = 0 ↔ mag = 0 := by
  rw [Nat.mul_eq_zero, ← h.eq_zero_iff]
  exact ⟨fun hm => hm.resolve_right (Nat.ne_of_gt (Nat.two_pow_pos k)), .inl⟩

/-- A significand without its leading 1 is a magnitude below the least normal one. -/
theorem Significand.lt_fracBits_iff {f : Fmt} {mag m e : Nat} (h : Significand f mag m e) : m < 2 ^ fracBits f ↔ mag < 2 ^ fracBits f := by
  rw [h.code]
  rcases h.leading with hl | rfl
  · exact iff_of_false (by omega) (by omega)
  · rw [Nat.zero_mul, Nat.zero_add]

/-- The finite number of an exponent field and a fraction. -/
theorem fin_of_fields (f : Fmt) (neg : Bool) (ex : Nat) {frac : Nat} (hf : frac < 2 ^ fracBits f) :
    ∃ m e : Nat, Significand f (ex * 2 ^ fracBits f + frac) m e ∧
      (if ex = 0 then FV.fin neg frac (eminOf f - fracBits f) else .fin neg (frac + 2 ^ fracBits f) ((ex : Int) - biasOf f - fracBits f)) =
        .fin neg m (e + (eminOf f - fracBits f)) := by
  rcases Nat.eq_zero_or_eq_succ_pred ex with h | h
  · subst h
    refine ⟨frac, 0, ⟨rfl, ?_, .inr rfl⟩, ?_⟩
    · rw [Nat.pow_succ]
      omega
    · exact (if_pos rfl).trans (congrArg (FV.fin neg frac) (Int.zero_add _).symm)
  · generalize ex.pred = e at h
    subst h
    refine ⟨frac + 2 ^ fracBits f, e, ⟨?_, ?_, .inl (Nat.le_add_left _ _)⟩, ?_⟩
    · rw [Nat.succ_mul]
      omega
    · rw [Nat.pow_succ]
      omega
    · rw [if_neg (Nat.succ_ne_zero e), eminOf]
      congr 1
      push_cast
      omega

/-- A code stands for a NaN, for an infinity or for a finite number (R123). -/
theorem fvOf_cases (f : Fmt) {b : Nat} (hb : b < 2 * signBit f) :
    (nanCode f b = true ∧ fvOf f b = .nan (snanCode f b)) ∨
    (nanCode f b = false ∧ b % signBit f = maxFinite f + 1 ∧ fvOf f b = .inf (codeNeg f b)) ∨
    (nanCode f b = false ∧ b % signBit f ≤ maxFinite f ∧ ∃ m e : Nat,
      Significand f (b % signBit f) m e ∧ fvOf f b = .fin (codeNeg f b) m (e + (eminOf f - fracBits f))) := by
  have hfrac : b % 2 ^ fracBits f < 2 ^ fracBits f := Nat.mod_lt _ (Nat.two_pow_pos _)
  have hex : b / 2 ^ fracBits f % 2 ^ expBits f < 2 ^ expBits f := Nat.mod_lt _ (Nat.two_pow_pos _)
  have hmag := mod_signBit_eq f b
  obtain ⟨m, e, hsig, hfin⟩ := fin_of_fields f (codeNeg f b) (b / 2 ^ fracBits f % 2 ^ expBits f) hfrac
  rw [← hmag] at hsig
  by_cases h8 : f = .e4m3
  · subst h8
    have hnan : nanCode .e4m3 b = decide (b / 2 ^ 3 % 2 ^ 4 = 15 ∧ b % 2 ^ 3 = 7) := by
      rw [nanCode, if_pos rfl, nat_beq_eq_decide, decide_eq_decide]
      omega
    by_cases hn : b / 2 ^ 3 % 2 ^ 4 = 15 ∧ b % 2 ^ 3 = 7
    · refine .inl ⟨hnan.trans (decide_eq_true hn), ?_⟩
      rw [fvOf, if_pos rfl]
      exact if_pos hn
    · refine .inr (.inr ⟨hnan.trans (decide_eq_false hn), ?_, m, e, hsig, ?_⟩)
      · show b % 128 ≤ 126
        omega
      · rw [fvOf, if_pos rfl, bitOf_sign _ hb, ← hfin]
        exact if_neg hn
  · have hmax := maxFinite_succ_eq f h8
    have hnan : nanCode f b = decide (maxFinite f + 1 < b % signBit f) := if_neg h8
    simp only [fvOf, if_neg h8, bitOf_sign f hb, hfin]
    by_cases hx : b / 2 ^ fracBits f % 2 ^ expBits f = 2 ^ expBits f - 1
    · rw [hx, ← hmax] at hmag
      rw [if_pos hx]
      by_cases hz : b % 2 ^ fracBits f = 0
      · exact .inr (.inl ⟨by rw [hnan]; exact decide_eq_false (by omega), by omega, if_pos hz⟩)
      · have ht : nanCode f b = true := by rw [hnan]; exact decide_eq_true (by omega)
        refine .inl ⟨ht, ?_⟩
        rw [if_neg hz, snanCode, ht, bne_iff_ne.mpr h8, Bool.true_and, Bool.true_and]
    · have hlt : (b / 2 ^ fracBits f % 2 ^ expBits f + 1) * 2 ^ fracBits f ≤ (2 ^ expBits f - 1) * 2 ^ fracBits f :=
        Nat.mul_le_mul_right _ (by omega)
      rw [← hmax, Nat.add_mul, Nat.one_mul] at hlt
      rw [if_neg hx]
      exact .inr (.inr ⟨by rw [hnan]; exact decide_eq_false (by omega), by omega, m, e, hsig, rfl⟩)

theorem snanCode_of_not_nan {f : Fmt} {b : Nat} (h : nanCode f b = false) : snanCode f b = false := by
  rw [snanCode, h, Bool.and_false, Bool.false_and]

theorem isNaN_fvOf (f : Fmt) {b : Nat} (hb : b < 2 * signBit f) : (fvOf f b).isNaN = nanCode f b := by
  rcases fvOf_cases f hb with ⟨hn, hv⟩ | ⟨hn, -, hv⟩ | ⟨hn, -, m, e, -, hv⟩ <;> rw [hv, hn] <;> rfl

theorem isSNaN_fvOf (f : Fmt) {b : Nat} (hb : b < 2 * signBit f) : (fvOf f b).isSNaN = snanCode f b := by
  rcases fvOf_cases f hb with ⟨-, hv⟩ | ⟨hn, -, hv⟩ | ⟨hn, -, m, e, -, hv⟩
  · rw [hv]
    rfl
  · rw [hv, snanCode_of_not_nan hn]
    rfl
  · rw [hv, snanCode_of_not_nan hn]
    rfl

/-- Finite numbers are compared as their signed magnitudes. -/
theorem fvLt_fin {f : Fmt} {n n' : Bool} {mag m e mag' m' e' : Nat} (c : Int) (h : Significand f mag m e) (h' : Significand f mag' m' e') :
    fvLt (.fin n m (e + c)) (.fin n' m' (e' + c)) = decide (signed n mag < signed n' mag') := by
  have hx : ((e : Int) + c - min ((e : Int) + c) ((e' : Int) + c)).toNat = e - min e e' := by omega
  have hx' : ((e' : Int) + c - min ((e : Int) + c) ((e' : Int) + c)).toNat = e' - min e e' := by omega
  have hgt := h'.lt_iff h
  rw [Nat.min_comm e' e] at hgt
  simp only [fvLt, scaled, hx, hx', decide_eq_decide]
  exact signed_lt_congr n n' (h.lt_iff h') hgt (h.mul_two_pow_eq_zero_iff _) (h'.mul_two_pow_eq_zero_iff _)

/-- Codes that are no NaN are compared as the numbers that they stand for (R142). -/
theorem fvLt_fvOf (f : Fmt) {a b : Nat} (ha : a < 2 * signBit f) (hb : b < 2 * signBit f) :
    fvLt (fvOf f a) (fvOf f b) = (!(nanCode f a || nanCode f b) && decide (orderCode f false a < orderCode f false b)) := by
  rw [orderCode_eq f ha, orderCode_eq f hb]
  rcases fvOf_cases f ha with ⟨hn, hv⟩ | ⟨hn, hi, hv⟩ | ⟨hn, hi, m, e, hs, hv⟩ <;>
    rcases fvOf_cases f hb with ⟨hn', hv'⟩ | ⟨hn', hi', hv'⟩ | ⟨hn', hi', m', e', hs', hv'⟩ <;>
    rw [hv, hv', hn, hn']
  case inl.inl | inl.inr.inl | inl.inr.inr | inr.inl.inl | inr.inr.inl => rfl
  case inr.inl.inr.inl =>
    simp only [hi, hi', signed_lt_same _ _ (Nat.succ_pos _), Bool.decide_eq_true]
    rfl
  case inr.inl.inr.inr =>
    simp only [signed_lt_of_gt _ _ (by omega : b % signBit f < a % signBit f), Bool.decide_eq_true]
    rfl
  case inr.inr.inr.inl =>
    simp only [signed_lt_of_lt _ _ (by omega : a % signBit f < b % signBit f), Bool.decide_eq_false]
    rfl
  case inr.inr.inr.inr =>
    rw [fvLt_fin _ hs hs']
    rfl

theorem fvEq_fvOf (f : Fmt) {a b : Nat} (ha : a < 2 * signBit f) (hb : b < 2 * signBit f) :
    fvEq (fvOf f a) (fvOf f b) = (!(nanCode f a || nanCode f b) && decide (orderCode f false a = orderCode f false b)) := by
  rw [fvEq, isNaN_fvOf f ha, isNaN_fvOf f hb, fvLt_fvOf f ha hb, fvLt_fvOf f hb ha, ← Bool.not_or, Bool.or_comm (nanCode f b)]
  cases nanCode f a || nanCode f b with
  | true => rfl
  | false =>
    simp only [Bool.not_false, Bool.true_and, ← decide_not, ← Bool.decide_and, decide_eq_decide]
    omega

/-! ### Sources as codes (R104, R123) -/

theorem withSign_lt (f : Fmt) (neg : Bool) {b : Nat} (hb : b < signBit f) : withSign f neg b < 2 * signBit f := by
  unfold withSign
  split <;> omega

theorem overflowResult_lt (f : Fmt) (mode : RMode) (neg : Bool) : (overflowResult f mode neg).1 < 2 * signBit f := by
  have hmax : maxFinite f < signBit f := Nat.lt_trans (Nat.lt_succ_self _) (maxFinite_lt_signBit f)
  rw [overflowResult.eq_def]
  extract_lets away
  by_cases h : f = .e4m3
  · subst h
    rw [if_pos rfl]
    cases away with
    | true => exact (by decide : 0x7F < 2 * signBit .e4m3)
    | false => exact withSign_lt _ neg (by decide)
  · rw [if_neg h]
    cases away with
    | true => exact withSign_lt f neg (infBits_lt_signBit f)
    | false => exact withSign_lt f neg hmax

theorem roundFin_lt (f : Fmt) (mode : RMode) (neg : Bool) (m : Nat) (e : Int) : (roundFin f mode neg m e).1 < 2 * signBit f := by
  have hmax := maxFinite_lt_signBit f
  simp only [roundFin]
  split
  next => exact withSign_lt f neg (signBit_pos f)
  next =>
    split
    next => exact overflowResult_lt f mode neg
    next => exact withSign_lt f neg (by omega)

/-- Round of R7 gives a code of its format. -/
theorem roundFV_lt (f : Fmt) (mode : RMode) (v : FV) : (roundFV f mode v).1 < 2 * signBit f := by
  cases v with
  | nan sg =>
    show canonNaN f < 2 * signBit f
    cases f <;> decide
  | fin n m e => exact roundFin_lt f mode n m e
  | inf n =>
    simp only [roundFV]
    by_cases h : f = .e4m3
    · subst h
      rw [if_pos rfl]
      exact (by decide : 0x7F < 2 * signBit .e4m3)
    · rw [if_neg h]
      exact withSign_lt f n (infBits_lt_signBit f)

theorem valFloat_lt (f : Fmt) (q : Squad) (l : Nat) (x : Src) : valFloat f q l x < 2 * signBit f := by
  have hw : 2 ^ widthOf f = 2 * signBit f := by rw [widthOf, Nat.add_assoc, Nat.pow_add, Nat.pow_one, signBit]
  have hmod (v : Nat) : v % 2 ^ widthOf f < 2 * signBit f := by rw [← hw]; exact Nat.mod_lt _ (Nat.two_pow_pos _)
  cases x with
  | imm v => exact roundFV_lt f .rn _
  | vec n | uni n | lat n => exact hmod _

/-! ### Comparisons and classes (R142, R148) -/

/-- A class of FP32 (R148), from the code. -/
theorem fclassOf_eq {a : Nat} (ha : a < 2 ^ 32) :
    let mag := a % 2 ^ 31
    let neg := decide (2 ^ 31 ≤ a)
    fclassOf a =
      if snanCode .f32 a then 8 else if nanCode .f32 a then 9
      else if mag = 0x7F800000 then (if neg then 0 else 7) else if mag = 0 then (if neg then 3 else 4)
      else if mag < 2 ^ 23 then (if neg then 2 else 5) else if neg then 1 else 6 := by
  intro mag neg
  rcases fvOf_cases .f32 (b := a) ha with ⟨hn, hv⟩ | ⟨hn, hi, hv⟩ | ⟨hn, hi, m, e, hsig, hv⟩
  · rw [fclassOf, hv, hn]
    cases snanCode .f32 a <;> rfl
  · have hmag : mag = 0x7F800000 := hi
    rw [fclassOf, hv, snanCode_of_not_nan hn, hn, if_neg Bool.false_ne_true, if_neg Bool.false_ne_true, if_pos hmag]
    show _ = if codeNeg .f32 a then 0 else 7
    cases codeNeg .f32 a <;> rfl
  · have hmag : mag ≠ 0x7F800000 := Nat.ne_of_lt (Nat.lt_succ_of_le hi)
    have hz : m = 0 ↔ mag = 0 := hsig.eq_zero_iff
    have hsub : m < 2 ^ 23 ↔ mag < 2 ^ 23 := hsig.lt_fracBits_iff
    rw [fclassOf, hv, snanCode_of_not_nan hn, hn, if_neg Bool.false_ne_true, if_neg Bool.false_ne_true, if_neg hmag]
    simp only [hz, hsub]
    rfl

theorem boolNat_bne_zero (m : Nat) : boolNat (m != 0) = if m = 0 then 0 else 1 := by
  cases m with
  | zero | succ n => rfl

/-- FCLASS tests the bit of the class in its mask. -/
theorem bitOf_mod_1024 (x : W32) (k : Nat) : bitOf (x.toNat % 1024) k = (x.getLsbD k && decide (k < 10)) := by
  rw [← BitVec.testBit_toNat, Bool.and_comm, ← Nat.testBit_mod_two_pow, Nat.testBit_eq_decide_div_mod_eq, bitOf, nat_beq_eq_decide]

/-- A condition of FCMP, from the orders of two codes and whether one of them is a NaN (R142). -/
def codeRel (cc : Nat) (nan : Bool) (x y : Int) : Bool :=
  match cc with
  | 0 => !nan && decide (x = y)
  | 1 => nan || decide (x ≠ y)
  | 2 => !nan && decide (x < y)
  | 3 => !nan && decide (x ≤ y)
  | 4 => !nan && decide (y < x)
  | 5 => !nan && decide (y ≤ x)
  | 6 => !nan
  | _ => nan

theorem number_lt_or_eq (nan : Bool) (x y : Int) : (!nan && decide (x < y) || !nan && decide (x = y)) = (!nan && decide (x ≤ y)) := by
  rw [← Bool.and_or_distrib_left, ← Bool.decide_or, decide_eq_decide.mpr Int.le_iff_lt_or_eq]

theorem fcmpFn_holds (m : BitVec 12) {a b : Nat} (ha : a < 2 ^ 32) (hb : b < 2 ^ 32) :
    (fcmpFn m a b).1 =
      codeRel (m.extractLsb' 0 3).toNat (nanCode .f32 a || nanCode .f32 b) (orderCode .f32 false a) (orderCode .f32 false b) := by
  simp only [fcmpFn, isNaN_fvOf .f32 ha, isNaN_fvOf .f32 hb, fvEq_fvOf .f32 ha hb, fvLt_fvOf .f32 ha hb, fvLt_fvOf .f32 hb ha,
    Bool.or_comm (nanCode .f32 b) (nanCode .f32 a)]
  generalize (nanCode .f32 a || nanCode .f32 b) = nan
  generalize orderCode .f32 false a = x
  generalize orderCode .f32 false b = y
  match (m.extractLsb' 0 3).toNat with
  | 0 | 2 | 4 | 6 | _ + 7 => rfl
  | 1 => exact (by rw [Bool.not_and, Bool.not_not, decide_not] : (!(!nan && decide (x = y))) = (nan || decide (x ≠ y)))
  | 3 => exact number_lt_or_eq nan x y
  | 5 => exact (congrArg (fun p => !nan && decide (y < x) || !nan && p) (decide_eq_decide.mpr eq_comm)).trans (number_lt_or_eq nan y x)

theorem fcmpFn_flags (m : BitVec 12) {a b : Nat} (ha : a < 2 ^ 32) (hb : b < 2 ^ 32) :
    let cc := (m.extractLsb' 0 3).toNat
    (fcmpFn m a b).2 =
      if snanCode .f32 a || snanCode .f32 b || ((nanCode .f32 a || nanCode .f32 b) && decide (2 ≤ cc ∧ cc ≤ 5)) then 16 else 0 := by
  simp only [fcmpFn, isNaN_fvOf .f32 ha, isNaN_fvOf .f32 hb, isSNaN_fvOf .f32 ha, isSNaN_fvOf .f32 hb]
  rfl

/-- Settles O5: integer comparisons and moves have the stated functions; FCMP and FCLASS read numbers, whose order and class their codes give. -/
theorem compareSelectMove : Obligations.CompareSelectMove := by
  unfold Obligations.CompareSelectMove
  intro s w t k
  have hsrc (q : Squad) (l : Nat) (x : Src) : valFloat .f32 q l x < 2 ^ 32 := valFloat_lt .f32 q l x
  refine ⟨?icmp, ?fcmp, ?fclass, ?sel, fun hm => ?mov, fun hm => ?mov64, ?movi⟩
  case icmp => exact pureOp_gives rfl rfl
  case fcmp =>
    refine pureOp_gives_of_eq rfl fun q l => Prod.ext ?_ ?_
    · dsimp only
      rw [fcmpFn_holds _ (hsrc q l w.sa) (hsrc q l w.sb)]
      rfl
    · exact fcmpFn_flags _ (hsrc q l w.sa) (hsrc q l w.sb)
  case fclass =>
    refine pureOp_gives_of_eq rfl fun q l => congrArg (·, 0) ?_
    simp only [← fclassOf_eq (hsrc q l w.sa), bitOf_mod_1024, boolNat_bne_zero]
  case sel => exact pureOp_gives rfl rfl
  case mov =>
    have hx : exec (.mov w) s = int1 s w fun a => a.toNat := if_neg (ne_true_of_eq_false hm)
    exact int1_gives hx fun _ _ => rfl
  case mov64 => exact pureOp_gives (if_pos hm) rfl
  case movi => exact pureOp_gives rfl rfl

end Sys2Proof.Machine
end
